-- ==== Sys2Proof/Word.lean ====
section
/-! DEFINITION. The word types of the GX960: bytes, 32-bit lanes, 64-bit scalar words and 64-lane vectors. -/

namespace Sys2Proof

/-- A byte of memory (R5). -/
abbrev Byte := BitVec 8
/-- One 32-bit lane of a vector (R213). -/
abbrev Lane := BitVec 32
/-- A 64-bit scalar word (R75). -/
abbrev Word := BitVec 64
/-- A vector of 64 lanes (R213). -/
abbrev Vec := Vector Lane 64

/-- Element `i mod (n + 1)` of a vector: a read that is total. -/
def nth {α : Type} {n : Nat} (v : Vector α (n + 1)) (i : Nat) : α := v[i % (n + 1)]'(Nat.mod_lt _ (Nat.succ_pos n))
/-- Replace element `i mod (n + 1)` of a vector. -/
def setNth {α : Type} {n : Nat} (v : Vector α (n + 1)) (i : Nat) (x : α) : Vector α (n + 1) :=
  v.set (i % (n + 1)) x (Nat.mod_lt _ (Nat.succ_pos n))

/-- The vector of 64 equal lanes. -/
def Vec.splat (x : Lane) : Vec := Vector.replicate 64 x
/-- Lane `i mod 64` of a vector. -/
def Vec.lane (v : Vec) (i : Nat) : Lane := v[i % 64]'(Nat.mod_lt _ (by decide))
/-- The vector whose lane `i` is `f i`. -/
def Vec.build (f : Nat → Lane) : Vec := Vector.ofFn fun i => f i.val

@[simp] theorem Vec.lane_build (f : Nat → Lane) (i : Nat) : (Vec.build f).lane i = f (i % 64) := by
  simp [Vec.lane, Vec.build]
@[simp] theorem Vec.lane_splat (x : Lane) (i : Nat) : (Vec.splat x).lane i = x := by
  simp [Vec.lane, Vec.splat]

end Sys2Proof
end

