-- ==== Sys2Proof/Syntax.lean ====
section
/-! DEFINITION. The instructions of the GX960: every row of the opcode table is one constructor of `Instr`. Slot rows carry
their guard, source and destination as decoded fields; rows without an encoding are the device's own steps (events). -/

namespace Sys2Proof

/-- One of the two thread places of a core (R7, Table 1-1): primary (even number) or secondary (odd number). -/
inductive Place where
  | p0
  | p1
  deriving DecidableEq, Repr

/-- The slot a move stands in and its guard field (R68, R69): `g = 0` with `inv = false` is unconditional. -/
structure Grd where
  slot : Fin 8
  g : Fin 16
  inv : Bool
  deriving DecidableEq, Repr

/-- The function units in the order of Table 4-3 (`u` of operand port ids). -/
inductive FU where
  | seq | sys | en | am | sa0 | sa1 | ls | fa0 | fa1 | sfa | vma | fb0 | fb1 | sfb | vmb | mx | xf
  deriving DecidableEq, Repr

/-- Scalar result ports `sa0.r`, `sa1.r`, `ls.r`, `sys.r` (Table 4-7). -/
inductive SPort where
  | sa0r | sa1r | lsr | sysr
  deriving DecidableEq, Repr

/-- The 16 vector result ports in source-id order (Table 4-7). -/
inductive VPort where
  | fa0r | fa0rx | fa1r | fa1rx | sfar | vmar
  | fb0r | fb0rx | fb1r | fb1rx | sfbr | vmbr
  | mxr | mxrx | xfr | xfrx
  deriving DecidableEq, Repr

/-- The two vector clusters. -/
inductive Clu where
  | a | b
  deriving DecidableEq, Repr

/-- The coordinate ports of a cluster (R115): a dimension, the linear index, the map state. -/
inductive CPort where
  | cd (d : Fin 14)
  | cdl
  | cdm
  deriving DecidableEq, Repr

/-- A move's source (Table 4-7). -/
inductive Src where
  | s (n : Fin 64)
  | va (n : Fin 32)
  | vb (n : Fin 32)
  | p (n : Fin 16)
  | qa (n : Fin 16)
  | qb (n : Fin 16)
  | spool (n : Fin 16)
  | sport (r : SPort)
  | xab
  | xba
  | vport (r : VPort)
  | coord (c : Clu) (k : CPort)
  | imm (n : Fin 224)
  | fconst (n : Fin 16)
  | limm (lit : BitVec 24)
  | limmz (lit : BitVec 24)
  | mplo
  | mphi
  | tid
  | skid
  | lx (n : Fin 6)
  | w (n : Fin 4)
  deriving DecidableEq, Repr

/-- The read-only special registers a plain move may name (Table 4-4): such a write is ignored. -/
inductive ROReg where
  | fmt | seed | nrc | flags | poolb0 | poolb1 | poolb2
  deriving DecidableEq, Repr

/-- A plain move's destination (Table 4-3), less those that are rows of their own (spool write ports, TSCALE, mpc, STAT,
ERRINJ_CTL and the triggers). -/
inductive Dst where
  | s (n : Fin 64)
  | va (n : Fin 32)
  | vb (n : Fin 32)
  | p (n : Fin 16)
  | qa (n : Fin 16)
  | qb (n : Fin 16)
  | ro (r : ROReg)
  | errinjAddr
  | xab
  | xba
  | opnd (u : FU) (j : Fin 3)
  deriving DecidableEq, Repr

/-- What the debugger may name in a register write (R48): a register of Table 4-3 or one chunk of a tile. -/
inductive DbgDst where
  | s (n : Fin 64)
  | p (n : Fin 16)
  | va (n : Fin 32)
  | vb (n : Fin 32)
  | qa (n : Fin 16)
  | qb (n : Fin 16)
  | tchunk (n : Fin 8) (c : Fin 48)
  | cchunk (n : Fin 8) (c : Fin 144)
  | sp (n : Fin 16)
  | w (n : Fin 4)
  | xab
  | xba
  | fmt
  | tscale
  | mpc
  | seed
  | nrc
  | flags
  | stat
  | poolb (n : Fin 3)
  | errinjAddr
  | errinjCtl
  | attach (launch : Nat) (on : Bool)
  | brk (launch bundle : Nat) (on : Bool)
  deriving DecidableEq, Repr

/-- A port of the latch view (R48): an operand latch `oj`, or a result port. -/
inductive LatchSel where
  | o (j : Fin 3)
  | r
  | rx
  deriving DecidableEq, Repr

/-- What a Twine packet carries (R15): nothing, an acknowledgement of every flit up to a sequence number (R384), a read or a write of
device memory, the answer to a read, an exchange row with the ranges of it that hold poison (R285), a join or leave of a skein by a thread of
the sending device, that thread's part of a collective (R287), and the news that the source's endpoint has a new generation (R385). `nak` is the
far end's report that a flit failed its CRC, with that flit's number (R384); `rowFault` answers a row whose destination milestone's translation faults
(R359); `stop` halts a skein's members together (R47). A thread of another device is named by its launch and id there. -/
inductive TPkt where
  | idle
  | ack (upTo : BitVec 12)
  | nak (from_ : BitVec 12)
  | read (pa n : Nat)
  | write (pa : Nat) (bs : List (BitVec 8)) (poison : Bool)
  | reply (bs : List (BitVec 8)) (poison : Bool)
  | row (dcl off : Nat) (bs : List (BitVec 8)) (bad : List (Nat × Nat)) (asid : BitVec 16) (dms : Word)
  | rowAck (ok : Bool)
  | rowFault
  | join (pa launch : Nat) (tid : BitVec 32) (clrht : Bool)
  | leave (pa launch : Nat) (tid : BitVec 32)
  | coll (pa launch : Nat) (tid : BitVec 32) (op red dt nb : Nat) (bs : List (BitVec 8)) (poison : Bool)
  | collOut (launch : Nat) (tid : BitVec 32) (bs : List (BitVec 8)) (poison : Bool)
  | stop (pa launch : Nat) (tid : BitVec 32)
  | generation
  deriving DecidableEq, Repr

/-- A stage of bring-up after the ROM's, with what it finds (Table 22-8): the dies whose controllers start; the dies whose stacks and arrays train; the ports whose lanes do not all train with the lanes that do, the expanders that train and the 64 KiB pages of each port's; and
what firmware configures: the address-space table and lane blocks (number, LBASE, LCFG). -/
inductive BootStep where
  | firmware (dies : BitVec 4)
  | memory (dies : BitVec 4)
  | links (lanes : List (Nat × Nat)) (cxl : BitVec 8) (sizes : List Nat)
  | configure (astbase astlen : Word) (lanes : List (Nat × Word × Word))
  deriving DecidableEq, Repr

/-- What reaches the management range and what firmware does on the management controllers: a write, or a read by a device, over Twine, at an offset
and of a size, of an agent that firmware has authorised or not (R392); firmware's own acts, which have no such offset: the policy values of Table
13-7, a change of policy with its configuration block and a context marked measured or not (R399), the removal of a die's oldest error
record (R374), and the stages of bring-up (R401). -/
inductive MgmtAct where
  | write (v : Word)
  | read (dev : Nat)
  | slice (quanta : Nat)
  | share (context weight : Nat)
  | overflow (die bytes : Nat)
  | policy (block : List (BitVec 8))
  | measure (context : Nat) (on : Bool)
  | takeRecord (die : Nat)
  | safeTier
  | bringUp (stage : BootStep)
  deriving DecidableEq, Repr

/-- A request over Twine that has no answer (R386): a row of a command, or the landing `k` of a place. -/
inductive TwineReq where
  | cmd (id row : Nat)
  | land (pl : Place) (k : Nat)
  deriving DecidableEq, Repr

/-- A Twine packet as a port receives it (R385): the device it comes from, its age, the A-cycles it has spent in the port, its source's
generation, and what it carries. -/
structure Wire where
  src : Nat
  age : Nat
  spent : Nat
  gen : BitVec 16
  pkt : TPkt
  deriving DecidableEq, Repr

/-- How a segment moves (R273): whole, unless the network fails it (R379), or, of a copy or gather, some of its granules before the others (R165). -/
inductive SegMove where
  | whole (ok : Bool)
  | early (pieces : List Nat)
  deriving DecidableEq, Repr

/-- A save that may fail (R357): the thread's place, and whether an uncorrectable error met the area. -/
structure SaveEnd where
  pl : Place
  err : Bool
  deriving DecidableEq, Repr

/-- What firmware decides when it drops a die (R387): the die, the pages it moves (space, address, new place), and the pools whose groups it masks. -/
structure Drop where
  die : Nat
  moves : List (BitVec 16 × Word × Word)
  pools : List Nat
  deriving DecidableEq, Repr

/-- A firmware image of Table 22-5, its fields as they stand in flash. -/
structure FwImage where
  magic : BitVec 32
  svn : BitVec 32
  len : BitVec 64
  dig : BitVec 256
  pk : BitVec 256
  sig : List Byte
  payload : List Byte
  deriving DecidableEq, Repr

/-- One constructor per row of the opcode table. The rows with a guard are slot words of a bundle; `nop` is the empty slot;
the others are steps of the device that no word encodes. -/
inductive Instr where
  /-- PACKAGE_RESET (R401). -/
  | packageReset
  /-- SUPPLY_LOSS (R22). -/
  | supplyLoss
  /-- POWER_CAP_THROTTLE (R21). -/
  | powerCapThrottle (die : Nat)
  /-- CURRENT_LIMIT (R391). -/
  | currentLimit (die : Nat)
  /-- THERMAL_TRIP (R391). -/
  | thermalTrip (die : Nat)
  /-- THERMAL_RELEASE (R391). -/
  | thermalRelease (die : Nat)
  /-- THERMAL_SHUTDOWN (R391). -/
  | thermalShutdown (die : Nat)
  /-- TIME_SERVICE_ADJUST (R19). -/
  | timeServiceAdjust (ahead : Bool)
  /-- WIDX_WRITE (R309). -/
  | widxWrite (lane : Nat) (v : BitVec 32)
  /-- LANE_RESET (R365). -/
  | laneReset (lane : Nat)
  /-- LANE_ENTRY_READ (R309). -/
  | laneEntryRead (lane : Nat)
  /-- LANE_ENTRY_START (R312). -/
  | laneEntryStart (lane : Nat)
  /-- DEPENDENCE_POLL (R312). -/
  | dependencePoll (lane : Nat)
  /-- LAUNCH_QUEUE_ADMIT (R314). -/
  | launchQueueAdmit (die : Nat)
  /-- THREAD_PLACEMENT (R317). -/
  | threadPlacement
  /-- POOL_RECONFIGURE_DONE (R131). -/
  | poolReconfigureDone
  /-- QUANTUM_BOUNDARY (R319). -/
  | quantumBoundary
  /-- AGEING_PROMOTION (R44). -/
  | ageingPromotion (k : Nat)
  /-- CONTEXT_SAVE (R37). -/
  | contextSave (pl : Place)
  /-- SAVEFAIL (R357). -/
  | savefail (x : SaveEnd)
  /-- CONTEXT_RESTORE (R39). -/
  | contextRestore (k : Nat)
  /-- NOWAYPOINT (R353). -/
  | nowaypoint (pl : Place)
  /-- THREAD_END (R194). -/
  | threadEnd (pl : Place)
  /-- LAUNCH_COMPLETION (R313). -/
  | launchCompletion (l : Nat)
  /-- RESULT_DELIVERY (R87). -/
  | resultDelivery (pl : Place)
  /-- TILE_OPERATION_COMPLETE (R244). -/
  | tileOperationComplete (pl : Place)
  /-- STALLED_BUNDLE_ISSUE (R87). -/
  | stalledBundleIssue (pl : Place)
  /-- WAIT_RELEASE (R190). -/
  | waitRelease (pl : Place)
  /-- LANDING_DATA_ARRIVAL (R139). -/
  | landingDataArrival (pl : Place) (k : Nat)
  /-- LANDING_DUE (R139). -/
  | landingDue (pl : Place)
  /-- MONITOR_FIRE (R192). -/
  | monitorFire (k : Nat)
  /-- MONITOR_POLL (R192). -/
  | monitorPoll (k : Nat)
  /-- HOME_OPERATION_PERFORM (R294). -/
  | homeOperationPerform (pl : Place)
  /-- REPLICA_INVALIDATE (R146). -/
  | replicaInvalidate (k : Nat)
  /-- ENGINE_COMMAND_START (R272). -/
  | engineCommandStart (pl : Place)
  /-- ENGINE_SEGMENT_COMPLETE (R273). -/
  | engineSegmentComplete (cmd seg : Nat) (how : SegMove)
  /-- BIND_POLL (R306). -/
  | bindPoll (k : Nat)
  /-- ENGINE_RETRY (R153). -/
  | engineRetry (cmd seg : Nat)
  /-- SEGMENT_RESEND (R379). -/
  | segmentResend (cmd seg : Nat) (ok : Bool)
  /-- WINDER_FILL (R275). -/
  | winderFill (pl : Place) (sp : Fin 16)
  /-- WINDER_DRAIN (R275). -/
  | winderDrain (pl : Place) (sp : Fin 16)
  /-- XCHG_ROW_ARRIVAL (R285). -/
  | xchgRowArrival (cmd row : Nat) (room : Bool)
  /-- XCHG_LAYBY_REPLAY (R285). -/
  | xchgLaybyReplay
  /-- COLL_INSTANCE_ARM (R287). -/
  | collInstanceArm (cmd : Nat)
  /-- COLL_COMPLETE (R288). -/
  | collComplete (inst : Nat)
  /-- PAGE_RESIDENT (R153). -/
  | pageResident (asid : BitVec 16) (va pa : Word)
  /-- PAGE_DECLINE (R360). -/
  | pageDecline (asid : BitVec 16) (va : Word)
  /-- PAGE_WAIT_TIMEOUT (R360). -/
  | pageWaitTimeout (asid : BitVec 16) (va : Word)
  /-- PAGE_MIGRATION (R154). -/
  | pageMigration (asid : BitVec 16) (va pa : Word)
  /-- IVQ_COMMAND_EXECUTE (R152). -/
  | ivqCommandExecute (die : Nat)
  /-- XLATEC (R358). -/
  | xlatec (pl : Place)
  /-- UNWIND (R376). -/
  | unwind (pl : Place)
  /-- CORRECTED_ERROR (R368). -/
  | correctedError (level die : Nat)
  /-- ERROR_RETRY (R372). -/
  | errorRetry (level die : Nat) (addr : Word) (again : Bool)
  /-- PART_RETIREMENT (R373). -/
  | partRetirement (level die : Nat) (part : Word)
  /-- CORE_RETIREMENT (R381). -/
  | coreRetirement
  /-- FLIT_RECEIVE (R384). -/
  | flitReceive (port : Nat) (crcOk : Bool) (seq : BitVec 12) (x : Wire)
  /-- REQUEST_TIMEOUT (R386). -/
  | requestTimeout (req : TwineReq)
  /-- DIE_DROP (R387). -/
  | dieDrop (x : Drop)
  /-- CHECKPOINT (R388). -/
  | checkpoint (safe : Bool)
  /-- FIRMWARE_UPDATE (R398). -/
  | firmwareUpdate (img : FwImage)
  /-- ATTESTATION_REQUEST (R400). -/
  | attestationRequest (nonce : BitVec 256) (pa : Word)
  /-- ATTESTATION_REPORT (R400). -/
  | attestationReport
  /-- COUNTER_CLEAR (R394). -/
  | counterClear (die k : Nat)
  /-- PCAP_WRITE (R390). -/
  | pcapWrite (die : Nat) (v : BitVec 32)
  /-- MGMT_REGISTER_WRITE (R392). -/
  | mgmtRegisterWrite (off : BitVec 32) (size : Nat) (act : MgmtAct) (auth : Bool)
  /-- BREAKPOINT_HALT (R45). -/
  | breakpointHalt (pl : Place)
  /-- DEBUG_RESUME (R47). -/
  | debugResume
  /-- DEBUG_STEP (R64). -/
  | debugStep (pl : Place) (n : Nat)
  /-- DEBUGGER_REGISTER_WRITE (R48). -/
  | debuggerRegisterWrite (pl : Place) (d : DbgDst) (w : Word) (v : Vec)
  /-- LATCH_WRITE (R48). -/
  | latchWrite (pl : Place) (u : FU) (j : LatchSel) (w : Word) (v : Vec)
  /-- LATCH_FLUSH (R48). -/
  | latchFlush (pl : Place)
  /-- XCHG_ACKNOWLEDGEMENT (R285). -/
  | xchgAcknowledgement (cmd row : Nat) (ack : Bool)
  /-- LINK_TRAINED (R384). -/
  | linkTrained (port lanes : Nat)
  /-- LINE_FILL_COMPLETE (R207). -/
  | lineFillComplete (line : Nat)
  /-- LS_OCCUPANCY_END (R208). -/
  | lsOccupancyEnd
  /-- LAUNCH_QUEUE_DEPARTURE (R362). -/
  | launchQueueDeparture (die : Nat)
  /-- SVN_RAISE (R398). -/
  | svnRaise (v : Nat)
  /-- NOP (R68). -/
  | nop (slot : Fin 8)
  /-- MOVE (R73). -/
  | move (g : Grd) (src : Src) (dst : Dst)
  /-- SPOOL_READ (R275). -/
  | spoolRead (g : Grd) (sp : Fin 16) (dst : Dst)
  /-- SPOOL_WRITE (R275). -/
  | spoolWrite (g : Grd) (src : Src) (sp : Fin 16)
  /-- WRITE_TSCALE (R78). -/
  | writeTscale (g : Grd) (src : Src)
  /-- WRITE_MPC (R78). -/
  | writeMpc (g : Grd) (src : Src)
  /-- WRITE_STAT (R79). -/
  | writeStat (g : Grd) (src : Src)
  /-- WRITE_ERRINJ_CTL (R383). -/
  | writeErrinjCtl (g : Grd) (src : Src)
  /-- BR (R180). -/
  | br (g : Grd) (src : Src)
  /-- BRC (R180). -/
  | brc (g : Grd) (src : Src)
  /-- BRX (R180). -/
  | brx (g : Grd) (src : Src)
  /-- CALL (R180). -/
  | call (g : Grd) (src : Src)
  /-- CALLX (R180). -/
  | callx (g : Grd) (src : Src)
  /-- RET (R183). -/
  | ret (g : Grd) (src : Src)
  /-- LOOP (R184). -/
  | loop (g : Grd) (src : Src)
  /-- LEND (R185). -/
  | lend (g : Grd) (src : Src)
  /-- LBRK (R186). -/
  | lbrk (g : Grd) (src : Src)
  /-- WAIT (R190). -/
  | wait (g : Grd) (src : Src)
  /-- WAITA (R192). -/
  | waita (g : Grd) (src : Src)
  /-- YIELD (R193). -/
  | yield (g : Grd) (src : Src)
  /-- HALT (R194). -/
  | halt (g : Grd) (src : Src)
  /-- TRAP (R195). -/
  | trap (g : Grd) (src : Src)
  /-- DUAL (R196). -/
  | dual (g : Grd) (src : Src)
  /-- FMTW (R197). -/
  | fmtw (g : Grd) (src : Src)
  /-- NTREQ (R198). -/
  | ntreq (g : Grd) (src : Src)
  /-- LAUNCH (R199). -/
  | launch (g : Grd) (src : Src)
  /-- LAUNCHW (R199). -/
  | launchw (g : Grd) (src : Src)
  /-- SECGO (R200). -/
  | secgo (g : Grd) (src : Src)
  /-- SECSTOP (R200). -/
  | secstop (g : Grd) (src : Src)
  /-- FSET (R187). -/
  | fset (g : Grd) (src : Src)
  /-- FCLR (R187). -/
  | fclr (g : Grd) (src : Src)
  /-- SKJOIN (R202). -/
  | skjoin (g : Grd) (src : Src)
  /-- SKLEAVE (R203). -/
  | skleave (g : Grd) (src : Src)
  /-- CROPEN (R204). -/
  | cropen (g : Grd) (src : Src)
  /-- CRCLOSE (R204). -/
  | crclose (g : Grd) (src : Src)
  /-- CRABORT (R204). -/
  | crabort (g : Grd) (src : Src)
  /-- RDSR (R211). -/
  | rdsr (g : Grd) (src : Src)
  /-- PCRD (R211). -/
  | pcrd (g : Grd) (src : Src)
  /-- BRKP (R211). -/
  | brkp (g : Grd) (src : Src)
  /-- IVQW (R212). -/
  | ivqw (g : Grd) (src : Src)
  /-- ERRRD (R212). -/
  | errrd (g : Grd) (src : Src)
  /-- CTXSV (R212). -/
  | ctxsv (g : Grd) (src : Src)
  /-- CTXLD (R212). -/
  | ctxld (g : Grd) (src : Src)
  /-- QSCE (R212). -/
  | qsce (g : Grd) (src : Src)
  /-- ADD (R205). -/
  | add (g : Grd) (src : Src)
  /-- SUB (R205). -/
  | sub (g : Grd) (src : Src)
  /-- MUL (R205). -/
  | mul (g : Grd) (src : Src)
  /-- MULH_I64 (R205). -/
  | mulhI64 (g : Grd) (src : Src)
  /-- MULH_N64 (R205). -/
  | mulhN64 (g : Grd) (src : Src)
  /-- AND (R205). -/
  | and (g : Grd) (src : Src)
  /-- OR (R205). -/
  | or (g : Grd) (src : Src)
  /-- XOR (R205). -/
  | xor (g : Grd) (src : Src)
  /-- ANDN (R205). -/
  | andn (g : Grd) (src : Src)
  /-- SHL (R205). -/
  | shl (g : Grd) (src : Src)
  /-- SHR_N64 (R205). -/
  | shrN64 (g : Grd) (src : Src)
  /-- SHR_I64 (R205). -/
  | shrI64 (g : Grd) (src : Src)
  /-- ROTL (R205). -/
  | rotl (g : Grd) (src : Src)
  /-- MIN_I64 (R205). -/
  | minI64 (g : Grd) (src : Src)
  /-- MIN_N64 (R205). -/
  | minN64 (g : Grd) (src : Src)
  /-- MAX_I64 (R205). -/
  | maxI64 (g : Grd) (src : Src)
  /-- MAX_N64 (R205). -/
  | maxN64 (g : Grd) (src : Src)
  /-- CMPEQ (R205). -/
  | cmpeq (g : Grd) (src : Src)
  /-- CMPLT_I64 (R205). -/
  | cmpltI64 (g : Grd) (src : Src)
  /-- CMPLT_N64 (R205). -/
  | cmpltN64 (g : Grd) (src : Src)
  /-- CMPLE_I64 (R205). -/
  | cmpleI64 (g : Grd) (src : Src)
  /-- CMPLE_N64 (R205). -/
  | cmpleN64 (g : Grd) (src : Src)
  /-- SEL (R205). -/
  | sel (g : Grd) (src : Src)
  /-- CLZ (R205). -/
  | clz (g : Grd) (src : Src)
  /-- CTZ (R205). -/
  | ctz (g : Grd) (src : Src)
  /-- POPC (R205). -/
  | popc (g : Grd) (src : Src)
  /-- SEXT_I8 (R205). -/
  | sextI8 (g : Grd) (src : Src)
  /-- SEXT_I16 (R205). -/
  | sextI16 (g : Grd) (src : Src)
  /-- SEXT_I32 (R205). -/
  | sextI32 (g : Grd) (src : Src)
  /-- ZEXT_N8 (R205). -/
  | zextN8 (g : Grd) (src : Src)
  /-- ZEXT_N16 (R205). -/
  | zextN16 (g : Grd) (src : Src)
  /-- ZEXT_N32 (R205). -/
  | zextN32 (g : Grd) (src : Src)
  /-- BFX (R206). -/
  | bfx (g : Grd) (src : Src)
  /-- BFI (R206). -/
  | bfi (g : Grd) (src : Src)
  /-- LD_I8 (R207). -/
  | ldI8 (g : Grd) (src : Src)
  /-- LD_N8 (R207). -/
  | ldN8 (g : Grd) (src : Src)
  /-- LD_I16 (R207). -/
  | ldI16 (g : Grd) (src : Src)
  /-- LD_N16 (R207). -/
  | ldN16 (g : Grd) (src : Src)
  /-- LD_I32 (R207). -/
  | ldI32 (g : Grd) (src : Src)
  /-- LD_N32 (R207). -/
  | ldN32 (g : Grd) (src : Src)
  /-- LD_I64 (R207). -/
  | ldI64 (g : Grd) (src : Src)
  /-- ST_N8 (R207). -/
  | stN8 (g : Grd) (src : Src)
  /-- ST_N16 (R207). -/
  | stN16 (g : Grd) (src : Src)
  /-- ST_N32 (R207). -/
  | stN32 (g : Grd) (src : Src)
  /-- ST_N64 (R207). -/
  | stN64 (g : Grd) (src : Src)
  /-- INVR (R208). -/
  | invr (g : Grd) (src : Src)
  /-- WBR (R208). -/
  | wbr (g : Grd) (src : Src)
  /-- PREFL (R209). -/
  | prefl (g : Grd) (src : Src)
  /-- LDL (R210). -/
  | ldl (g : Grd) (src : Src)
  /-- FADD_F32 (R216). -/
  | faddF32 (g : Grd) (src : Src)
  /-- FADD_BF16 (R216). -/
  | faddBf16 (g : Grd) (src : Src)
  /-- FADD_F16 (R216). -/
  | faddF16 (g : Grd) (src : Src)
  /-- FSUB_F32 (R216). -/
  | fsubF32 (g : Grd) (src : Src)
  /-- FSUB_BF16 (R216). -/
  | fsubBf16 (g : Grd) (src : Src)
  /-- FSUB_F16 (R216). -/
  | fsubF16 (g : Grd) (src : Src)
  /-- FMUL_F32 (R216). -/
  | fmulF32 (g : Grd) (src : Src)
  /-- FMUL_BF16 (R216). -/
  | fmulBf16 (g : Grd) (src : Src)
  /-- FMUL_F16 (R216). -/
  | fmulF16 (g : Grd) (src : Src)
  /-- FMA_F32 (R216). -/
  | fmaF32 (g : Grd) (src : Src)
  /-- FMA_BF16 (R216). -/
  | fmaBf16 (g : Grd) (src : Src)
  /-- FMA_F16 (R216). -/
  | fmaF16 (g : Grd) (src : Src)
  /-- FMIN_F32 (R216). -/
  | fminF32 (g : Grd) (src : Src)
  /-- FMIN_BF16 (R216). -/
  | fminBf16 (g : Grd) (src : Src)
  /-- FMIN_F16 (R216). -/
  | fminF16 (g : Grd) (src : Src)
  /-- FMAX_F32 (R216). -/
  | fmaxF32 (g : Grd) (src : Src)
  /-- FMAX_BF16 (R216). -/
  | fmaxBf16 (g : Grd) (src : Src)
  /-- FMAX_F16 (R216). -/
  | fmaxF16 (g : Grd) (src : Src)
  /-- FABS_F32 (R217). -/
  | fabsF32 (g : Grd) (src : Src)
  /-- FNEG_F32 (R217). -/
  | fnegF32 (g : Grd) (src : Src)
  /-- FRND_F32 (R217). -/
  | frndF32 (g : Grd) (src : Src)
  /-- FCMPEQ_F32 (R218). -/
  | fcmpeqF32 (g : Grd) (src : Src)
  /-- FCMPLT_F32 (R218). -/
  | fcmpltF32 (g : Grd) (src : Src)
  /-- FCMPLE_F32 (R218). -/
  | fcmpleF32 (g : Grd) (src : Src)
  /-- FCMPUN_F32 (R218). -/
  | fcmpunF32 (g : Grd) (src : Src)
  /-- VADD (R219). -/
  | vadd (g : Grd) (src : Src)
  /-- VSUB (R219). -/
  | vsub (g : Grd) (src : Src)
  /-- VMUL (R219). -/
  | vmul (g : Grd) (src : Src)
  /-- VMIN_I32 (R219). -/
  | vminI32 (g : Grd) (src : Src)
  /-- VMIN_N32 (R219). -/
  | vminN32 (g : Grd) (src : Src)
  /-- VMAX_I32 (R219). -/
  | vmaxI32 (g : Grd) (src : Src)
  /-- VMAX_N32 (R219). -/
  | vmaxN32 (g : Grd) (src : Src)
  /-- VAND (R219). -/
  | vand (g : Grd) (src : Src)
  /-- VOR (R219). -/
  | vor (g : Grd) (src : Src)
  /-- VXOR (R219). -/
  | vxor (g : Grd) (src : Src)
  /-- VSHL (R219). -/
  | vshl (g : Grd) (src : Src)
  /-- VSHR_N32 (R219). -/
  | vshrN32 (g : Grd) (src : Src)
  /-- VSHR_I32 (R219). -/
  | vshrI32 (g : Grd) (src : Src)
  /-- VCMPEQ (R219). -/
  | vcmpeq (g : Grd) (src : Src)
  /-- VCMPLT_I32 (R219). -/
  | vcmpltI32 (g : Grd) (src : Src)
  /-- VCMPLT_N32 (R219). -/
  | vcmpltN32 (g : Grd) (src : Src)
  /-- VSEL (R219). -/
  | vsel (g : Grd) (src : Src)
  /-- VCAS_F32 (R221). -/
  | vcasF32 (g : Grd) (src : Src)
  /-- VCAS_I32 (R221). -/
  | vcasI32 (g : Grd) (src : Src)
  /-- VCAS_N32 (R221). -/
  | vcasN32 (g : Grd) (src : Src)
  /-- VBPERM (R222). -/
  | vbperm (g : Grd) (src : Src)
  /-- VLPERM (R223). -/
  | vlperm (g : Grd) (src : Src)
  /-- VRED_F32 (R224). -/
  | vredF32 (g : Grd) (src : Src)
  /-- VRED_I32 (R224). -/
  | vredI32 (g : Grd) (src : Src)
  /-- VRED_N32 (R224). -/
  | vredN32 (g : Grd) (src : Src)
  /-- VSCAN_F32 (R225). -/
  | vscanF32 (g : Grd) (src : Src)
  /-- VSCAN_I32 (R225). -/
  | vscanI32 (g : Grd) (src : Src)
  /-- VCMPACT (R226). -/
  | vcmpact (g : Grd) (src : Src)
  /-- VCVTF_I32 (R227). -/
  | vcvtfI32 (g : Grd) (src : Src)
  /-- VCVTI_F32 (R227). -/
  | vcvtiF32 (g : Grd) (src : Src)
  /-- VCVT_BF16 (R227). -/
  | vcvtBf16 (g : Grd) (src : Src)
  /-- VCVT_F16 (R227). -/
  | vcvtF16 (g : Grd) (src : Src)
  /-- CMSET (R228). -/
  | cmset (g : Grd) (src : Src)
  /-- CMAFF (R228). -/
  | cmaff (g : Grd) (src : Src)
  /-- CMTRN (R228). -/
  | cmtrn (g : Grd) (src : Src)
  /-- CMST (R228). -/
  | cmst (g : Grd) (src : Src)
  /-- CMSLC (R228). -/
  | cmslc (g : Grd) (src : Src)
  /-- CMIDX (R228). -/
  | cmidx (g : Grd) (src : Src)
  /-- CMCLR (R228). -/
  | cmclr (g : Grd) (src : Src)
  /-- VKNF_N32 (R229). -/
  | vknfN32 (g : Grd) (src : Src)
  /-- VKNF_F32 (R229). -/
  | vknfF32 (g : Grd) (src : Src)
  /-- NRCINC (R230). -/
  | nrcinc (g : Grd) (src : Src)
  /-- QAND (R220). -/
  | qand (g : Grd) (src : Src)
  /-- QOR (R220). -/
  | qor (g : Grd) (src : Src)
  /-- QXOR (R220). -/
  | qxor (g : Grd) (src : Src)
  /-- QANDN (R220). -/
  | qandn (g : Grd) (src : Src)
  /-- QCNT (R220). -/
  | qcnt (g : Grd) (src : Src)
  /-- QFFS (R220). -/
  | qffs (g : Grd) (src : Src)
  /-- VBCAST (R220). -/
  | vbcast (g : Grd) (src : Src)
  /-- EXP (R231). -/
  | exp (g : Grd) (src : Src)
  /-- EXP2 (R231). -/
  | exp2 (g : Grd) (src : Src)
  /-- LOG (R231). -/
  | log (g : Grd) (src : Src)
  /-- RCP (R231). -/
  | rcp (g : Grd) (src : Src)
  /-- RSQRT (R231). -/
  | rsqrt (g : Grd) (src : Src)
  /-- TANH (R231). -/
  | tanh (g : Grd) (src : Src)
  /-- SIGM (R231). -/
  | sigm (g : Grd) (src : Src)
  /-- SIN (R231). -/
  | sin (g : Grd) (src : Src)
  /-- COS (R231). -/
  | cos (g : Grd) (src : Src)
  /-- ERF (R231). -/
  | erf (g : Grd) (src : Src)
  /-- VLD (R234). -/
  | vld (g : Grd) (src : Src)
  /-- VLDL (R237). -/
  | vldl (g : Grd) (src : Src)
  /-- VST (R234). -/
  | vst (g : Grd) (src : Src)
  /-- VLDF (R235). -/
  | vldf (g : Grd) (src : Src)
  /-- VLDFC (R235). -/
  | vldfc (g : Grd) (src : Src)
  /-- VSTF (R234). -/
  | vstf (g : Grd) (src : Src)
  /-- VFE (R234). -/
  | vfe (g : Grd) (src : Src)
  /-- VFECLR (R234). -/
  | vfeclr (g : Grd) (src : Src)
  /-- VLDQ (R236). -/
  | vldq (g : Grd) (src : Src)
  /-- VSTQ (R236). -/
  | vstq (g : Grd) (src : Src)
  /-- MLDT (R245). -/
  | mldt (g : Grd) (src : Src)
  /-- MSTT (R246). -/
  | mstt (g : Grd) (src : Src)
  /-- MMOV (R247). -/
  | mmov (g : Grd) (src : Src)
  /-- MZER (R248). -/
  | mzer (g : Grd) (src : Src)
  /-- MQS (R249). -/
  | mqs (g : Grd) (src : Src)
  /-- MQSS (R256). -/
  | mqss (g : Grd) (src : Src)
  /-- MQSR (R257). -/
  | mqsr (g : Grd) (src : Src)
  /-- MFOLD (R259). -/
  | mfold (g : Grd) (src : Src)
  /-- MDRN (R261). -/
  | mdrn (g : Grd) (src : Src)
  /-- MKAT (R263). -/
  | mkat (g : Grd) (src : Src)
  /-- MSTS (R262). -/
  | msts (g : Grd) (src : Src)
  /-- MCRR (R260). -/
  | mcrr (g : Grd) (src : Src)
  /-- XCVT_BF16 (R266). -/
  | xcvtBf16 (g : Grd) (src : Src)
  /-- XCVT_F16 (R266). -/
  | xcvtF16 (g : Grd) (src : Src)
  /-- XCVT_E4M3 (R266). -/
  | xcvtE4m3 (g : Grd) (src : Src)
  /-- XCVT_E5M2 (R266). -/
  | xcvtE5m2 (g : Grd) (src : Src)
  /-- XCVT_E2M3 (R266). -/
  | xcvtE2m3 (g : Grd) (src : Src)
  /-- XCVT_E3M2 (R266). -/
  | xcvtE3m2 (g : Grd) (src : Src)
  /-- XCVT_E2M1 (R266). -/
  | xcvtE2m1 (g : Grd) (src : Src)
  /-- XCVT_I8 (R266). -/
  | xcvtI8 (g : Grd) (src : Src)
  /-- XCVT_N8 (R266). -/
  | xcvtN8 (g : Grd) (src : Src)
  /-- XCVT_I4 (R266). -/
  | xcvtI4 (g : Grd) (src : Src)
  /-- XCVT_N4 (R266). -/
  | xcvtN4 (g : Grd) (src : Src)
  /-- XEXP_BF16 (R267). -/
  | xexpBf16 (g : Grd) (src : Src)
  /-- XEXP_F16 (R267). -/
  | xexpF16 (g : Grd) (src : Src)
  /-- XEXP_E4M3 (R267). -/
  | xexpE4m3 (g : Grd) (src : Src)
  /-- XEXP_E5M2 (R267). -/
  | xexpE5m2 (g : Grd) (src : Src)
  /-- XEXP_E2M3 (R267). -/
  | xexpE2m3 (g : Grd) (src : Src)
  /-- XEXP_E3M2 (R267). -/
  | xexpE3m2 (g : Grd) (src : Src)
  /-- XEXP_E2M1 (R267). -/
  | xexpE2m1 (g : Grd) (src : Src)
  /-- XEXP_I8 (R267). -/
  | xexpI8 (g : Grd) (src : Src)
  /-- XEXP_N8 (R267). -/
  | xexpN8 (g : Grd) (src : Src)
  /-- XEXP_I4 (R267). -/
  | xexpI4 (g : Grd) (src : Src)
  /-- XEXP_N4 (R267). -/
  | xexpN4 (g : Grd) (src : Src)
  /-- XEXP_Q4K (R267). -/
  | xexpQ4k (g : Grd) (src : Src)
  /-- XTRN_N8 (R269). -/
  | xtrnN8 (g : Grd) (src : Src)
  /-- XTRN_N16 (R269). -/
  | xtrnN16 (g : Grd) (src : Src)
  /-- XTRN_N32 (R269). -/
  | xtrnN32 (g : Grd) (src : Src)
  /-- XQNT_E4M3 (R268). -/
  | xqntE4m3 (g : Grd) (src : Src)
  /-- XQNT_E5M2 (R268). -/
  | xqntE5m2 (g : Grd) (src : Src)
  /-- XQNT_E2M3 (R268). -/
  | xqntE2m3 (g : Grd) (src : Src)
  /-- XQNT_E3M2 (R268). -/
  | xqntE3m2 (g : Grd) (src : Src)
  /-- XQNT_E2M1 (R268). -/
  | xqntE2m1 (g : Grd) (src : Src)
  /-- XQNT_I8 (R268). -/
  | xqntI8 (g : Grd) (src : Src)
  /-- XQNT_Q4K (R268). -/
  | xqntQ4k (g : Grd) (src : Src)
  /-- XZIP_N8 (R270). -/
  | xzipN8 (g : Grd) (src : Src)
  /-- XZIP_N16 (R270). -/
  | xzipN16 (g : Grd) (src : Src)
  /-- XUNZ_N8 (R270). -/
  | xunzN8 (g : Grd) (src : Src)
  /-- XUNZ_N16 (R270). -/
  | xunzN16 (g : Grd) (src : Src)
  /-- WIND (R274). -/
  | wind (g : Grd) (src : Src)
  /-- SPADV (R276). -/
  | spadv (g : Grd) (src : Src)
  /-- COPY (R278). -/
  | copy (g : Grd) (src : Src)
  /-- GATH (R281). -/
  | gath (g : Grd) (src : Src)
  /-- SCAT (R281). -/
  | scat (g : Grd) (src : Src)
  /-- KVG (R282). -/
  | kvg (g : Grd) (src : Src)
  /-- CMPX (R283). -/
  | cmpx (g : Grd) (src : Src)
  /-- XCHG (R284). -/
  | xchg (g : Grd) (src : Src)
  /-- COLL (R286). -/
  | coll (g : Grd) (src : Src)
  /-- DRAIN (R289). -/
  | drain (g : Grd) (src : Src)
  /-- FENCE (R289). -/
  | fence (g : Grd) (src : Src)
  /-- PREFH (R290). -/
  | prefh (g : Grd) (src : Src)
  /-- MIGR (R290). -/
  | migr (g : Grd) (src : Src)
  /-- ENQ (R291). -/
  | enq (g : Grd) (src : Src)
  /-- AADD_I32 (R293). -/
  | aaddI32 (g : Grd) (src : Src)
  /-- AADD_I64 (R293). -/
  | aaddI64 (g : Grd) (src : Src)
  /-- AADD_F32 (R293). -/
  | aaddF32 (g : Grd) (src : Src)
  /-- AADD_BF16 (R293). -/
  | aaddBf16 (g : Grd) (src : Src)
  /-- AMIN_I32 (R293). -/
  | aminI32 (g : Grd) (src : Src)
  /-- AMIN_I64 (R293). -/
  | aminI64 (g : Grd) (src : Src)
  /-- AMIN_N32 (R293). -/
  | aminN32 (g : Grd) (src : Src)
  /-- AMIN_N64 (R293). -/
  | aminN64 (g : Grd) (src : Src)
  /-- AMAX_I32 (R293). -/
  | amaxI32 (g : Grd) (src : Src)
  /-- AMAX_I64 (R293). -/
  | amaxI64 (g : Grd) (src : Src)
  /-- AMAX_N32 (R293). -/
  | amaxN32 (g : Grd) (src : Src)
  /-- AMAX_N64 (R293). -/
  | amaxN64 (g : Grd) (src : Src)
  /-- AAND_N32 (R293). -/
  | aandN32 (g : Grd) (src : Src)
  /-- AAND_N64 (R293). -/
  | aandN64 (g : Grd) (src : Src)
  /-- AOR_N32 (R293). -/
  | aorN32 (g : Grd) (src : Src)
  /-- AOR_N64 (R293). -/
  | aorN64 (g : Grd) (src : Src)
  /-- AXOR_N32 (R293). -/
  | axorN32 (g : Grd) (src : Src)
  /-- AXOR_N64 (R293). -/
  | axorN64 (g : Grd) (src : Src)
  /-- ASWP_N32 (R293). -/
  | aswpN32 (g : Grd) (src : Src)
  /-- ASWP_N64 (R293). -/
  | aswpN64 (g : Grd) (src : Src)
  /-- ACAS_N32 (R293). -/
  | acasN32 (g : Grd) (src : Src)
  /-- ACAS_N64 (R293). -/
  | acasN64 (g : Grd) (src : Src)
  /-- HINIT (R296). -/
  | hinit (g : Grd) (src : Src)
  /-- HOFFER (R297). -/
  | hoffer (g : Grd) (src : Src)
  /-- HTAKE (R298). -/
  | htake (g : Grd) (src : Src)
  /-- BALLOC (R300). -/
  | balloc (g : Grd) (src : Src)
  /-- BFREE (R301). -/
  | bfree (g : Grd) (src : Src)
  /-- MSARM (R303). -/
  | msarm (g : Grd) (src : Src)
  /-- MSARV (R304). -/
  | msarv (g : Grd) (src : Src)
  /-- MSBIND (R306). -/
  | msbind (g : Grd) (src : Src)
  /-- UNWIND_SPOOL (R277). -/
  | unwindSpool (g : Grd) (src : Src)
  deriving DecidableEq, Repr

end Sys2Proof
end

