-- ==== Sys2Proof/Decode.lean ====
section
/-! DEFINITION. The encodings of chapter 04: ids of sources, destinations and triggers, the connectivity of Table 4-2, the
decoder of slots and bundles (total, rejecting by cause), and after it the encoder. -/

namespace Sys2Proof

/-! ### Helpers on numbers and bits -/

/-- Bits `[hi:lo]` of a natural number, as a number. -/
def bitsOf (n hi lo : Nat) : Nat := (n >>> lo) % 2 ^ (hi + 1 - lo)

/-- The bytes of `n`, least significant first (R5). -/
def leBytes : Nat → Nat → List Byte
  | 0, _ => []
  | k + 1, n => BitVec.ofNat 8 n :: leBytes k (n / 256)

/-- The number a little-endian byte list holds (R5). -/
def leNat : List Byte → Nat
  | [] => 0
  | b :: bs => b.toNat + 256 * leNat bs

/-! ### Unit numbers and classes -/

/-- The units in the order of Table 4-3. -/
def fuList : List FU :=
  [.seq, .sys, .en, .am, .sa0, .sa1, .ls, .fa0, .fa1, .sfa, .vma, .fb0, .fb1, .sfb, .vmb, .mx, .xf]

/-- The number `u` of a unit in its operand port ids (Table 4-3). -/
def FU.num : FU → Nat
  | .seq => 0 | .sys => 1 | .en => 2 | .am => 3 | .sa0 => 4 | .sa1 => 5 | .ls => 6 | .fa0 => 7 | .fa1 => 8
  | .sfa => 9 | .vma => 10 | .fb0 => 11 | .fb1 => 12 | .sfb => 13 | .vmb => 14 | .mx => 15 | .xf => 16

/-- The unit whose latches are scalar: `seq`, `sys`, `en`, `am`, `sa0`, `sa1`, `ls`. -/
def FU.scalar (u : FU) : Bool := u.num < 7

/-- The vector result ports in source-id order. -/
def vportList : List VPort :=
  [.fa0r, .fa0rx, .fa1r, .fa1rx, .sfar, .vmar, .fb0r, .fb0rx, .fb1r, .fb1rx, .sfbr, .vmbr, .mxr, .mxrx, .xfr, .xfrx]

/-- The position of a vector port in source-id order. -/
def VPort.num : VPort → Nat
  | .fa0r => 0 | .fa0rx => 1 | .fa1r => 2 | .fa1rx => 3 | .sfar => 4 | .vmar => 5 | .fb0r => 6 | .fb0rx => 7
  | .fb1r => 8 | .fb1rx => 9 | .sfbr => 10 | .vmbr => 11 | .mxr => 12 | .mxrx => 13 | .xfr => 14 | .xfrx => 15

/-- The position of a scalar port. -/
def SPort.num : SPort → Nat
  | .sa0r => 0 | .sa1r => 1 | .lsr => 2 | .sysr => 3

/-- The source id of a vector port (Table 4-7). -/
def VPort.id (r : VPort) : Nat :=
  if r.num < 6 then 0x0C8 + r.num else if r.num < 12 then 0x0D0 + (r.num - 6) else 0x0D8 + (r.num - 12)

/-! ### Source ids (Table 4-7) -/

/-- The 16 ids of a coordinate port group. -/
def CPort.num : CPort → Nat
  | .cd d => d.val | .cdl => 14 | .cdm => 15

/-- The coordinate port of number `k`. -/
def cportOf (k : Nat) : CPort :=
  if h : k < 14 then .cd ⟨k, h⟩ else if k = 14 then .cdl else .cdm

/-- The source an id names, `none` where Table 4-7 leaves the id unassigned. `lit` is the slot above. -/
def srcOfId (id : Nat) (lit : BitVec 24) : Option Src :=
  if id < 0x40 then some (.s (Fin.ofNat 64 id))
  else if id < 0x60 then some (.va (Fin.ofNat 32 (id - 0x40)))
  else if id < 0x80 then some (.vb (Fin.ofNat 32 (id - 0x60)))
  else if id < 0x90 then some (.p (Fin.ofNat 16 (id - 0x80)))
  else if id < 0xA0 then some (.qa (Fin.ofNat 16 (id - 0x90)))
  else if id < 0xB0 then some (.qb (Fin.ofNat 16 (id - 0xA0)))
  else if id < 0xC0 then some (.spool (Fin.ofNat 16 (id - 0xB0)))
  else if id = 0xC0 then some (.sport .sa0r)
  else if id = 0xC1 then some (.sport .sa1r)
  else if id = 0xC2 then some (.sport .lsr)
  else if id = 0xC3 then some (.sport .sysr)
  else if id = 0xC4 then some .xab
  else if id = 0xC5 then some .xba
  else if id < 0xC8 then none
  else if id < 0xCE then (vportList[id - 0xC8]?).map .vport
  else if id < 0xD0 then none
  else if id < 0xD6 then (vportList[id - 0xD0 + 6]?).map .vport
  else if id < 0xD8 then none
  else if id < 0xDC then (vportList[id - 0xD8 + 12]?).map .vport
  else if id < 0xE0 then none
  else if id < 0xF0 then some (.coord .a (cportOf (id - 0xE0)))
  else if id < 0x100 then some (.coord .b (cportOf (id - 0xF0)))
  else if id < 0x1E0 then some (.imm (Fin.ofNat 224 (id - 0x100)))
  else if id < 0x1F0 then some (.fconst (Fin.ofNat 16 (id - 0x1E0)))
  else if id = 0x1F0 then some (.limm lit)
  else if id = 0x1F1 then some (.limmz lit)
  else if id = 0x1F2 then some .mplo
  else if id = 0x1F3 then some .mphi
  else if id = 0x1F4 then some .tid
  else if id = 0x1F5 then some .skid
  else if id < 0x1FC then some (.lx (Fin.ofNat 6 (id - 0x1F6)))
  else some (.w (Fin.ofNat 4 (id - 0x1FC)))

/-- The id of a source (Table 4-7). -/
def Src.id : Src → Nat
  | .s n => n.val
  | .va n => 0x40 + n.val
  | .vb n => 0x60 + n.val
  | .p n => 0x80 + n.val
  | .qa n => 0x90 + n.val
  | .qb n => 0xA0 + n.val
  | .spool n => 0xB0 + n.val
  | .sport r => 0xC0 + r.num
  | .xab => 0xC4
  | .xba => 0xC5
  | .vport r => r.id
  | .coord .a k => 0xE0 + k.num
  | .coord .b k => 0xF0 + k.num
  | .imm n => 0x100 + n.val
  | .fconst n => 0x1E0 + n.val
  | .limm _ => 0x1F0
  | .limmz _ => 0x1F1
  | .mplo => 0x1F2
  | .mphi => 0x1F3
  | .tid => 0x1F4
  | .skid => 0x1F5
  | .lx n => 0x1F6 + n.val
  | .w n => 0x1FC + n.val

/-- The literal a source takes from the slot above it (R71). -/
def Src.lit? : Src → Option (BitVec 24)
  | .limm l | .limmz l => some l
  | _ => none

/-- The slots whose bus reaches a source (Table 4-2, S columns). -/
def Src.reach (s : Src) (slot : Nat) : Bool :=
  match s with
  | .s _ => true
  | .p _ => slot < 3 || slot = 7
  | .va _ | .qa _ => slot = 3 || slot = 4 || slot = 7
  | .vb _ | .qb _ => slot = 5 || slot = 6 || slot = 7
  | .spool _ => 3 ≤ slot
  | .sport _ => slot < 3 || slot = 7
  | .xab => 5 ≤ slot
  | .xba => slot = 3 || slot = 4 || slot = 7
  | .vport r =>
    if r.num < 6 then slot = 3 || slot = 4 || slot = 7
    else if r.num < 12 then 5 ≤ slot
    else 3 ≤ slot
  | .coord .a _ => slot = 3 || slot = 4 || slot = 7
  | .coord .b _ => 5 ≤ slot
  | .limm _ | .limmz _ => slot < 7
  | .imm _ | .fconst _ | .mplo | .mphi | .tid | .skid | .lx _ | .w _ => true

/-! ### Destination ids (Table 4-3) -/

/-- The destination of a plain move an id names; `none` where the id is unassigned or is a row of its own. -/
def dstOfId (id : Nat) : Option Dst :=
  if id < 0x40 then some (.s (Fin.ofNat 64 id))
  else if id < 0x60 then some (.va (Fin.ofNat 32 (id - 0x40)))
  else if id < 0x80 then some (.vb (Fin.ofNat 32 (id - 0x60)))
  else if id < 0x90 then some (.p (Fin.ofNat 16 (id - 0x80)))
  else if id < 0xA0 then some (.qa (Fin.ofNat 16 (id - 0x90)))
  else if id < 0xB0 then some (.qb (Fin.ofNat 16 (id - 0xA0)))
  else if id < 0xC0 then none
  else if id = 0xC0 then some (.ro .fmt)
  else if id = 0xC2 then some (.ro .seed)
  else if id = 0xC3 then some (.ro .nrc)
  else if id = 0xC5 then some (.ro .flags)
  else if id = 0xC7 then some (.ro .poolb0)
  else if id = 0xC8 then some (.ro .poolb1)
  else if id = 0xC9 then some (.ro .poolb2)
  else if id = 0xCA then some .errinjAddr
  else if id = 0xCC then some .xab
  else if id = 0xCD then some .xba
  else if id < 0x100 then none
  else if id < 0x144 then
    if h : (id - 0x100) % 4 < 3 then (fuList[(id - 0x100) / 4]?).map fun u => .opnd u ⟨(id - 0x100) % 4, h⟩ else none
  else none

/-- The id of a read-only special register. -/
def ROReg.id : ROReg → Nat
  | .fmt => 0xC0 | .seed => 0xC2 | .nrc => 0xC3 | .flags => 0xC5 | .poolb0 => 0xC7 | .poolb1 => 0xC8 | .poolb2 => 0xC9

/-- The id of a plain destination (Table 4-3). -/
def Dst.id : Dst → Nat
  | .s n => n.val
  | .va n => 0x40 + n.val
  | .vb n => 0x60 + n.val
  | .p n => 0x80 + n.val
  | .qa n => 0x90 + n.val
  | .qb n => 0xA0 + n.val
  | .ro r => r.id
  | .errinjAddr => 0xCA
  | .xab => 0xCC
  | .xba => 0xCD
  | .opnd u j => 0x100 + 4 * u.num + j.val

/-- The slots whose bus reaches the operand ports of a unit (Table 4-2). -/
def FU.reach (u : FU) (slot : Nat) : Bool :=
  if u.num < 7 then slot < 3 || slot = 7
  else if u.num < 11 then slot = 3 || slot = 4 || slot = 7
  else if u.num < 15 then 5 ≤ slot
  else true

/-- The slots whose bus reaches a destination (Table 4-2, D columns). -/
def Dst.reach (d : Dst) (slot : Nat) : Bool :=
  match d with
  | .s _ | .p _ => slot < 3 || slot = 7
  | .va _ | .qa _ => slot = 3 || slot = 4 || slot = 7
  | .vb _ | .qb _ => 5 ≤ slot
  | .ro _ | .errinjAddr => slot = 0
  | .xab => slot = 3 || slot = 4
  | .xba => slot = 5 || slot = 6
  | .opnd u _ => u.reach slot

/-! ### Trigger ids (Table 4-5) -/

/-- Triggers of seq in id order from 0x200 (Table 4-5). -/
noncomputable def seqOps : List (Grd → Src → Instr) :=
  [Instr.br, Instr.brc, Instr.brx, Instr.call, Instr.callx, Instr.ret, Instr.loop, Instr.lend] ++
  [Instr.lbrk, Instr.wait, Instr.waita, Instr.yield, Instr.halt, Instr.trap, Instr.dual, Instr.fmtw] ++
  [Instr.ntreq, Instr.launch, Instr.launchw, Instr.secgo, Instr.secstop, Instr.fset, Instr.fclr, Instr.skjoin] ++
  [Instr.skleave, Instr.cropen, Instr.crclose, Instr.crabort]

/-- Triggers of sys in id order from 0x220 (Table 4-5). -/
noncomputable def sysOps : List (Grd → Src → Instr) :=
  [Instr.rdsr, Instr.pcrd, Instr.brkp, Instr.ivqw, Instr.errrd, Instr.ctxsv, Instr.ctxld, Instr.qsce]

/-- Triggers of sa0, sa1 in id order from 0x240 (Table 4-5). -/
noncomputable def saOps : List (Grd → Src → Instr) :=
  [Instr.add, Instr.sub, Instr.mul, Instr.mulhI64, Instr.mulhN64, Instr.and, Instr.or, Instr.xor] ++
  [Instr.andn, Instr.shl, Instr.shrN64, Instr.shrI64, Instr.rotl, Instr.minI64, Instr.minN64, Instr.maxI64] ++
  [Instr.maxN64, Instr.cmpeq, Instr.cmpltI64, Instr.cmpltN64, Instr.cmpleI64, Instr.cmpleN64, Instr.sel, Instr.clz] ++
  [Instr.ctz, Instr.popc, Instr.sextI8, Instr.sextI16, Instr.sextI32, Instr.zextN8, Instr.zextN16, Instr.zextN32] ++
  [Instr.bfx, Instr.bfi]

/-- Triggers of ls in id order from 0x280 (Table 4-5). -/
noncomputable def lsOps : List (Grd → Src → Instr) :=
  [Instr.ldI8, Instr.ldN8, Instr.ldI16, Instr.ldN16, Instr.ldI32, Instr.ldN32, Instr.ldI64, Instr.stN8] ++
  [Instr.stN16, Instr.stN32, Instr.stN64, Instr.invr, Instr.wbr, Instr.prefl, Instr.ldl]

/-- Triggers of fa0, fa1, fb0, fb1 in id order from 0x290 (Table 4-5). -/
noncomputable def faOps : List (Grd → Src → Instr) :=
  [Instr.faddF32, Instr.faddBf16, Instr.faddF16, Instr.fsubF32, Instr.fsubBf16, Instr.fsubF16, Instr.fmulF32, Instr.fmulBf16] ++
  [Instr.fmulF16, Instr.fmaF32, Instr.fmaBf16, Instr.fmaF16, Instr.fminF32, Instr.fminBf16, Instr.fminF16, Instr.fmaxF32] ++
  [Instr.fmaxBf16, Instr.fmaxF16, Instr.fabsF32, Instr.fnegF32, Instr.frndF32, Instr.fcmpeqF32, Instr.fcmpltF32, Instr.fcmpleF32] ++
  [Instr.fcmpunF32, Instr.vadd, Instr.vsub, Instr.vmul, Instr.vminI32, Instr.vminN32, Instr.vmaxI32, Instr.vmaxN32] ++
  [Instr.vand, Instr.vor, Instr.vxor, Instr.vshl, Instr.vshrN32, Instr.vshrI32, Instr.vcmpeq, Instr.vcmpltI32] ++
  [Instr.vcmpltN32, Instr.vsel, Instr.vcasF32, Instr.vcasI32, Instr.vcasN32, Instr.vbperm, Instr.vlperm, Instr.vredF32] ++
  [Instr.vredI32, Instr.vredN32, Instr.vscanF32, Instr.vscanI32, Instr.vcmpact, Instr.vcvtfI32, Instr.vcvtiF32, Instr.vcvtBf16] ++
  [Instr.vcvtF16, Instr.cmset, Instr.cmaff, Instr.cmtrn, Instr.cmst, Instr.cmslc, Instr.cmidx, Instr.cmclr] ++
  [Instr.vknfN32, Instr.vknfF32, Instr.nrcinc, Instr.qand, Instr.qor, Instr.qxor, Instr.qandn, Instr.qcnt] ++
  [Instr.qffs, Instr.vbcast]

/-- Triggers of sfa, sfb in id order from 0x310 (Table 4-5). -/
noncomputable def sfOps : List (Grd → Src → Instr) :=
  [Instr.exp, Instr.exp2, Instr.log, Instr.rcp, Instr.rsqrt, Instr.tanh, Instr.sigm, Instr.sin] ++
  [Instr.cos, Instr.erf]

/-- Triggers of vma, vmb in id order from 0x330 (Table 4-5). -/
noncomputable def vmOps : List (Grd → Src → Instr) :=
  [Instr.vld, Instr.vldl, Instr.vst, Instr.vldf, Instr.vldfc, Instr.vstf, Instr.vfe, Instr.vfeclr] ++
  [Instr.vldq, Instr.vstq]

/-- Triggers of mx in id order from 0x350 (Table 4-5). -/
noncomputable def mxOps : List (Grd → Src → Instr) :=
  [Instr.mldt, Instr.mstt, Instr.mmov, Instr.mzer, Instr.mqs, Instr.mqss, Instr.mqsr, Instr.mfold] ++
  [Instr.mdrn, Instr.mkat, Instr.msts, Instr.mcrr]

/-- Triggers of xf in id order from 0x380 (Table 4-5). -/
noncomputable def xfOps : List (Grd → Src → Instr) :=
  [Instr.xcvtBf16, Instr.xcvtF16, Instr.xcvtE4m3, Instr.xcvtE5m2, Instr.xcvtE2m3, Instr.xcvtE3m2, Instr.xcvtE2m1, Instr.xcvtI8] ++
  [Instr.xcvtN8, Instr.xcvtI4, Instr.xcvtN4, Instr.xexpBf16, Instr.xexpF16, Instr.xexpE4m3, Instr.xexpE5m2, Instr.xexpE2m3] ++
  [Instr.xexpE3m2, Instr.xexpE2m1, Instr.xexpI8, Instr.xexpN8, Instr.xexpI4, Instr.xexpN4, Instr.xexpQ4k, Instr.xtrnN8] ++
  [Instr.xtrnN16, Instr.xtrnN32, Instr.xqntE4m3, Instr.xqntE5m2, Instr.xqntE2m3, Instr.xqntE3m2, Instr.xqntE2m1, Instr.xqntI8] ++
  [Instr.xqntQ4k, Instr.xzipN8, Instr.xzipN16, Instr.xunzN8, Instr.xunzN16]

/-- Triggers of en in id order from 0x3b0 (Table 4-5). -/
noncomputable def enOps : List (Grd → Src → Instr) :=
  [Instr.wind, Instr.unwindSpool, Instr.spadv, Instr.copy, Instr.gath, Instr.scat, Instr.kvg, Instr.cmpx] ++
  [Instr.xchg, Instr.coll, Instr.drain, Instr.fence, Instr.prefh, Instr.migr, Instr.enq]

/-- Triggers of am in id order from 0x3e0 (Table 4-5). -/
noncomputable def amOps : List (Grd → Src → Instr) :=
  [Instr.aaddI32, Instr.aaddI64, Instr.aaddF32, Instr.aaddBf16, Instr.aminI32, Instr.aminI64, Instr.aminN32, Instr.aminN64] ++
  [Instr.amaxI32, Instr.amaxI64, Instr.amaxN32, Instr.amaxN64, Instr.aandN32, Instr.aandN64, Instr.aorN32, Instr.aorN64] ++
  [Instr.axorN32, Instr.axorN64, Instr.aswpN32, Instr.aswpN64, Instr.acasN32, Instr.acasN64, Instr.hinit, Instr.hoffer] ++
  [Instr.htake, Instr.balloc, Instr.bfree, Instr.msarm, Instr.msarv, Instr.msbind]

/-- The slots of a trigger id's class (Table 4-5); none for the unassigned ids of R83. -/
def trigSlot (id slot : Nat) : Bool :=
  if id < 0x21C then slot = 0
  else if id < 0x220 then false
  else if id < 0x228 then slot = 0
  else if id < 0x240 then false
  else if id < 0x262 then slot = 1 || slot = 2
  else if id < 0x280 then false
  else if id < 0x28F then slot = 1
  else if id < 0x290 then false
  else if id < 0x2DA then 3 ≤ slot && slot ≤ 6
  else if id < 0x310 then false
  else if id < 0x31A then slot = 3 || slot = 5
  else if id < 0x330 then false
  else if id < 0x33A then slot = 3 || slot = 5
  else if id < 0x350 then false
  else if id < 0x35C then slot = 7
  else if id < 0x380 then false
  else if id < 0x3A5 then slot = 7
  else if id < 0x3B0 then false
  else if id < 0x3BF then slot = 0
  else if id < 0x3E0 then false
  else if id < 0x3FE then slot = 0
  else false

/-- The trigger row of an id, `none` for the unassigned ids of R83. -/
noncomputable def trigOfId (id : Nat) : Option (Grd → Src → Instr) :=
  if id < 0x220 then seqOps[id - 0x200]?
  else if id < 0x240 then sysOps[id - 0x220]?
  else if id < 0x280 then saOps[id - 0x240]?
  else if id < 0x290 then lsOps[id - 0x280]?
  else if id < 0x310 then faOps[id - 0x290]?
  else if id < 0x330 then sfOps[id - 0x310]?
  else if id < 0x350 then vmOps[id - 0x330]?
  else if id < 0x380 then mxOps[id - 0x350]?
  else if id < 0x3B0 then xfOps[id - 0x380]?
  else if id < 0x3E0 then enOps[id - 0x3B0]?
  else amOps[id - 0x3E0]?

/-! ### Slots -/

/-- Why a slot value is not an instruction (R84, Table 19-3). -/
inductive SlotErr where
  | unassigned (fromField : Bool) (id : Nat)
  | guard (g : Nat) (inv : Bool)
  deriving DecidableEq, Repr

/-- A slot's fields once its checks have passed: the empty slot, or a move from a source to a `to` id under a guard. -/
inductive Raw where
  | empty (slot : Fin 8)
  | move (dest : Nat) (g : Grd) (src : Src)
  deriving DecidableEq, Repr

/-- The `to` id names a destination or trigger that the slot reaches (Tables 4-2, 4-3, 4-5). -/
def toOk (slot : Fin 8) (dest : Nat) : Bool :=
  if 0x200 ≤ dest then trigSlot dest slot.val
  else if 0xB0 ≤ dest && dest < 0xC0 then 3 ≤ slot.val
  else if dest = 0xC1 || dest = 0xC4 || dest = 0xC6 || dest = 0xCB then slot.val = 0
  else match dstOfId dest with
    | some d => d.reach slot.val
    | none => false

/-- The checks of one slot (R68, R76, R84, Table 19-3). Within a slot the `to` field is checked before `from`, and `from`
before the guard (R338). `lit` is the slot above, read only by LIMM and LIMMZ. The all-zero slot is the empty slot. -/
def slotRaw (slot : Fin 8) (w : BitVec 24) (lit : BitVec 24) : Except SlotErr Raw :=
  if w = 0 then .ok (.empty slot)
  else
    let n := w.toNat
    let dest := bitsOf n 18 9
    let frm := bitsOf n 8 0
    let g : Grd := ⟨slot, Fin.ofNat 16 (bitsOf n 23 20), bitsOf n 19 19 = 1⟩
    if toOk slot dest = false then .error (.unassigned false dest)
    else match srcOfId frm lit with
      | none => .error (.unassigned true frm)
      | some src =>
        if src.reach slot.val = false then .error (.unassigned true frm)
        else if (g.g.val = 0 && g.inv) || (dest = 0x209 && g.g.val ≠ 0) then .error (.guard g.g.val g.inv)
        else .ok (.move dest g src)

/-- The opcode-table row of a checked slot; `none` for a `to` id that is unassigned. -/
noncomputable def Raw.instr : Raw → Option Instr
  | .empty slot => some (.nop slot)
  | .move dest g src =>
    if 0x200 ≤ dest then (trigOfId dest).map fun f => f g src
    else if 0xB0 ≤ dest && dest < 0xC0 then some (.spoolWrite g src (Fin.ofNat 16 (dest - 0xB0)))
    else if dest = 0xC1 then some (.writeTscale g src)
    else if dest = 0xC4 then some (.writeMpc g src)
    else if dest = 0xC6 then some (.writeStat g src)
    else if dest = 0xCB then some (.writeErrinjCtl g src)
    else match dstOfId dest with
      | some d =>
        match src with
        | .spool sp => some (.spoolRead g sp d)
        | _ => some (.move g src d)
      | none => none

/-- Decoding one slot: its checks, then its row. -/
noncomputable def decodeSlot (slot : Fin 8) (w : BitVec 24) (lit : BitVec 24) : Except SlotErr Instr :=
  match slotRaw slot w lit with
  | .error e => .error e
  | .ok r => match r.instr with
    | some i => .ok i
    | none => .error (.unassigned false (bitsOf w.toNat 18 9))

/-! ### Bundles -/

/-- Slot `n` of a bundle (R66). -/
def slotBits (b : BitVec 192) (n : Nat) : BitVec 24 := BitVec.ofNat 24 (b.toNat >>> (24 * n))

/-- The source id field of a slot is LIMM or LIMMZ: the slot above is its literal (R71, R72). -/
def takesLit (w : BitVec 24) : Bool := w.toNat % 512 = 0x1F0 || w.toNat % 512 = 0x1F1

/-- The checked slots `n ..` of a bundle in ascending order, the literal slots skipped; the first slot that is no instruction
stops it (R338: decode causes by ascending slot). -/
def rawFrom (b : BitVec 192) : List (Fin 8) → Bool → Except (Fin 8 × SlotErr) (List Raw)
  | [], _ => .ok []
  | n :: ns, skip =>
    if skip then rawFrom b ns false
    else match slotRaw n (slotBits b n.val) (slotBits b (n.val + 1)) with
      | .error e => .error (n, e)
      | .ok r => match rawFrom b ns (takesLit (slotBits b n.val)) with
        | .error e => .error e
        | .ok rs => .ok (r :: rs)

/-- The eight slots in ascending order. -/
def allSlots : List (Fin 8) := [0, 1, 2, 3, 4, 5, 6, 7]

/-- The checked moves of a bundle in ascending slot order, or the first slot that is not an instruction. -/
def bundleRaw (b : BitVec 192) : Except (Fin 8 × SlotErr) (List Raw) := rawFrom b allSlots false

/-- The instructions of a bundle in ascending slot order, or the first slot that is not one. -/
noncomputable def decodeBundle (b : BitVec 192) : Except (Fin 8 × SlotErr) (List Instr) :=
  match bundleRaw b with
  | .error e => .error e
  | .ok rs => .ok (rs.filterMap Raw.instr)

/-- A bundle from its bytes, slot 0 in bytes 0 to 2 (R66); bytes beyond the 24th are not looked at and missing ones are 0. -/
def bundleOfBytes (bs : List Byte) : BitVec 192 := BitVec.ofNat 192 (leNat (bs.take 24))

/-- The decoder on bytes, total. -/
noncomputable def decode (bs : List Byte) : Except (Fin 8 × SlotErr) (List Instr) := decodeBundle (bundleOfBytes bs)

/-- A bundle occupies every slot whose 24 bits are not all zero, literal slots included (R31, R72). -/
def slotsOf (b : BitVec 192) : List (Fin 8) := allSlots.filter fun n => slotBits b n.val ≠ 0

/-! ### Encoder -/

/-- The trigger id, guard and source of a trigger row (Table 4-5); `none` for every other row. -/
def Instr.trig : Instr → Option (Nat × Grd × Src)
  | .packageReset => none
  | .supplyLoss => none
  | .powerCapThrottle _ => none
  | .currentLimit _ => none
  | .thermalTrip _ => none
  | .thermalRelease _ => none
  | .thermalShutdown _ => none
  | .timeServiceAdjust _ => none
  | .widxWrite _ _ => none
  | .laneReset _ => none
  | .laneEntryRead _ => none
  | .laneEntryStart _ => none
  | .dependencePoll _ => none
  | .launchQueueAdmit _ => none
  | .threadPlacement => none
  | .poolReconfigureDone => none
  | .quantumBoundary => none
  | .ageingPromotion _ => none
  | .contextSave _ => none
  | .savefail _ => none
  | .contextRestore _ => none
  | .nowaypoint _ => none
  | .threadEnd _ => none
  | .launchCompletion _ => none
  | .resultDelivery _ => none
  | .tileOperationComplete _ => none
  | .stalledBundleIssue _ => none
  | .waitRelease _ => none
  | .landingDataArrival _ _ => none
  | .landingDue _ => none
  | .monitorFire _ => none
  | .monitorPoll _ => none
  | .homeOperationPerform _ => none
  | .replicaInvalidate _ => none
  | .engineCommandStart _ => none
  | .engineSegmentComplete _ _ _ => none
  | .bindPoll _ => none
  | .engineRetry _ _ => none
  | .segmentResend _ _ _ => none
  | .winderFill _ _ => none
  | .winderDrain _ _ => none
  | .xchgRowArrival _ _ _ => none
  | .xchgLaybyReplay => none
  | .collInstanceArm _ => none
  | .collComplete _ => none
  | .pageResident _ _ _ => none
  | .pageDecline _ _ => none
  | .pageWaitTimeout _ _ => none
  | .pageMigration _ _ _ => none
  | .ivqCommandExecute _ => none
  | .xlatec _ => none
  | .unwind _ => none
  | .correctedError _ _ => none
  | .errorRetry _ _ _ _ => none
  | .partRetirement _ _ _ => none
  | .coreRetirement => none
  | .flitReceive _ _ _ _ => none
  | .requestTimeout _ => none
  | .dieDrop _ => none
  | .checkpoint _ => none
  | .firmwareUpdate _ => none
  | .attestationRequest _ _ => none
  | .attestationReport => none
  | .counterClear _ _ => none
  | .pcapWrite _ _ => none
  | .mgmtRegisterWrite _ _ _ _ => none
  | .breakpointHalt _ => none
  | .debugResume => none
  | .debugStep _ _ => none
  | .debuggerRegisterWrite _ _ _ _ => none
  | .latchWrite _ _ _ _ _ => none
  | .latchFlush _ => none
  | .nop _ => none
  | .move _ _ _ => none
  | .spoolRead _ _ _ => none
  | .spoolWrite _ _ _ => none
  | .writeTscale _ _ => none
  | .writeMpc _ _ => none
  | .writeStat _ _ => none
  | .writeErrinjCtl _ _ => none
  | .br g s => some (0x200, g, s)
  | .brc g s => some (0x201, g, s)
  | .brx g s => some (0x202, g, s)
  | .call g s => some (0x203, g, s)
  | .callx g s => some (0x204, g, s)
  | .ret g s => some (0x205, g, s)
  | .loop g s => some (0x206, g, s)
  | .lend g s => some (0x207, g, s)
  | .lbrk g s => some (0x208, g, s)
  | .wait g s => some (0x209, g, s)
  | .waita g s => some (0x20a, g, s)
  | .yield g s => some (0x20b, g, s)
  | .halt g s => some (0x20c, g, s)
  | .trap g s => some (0x20d, g, s)
  | .dual g s => some (0x20e, g, s)
  | .fmtw g s => some (0x20f, g, s)
  | .ntreq g s => some (0x210, g, s)
  | .launch g s => some (0x211, g, s)
  | .launchw g s => some (0x212, g, s)
  | .secgo g s => some (0x213, g, s)
  | .secstop g s => some (0x214, g, s)
  | .fset g s => some (0x215, g, s)
  | .fclr g s => some (0x216, g, s)
  | .skjoin g s => some (0x217, g, s)
  | .skleave g s => some (0x218, g, s)
  | .cropen g s => some (0x219, g, s)
  | .crclose g s => some (0x21a, g, s)
  | .crabort g s => some (0x21b, g, s)
  | .rdsr g s => some (0x220, g, s)
  | .pcrd g s => some (0x221, g, s)
  | .brkp g s => some (0x222, g, s)
  | .ivqw g s => some (0x223, g, s)
  | .errrd g s => some (0x224, g, s)
  | .ctxsv g s => some (0x225, g, s)
  | .ctxld g s => some (0x226, g, s)
  | .qsce g s => some (0x227, g, s)
  | .add g s => some (0x240, g, s)
  | .sub g s => some (0x241, g, s)
  | .mul g s => some (0x242, g, s)
  | .mulhI64 g s => some (0x243, g, s)
  | .mulhN64 g s => some (0x244, g, s)
  | .and g s => some (0x245, g, s)
  | .or g s => some (0x246, g, s)
  | .xor g s => some (0x247, g, s)
  | .andn g s => some (0x248, g, s)
  | .shl g s => some (0x249, g, s)
  | .shrN64 g s => some (0x24a, g, s)
  | .shrI64 g s => some (0x24b, g, s)
  | .rotl g s => some (0x24c, g, s)
  | .minI64 g s => some (0x24d, g, s)
  | .minN64 g s => some (0x24e, g, s)
  | .maxI64 g s => some (0x24f, g, s)
  | .maxN64 g s => some (0x250, g, s)
  | .cmpeq g s => some (0x251, g, s)
  | .cmpltI64 g s => some (0x252, g, s)
  | .cmpltN64 g s => some (0x253, g, s)
  | .cmpleI64 g s => some (0x254, g, s)
  | .cmpleN64 g s => some (0x255, g, s)
  | .sel g s => some (0x256, g, s)
  | .clz g s => some (0x257, g, s)
  | .ctz g s => some (0x258, g, s)
  | .popc g s => some (0x259, g, s)
  | .sextI8 g s => some (0x25a, g, s)
  | .sextI16 g s => some (0x25b, g, s)
  | .sextI32 g s => some (0x25c, g, s)
  | .zextN8 g s => some (0x25d, g, s)
  | .zextN16 g s => some (0x25e, g, s)
  | .zextN32 g s => some (0x25f, g, s)
  | .bfx g s => some (0x260, g, s)
  | .bfi g s => some (0x261, g, s)
  | .ldI8 g s => some (0x280, g, s)
  | .ldN8 g s => some (0x281, g, s)
  | .ldI16 g s => some (0x282, g, s)
  | .ldN16 g s => some (0x283, g, s)
  | .ldI32 g s => some (0x284, g, s)
  | .ldN32 g s => some (0x285, g, s)
  | .ldI64 g s => some (0x286, g, s)
  | .stN8 g s => some (0x287, g, s)
  | .stN16 g s => some (0x288, g, s)
  | .stN32 g s => some (0x289, g, s)
  | .stN64 g s => some (0x28a, g, s)
  | .invr g s => some (0x28b, g, s)
  | .wbr g s => some (0x28c, g, s)
  | .prefl g s => some (0x28d, g, s)
  | .ldl g s => some (0x28e, g, s)
  | .faddF32 g s => some (0x290, g, s)
  | .faddBf16 g s => some (0x291, g, s)
  | .faddF16 g s => some (0x292, g, s)
  | .fsubF32 g s => some (0x293, g, s)
  | .fsubBf16 g s => some (0x294, g, s)
  | .fsubF16 g s => some (0x295, g, s)
  | .fmulF32 g s => some (0x296, g, s)
  | .fmulBf16 g s => some (0x297, g, s)
  | .fmulF16 g s => some (0x298, g, s)
  | .fmaF32 g s => some (0x299, g, s)
  | .fmaBf16 g s => some (0x29a, g, s)
  | .fmaF16 g s => some (0x29b, g, s)
  | .fminF32 g s => some (0x29c, g, s)
  | .fminBf16 g s => some (0x29d, g, s)
  | .fminF16 g s => some (0x29e, g, s)
  | .fmaxF32 g s => some (0x29f, g, s)
  | .fmaxBf16 g s => some (0x2a0, g, s)
  | .fmaxF16 g s => some (0x2a1, g, s)
  | .fabsF32 g s => some (0x2a2, g, s)
  | .fnegF32 g s => some (0x2a3, g, s)
  | .frndF32 g s => some (0x2a4, g, s)
  | .fcmpeqF32 g s => some (0x2a5, g, s)
  | .fcmpltF32 g s => some (0x2a6, g, s)
  | .fcmpleF32 g s => some (0x2a7, g, s)
  | .fcmpunF32 g s => some (0x2a8, g, s)
  | .vadd g s => some (0x2a9, g, s)
  | .vsub g s => some (0x2aa, g, s)
  | .vmul g s => some (0x2ab, g, s)
  | .vminI32 g s => some (0x2ac, g, s)
  | .vminN32 g s => some (0x2ad, g, s)
  | .vmaxI32 g s => some (0x2ae, g, s)
  | .vmaxN32 g s => some (0x2af, g, s)
  | .vand g s => some (0x2b0, g, s)
  | .vor g s => some (0x2b1, g, s)
  | .vxor g s => some (0x2b2, g, s)
  | .vshl g s => some (0x2b3, g, s)
  | .vshrN32 g s => some (0x2b4, g, s)
  | .vshrI32 g s => some (0x2b5, g, s)
  | .vcmpeq g s => some (0x2b6, g, s)
  | .vcmpltI32 g s => some (0x2b7, g, s)
  | .vcmpltN32 g s => some (0x2b8, g, s)
  | .vsel g s => some (0x2b9, g, s)
  | .vcasF32 g s => some (0x2ba, g, s)
  | .vcasI32 g s => some (0x2bb, g, s)
  | .vcasN32 g s => some (0x2bc, g, s)
  | .vbperm g s => some (0x2bd, g, s)
  | .vlperm g s => some (0x2be, g, s)
  | .vredF32 g s => some (0x2bf, g, s)
  | .vredI32 g s => some (0x2c0, g, s)
  | .vredN32 g s => some (0x2c1, g, s)
  | .vscanF32 g s => some (0x2c2, g, s)
  | .vscanI32 g s => some (0x2c3, g, s)
  | .vcmpact g s => some (0x2c4, g, s)
  | .vcvtfI32 g s => some (0x2c5, g, s)
  | .vcvtiF32 g s => some (0x2c6, g, s)
  | .vcvtBf16 g s => some (0x2c7, g, s)
  | .vcvtF16 g s => some (0x2c8, g, s)
  | .cmset g s => some (0x2c9, g, s)
  | .cmaff g s => some (0x2ca, g, s)
  | .cmtrn g s => some (0x2cb, g, s)
  | .cmst g s => some (0x2cc, g, s)
  | .cmslc g s => some (0x2cd, g, s)
  | .cmidx g s => some (0x2ce, g, s)
  | .cmclr g s => some (0x2cf, g, s)
  | .vknfN32 g s => some (0x2d0, g, s)
  | .vknfF32 g s => some (0x2d1, g, s)
  | .nrcinc g s => some (0x2d2, g, s)
  | .qand g s => some (0x2d3, g, s)
  | .qor g s => some (0x2d4, g, s)
  | .qxor g s => some (0x2d5, g, s)
  | .qandn g s => some (0x2d6, g, s)
  | .qcnt g s => some (0x2d7, g, s)
  | .qffs g s => some (0x2d8, g, s)
  | .vbcast g s => some (0x2d9, g, s)
  | .exp g s => some (0x310, g, s)
  | .exp2 g s => some (0x311, g, s)
  | .log g s => some (0x312, g, s)
  | .rcp g s => some (0x313, g, s)
  | .rsqrt g s => some (0x314, g, s)
  | .tanh g s => some (0x315, g, s)
  | .sigm g s => some (0x316, g, s)
  | .sin g s => some (0x317, g, s)
  | .cos g s => some (0x318, g, s)
  | .erf g s => some (0x319, g, s)
  | .vld g s => some (0x330, g, s)
  | .vldl g s => some (0x331, g, s)
  | .vst g s => some (0x332, g, s)
  | .vldf g s => some (0x333, g, s)
  | .vldfc g s => some (0x334, g, s)
  | .vstf g s => some (0x335, g, s)
  | .vfe g s => some (0x336, g, s)
  | .vfeclr g s => some (0x337, g, s)
  | .vldq g s => some (0x338, g, s)
  | .vstq g s => some (0x339, g, s)
  | .mldt g s => some (0x350, g, s)
  | .mstt g s => some (0x351, g, s)
  | .mmov g s => some (0x352, g, s)
  | .mzer g s => some (0x353, g, s)
  | .mqs g s => some (0x354, g, s)
  | .mqss g s => some (0x355, g, s)
  | .mqsr g s => some (0x356, g, s)
  | .mfold g s => some (0x357, g, s)
  | .mdrn g s => some (0x358, g, s)
  | .mkat g s => some (0x359, g, s)
  | .msts g s => some (0x35a, g, s)
  | .mcrr g s => some (0x35b, g, s)
  | .xcvtBf16 g s => some (0x380, g, s)
  | .xcvtF16 g s => some (0x381, g, s)
  | .xcvtE4m3 g s => some (0x382, g, s)
  | .xcvtE5m2 g s => some (0x383, g, s)
  | .xcvtE2m3 g s => some (0x384, g, s)
  | .xcvtE3m2 g s => some (0x385, g, s)
  | .xcvtE2m1 g s => some (0x386, g, s)
  | .xcvtI8 g s => some (0x387, g, s)
  | .xcvtN8 g s => some (0x388, g, s)
  | .xcvtI4 g s => some (0x389, g, s)
  | .xcvtN4 g s => some (0x38a, g, s)
  | .xexpBf16 g s => some (0x38b, g, s)
  | .xexpF16 g s => some (0x38c, g, s)
  | .xexpE4m3 g s => some (0x38d, g, s)
  | .xexpE5m2 g s => some (0x38e, g, s)
  | .xexpE2m3 g s => some (0x38f, g, s)
  | .xexpE3m2 g s => some (0x390, g, s)
  | .xexpE2m1 g s => some (0x391, g, s)
  | .xexpI8 g s => some (0x392, g, s)
  | .xexpN8 g s => some (0x393, g, s)
  | .xexpI4 g s => some (0x394, g, s)
  | .xexpN4 g s => some (0x395, g, s)
  | .xexpQ4k g s => some (0x396, g, s)
  | .xtrnN8 g s => some (0x397, g, s)
  | .xtrnN16 g s => some (0x398, g, s)
  | .xtrnN32 g s => some (0x399, g, s)
  | .xqntE4m3 g s => some (0x39a, g, s)
  | .xqntE5m2 g s => some (0x39b, g, s)
  | .xqntE2m3 g s => some (0x39c, g, s)
  | .xqntE3m2 g s => some (0x39d, g, s)
  | .xqntE2m1 g s => some (0x39e, g, s)
  | .xqntI8 g s => some (0x39f, g, s)
  | .xqntQ4k g s => some (0x3a0, g, s)
  | .xzipN8 g s => some (0x3a1, g, s)
  | .xzipN16 g s => some (0x3a2, g, s)
  | .xunzN8 g s => some (0x3a3, g, s)
  | .xunzN16 g s => some (0x3a4, g, s)
  | .wind g s => some (0x3b0, g, s)
  | .spadv g s => some (0x3b2, g, s)
  | .copy g s => some (0x3b3, g, s)
  | .gath g s => some (0x3b4, g, s)
  | .scat g s => some (0x3b5, g, s)
  | .kvg g s => some (0x3b6, g, s)
  | .cmpx g s => some (0x3b7, g, s)
  | .xchg g s => some (0x3b8, g, s)
  | .coll g s => some (0x3b9, g, s)
  | .drain g s => some (0x3ba, g, s)
  | .fence g s => some (0x3bb, g, s)
  | .prefh g s => some (0x3bc, g, s)
  | .migr g s => some (0x3bd, g, s)
  | .enq g s => some (0x3be, g, s)
  | .aaddI32 g s => some (0x3e0, g, s)
  | .aaddI64 g s => some (0x3e1, g, s)
  | .aaddF32 g s => some (0x3e2, g, s)
  | .aaddBf16 g s => some (0x3e3, g, s)
  | .aminI32 g s => some (0x3e4, g, s)
  | .aminI64 g s => some (0x3e5, g, s)
  | .aminN32 g s => some (0x3e6, g, s)
  | .aminN64 g s => some (0x3e7, g, s)
  | .amaxI32 g s => some (0x3e8, g, s)
  | .amaxI64 g s => some (0x3e9, g, s)
  | .amaxN32 g s => some (0x3ea, g, s)
  | .amaxN64 g s => some (0x3eb, g, s)
  | .aandN32 g s => some (0x3ec, g, s)
  | .aandN64 g s => some (0x3ed, g, s)
  | .aorN32 g s => some (0x3ee, g, s)
  | .aorN64 g s => some (0x3ef, g, s)
  | .axorN32 g s => some (0x3f0, g, s)
  | .axorN64 g s => some (0x3f1, g, s)
  | .aswpN32 g s => some (0x3f2, g, s)
  | .aswpN64 g s => some (0x3f3, g, s)
  | .acasN32 g s => some (0x3f4, g, s)
  | .acasN64 g s => some (0x3f5, g, s)
  | .hinit g s => some (0x3f6, g, s)
  | .hoffer g s => some (0x3f7, g, s)
  | .htake g s => some (0x3f8, g, s)
  | .balloc g s => some (0x3f9, g, s)
  | .bfree g s => some (0x3fa, g, s)
  | .msarm g s => some (0x3fb, g, s)
  | .msarv g s => some (0x3fc, g, s)
  | .msbind g s => some (0x3fd, g, s)
  | .unwindSpool g s => some (0x3b1, g, s)
  | .xchgAcknowledgement _ _ _ => none
  | .linkTrained _ _ => none
  | .lineFillComplete _ => none
  | .lsOccupancyEnd => none
  | .launchQueueDeparture _ => none
  | .svnRaise _ => none
/-- The `to` field, guard and source of a slot row that a word encodes; `none` for the empty slot and the device's steps. -/
def Instr.parts : Instr → Option (Nat × Grd × Src)
  | .move g s d => some (d.id, g, s)
  | .spoolRead g sp d => some (d.id, g, .spool sp)
  | .spoolWrite g s sp => some (0xB0 + sp.val, g, s)
  | .writeTscale g s => some (0xC1, g, s)
  | .writeMpc g s => some (0xC4, g, s)
  | .writeStat g s => some (0xC6, g, s)
  | .writeErrinjCtl g s => some (0xCB, g, s)
  | i => i.trig

/-- The slot word of a `to` id, a guard and a `from` id (R68). -/
def slotWord (dest : Nat) (g : Grd) (frm : Nat) : BitVec 24 :=
  BitVec.ofNat 24 (g.g.val * 2 ^ 20 + (if g.inv then 2 ^ 19 else 0) + dest * 2 ^ 9 + frm)

/-- The words of an instruction: its slot word and, for LIMM and LIMMZ, the literal of the slot above it. Rows that no word
encodes have none. -/
def encode (i : Instr) : List (BitVec 24) :=
  match i with
  | .nop _ => [0]
  | _ => match i.parts with
    | none => []
    | some (dest, g, s) => slotWord dest g s.id :: s.lit?.toList

/-- The slot an instruction stands in; 0 for the device's steps. -/
def Instr.slot : Instr → Fin 8
  | .nop n => n
  | i => match i.parts with
    | some (_, g, _) => g.slot
    | none => 0

/-- The first slot, in ascending order, in which a word is an instruction (its literal slot zero). -/
def wordSlot (w : BitVec 24) : Option (Fin 8) :=
  allSlots.find? fun n => match slotRaw n w 0 with | .ok _ => true | .error _ => false

/-- The bundle that holds one word in the first slot that admits it and zeros elsewhere. -/
def wordBundle (w : BitVec 24) : BitVec 192 :=
  match wordSlot w with
  | some n => BitVec.ofNat 192 (w.toNat <<< (24 * n.val))
  | none => BitVec.ofNat 192 w.toNat

/-- What the decoder reads from an opcode-table row's slot word: the bundle that holds it in the first slot that admits it
and zeros elsewhere is decoded, and that slot's instruction is the answer. -/
noncomputable def decodeTableWord (nbits w : Nat) : Option Instr :=
  let x := BitVec.ofNat 24 (w % 2 ^ nbits)
  match wordSlot x, decode (leBytes 24 (wordBundle x).toNat) with
  | some n, .ok is => is.find? fun i => i.slot = n
  | _, _ => none

end Sys2Proof
end

