-- ==== Sys2Proof/Config.lean ====
section
/-! DEFINITION. What the spec leaves to the part or leaves open: the free values (constants with no body, so that no proof
sees what they are) and the functions the spec names only by an outside standard. -/

namespace Sys2Proof.Config

/-- A byte the spec leaves undefined: after a failed save (R357), of a poisoned collective (R287), after a cancelled command
(R377). Applied to a counter of the state (assumption 7). -/
opaque freeByte : Nat → Byte
/-- A 32-bit lane the spec leaves undefined (R377). Applied to a counter of the state (assumption 7). -/
opaque freeLane : Nat → Lane
/-- A choice the spec gives to the device: whether a read places a replica (R146), which L1 line leaves a set (R136), which
of old and new bytes an unordered read sees (R165, R279); and a tie that R97 leaves open. Applied to a counter of the state (assumption 8). -/
opaque freeChoice : Nat → Nat
/-- The arithmetic clock, in MHz, of a die slowed by a cap or by the current limit (R21, R391) (assumption 9). -/
opaque slowClock : Nat → Nat
/-- What a sensor register of a die reads at a milepost: 2d is PDRAW of die d, 2d + 1 its TEMP (Table 22-2) (assumption 9). -/
opaque sensor : Nat → Nat → BitVec 32
/-- The number of this device in its Twine domain, 0–4,095: the spec gives it no register (Table 12-7) (assumption 9). -/
opaque deviceNo : Nat
/-- SHA-256 of a byte string: the spec names the standard and gives no algorithm (R396, R399) (assumption 10). -/
opaque sha256 : List Byte → BitVec 256
/-- HKDF-SHA-256 with an empty salt: key, info, 48 bytes (R399) (assumption 10). -/
opaque hkdf48 : BitVec 256 → List Byte → BitVec 384
/-- The SLH-DSA-SHA2-128s public key of a 48-byte seed (R399) (assumption 10). -/
opaque slhPublic : BitVec 384 → BitVec 256
/-- The SLH-DSA-SHA2-128s signature of a message under a 48-byte seed: 7,856 bytes (R396, R400) (assumption 10). -/
opaque slhSign : BitVec 384 → List Byte → List Byte
/-- SLH-DSA-SHA2-128s verification: key, message, signature (R397) (assumption 10). -/
opaque slhVerify : BitVec 256 → List Byte → List Byte → Bool

end Sys2Proof.Config
end

