-- ==== Sys2Proof/Machine/State.lean ====
section
/-! DEFINITION. The state of the machine: one core in service with its two thread places, and the device around it. Plain data.
Every item names the rule of the spec that gives it; `INVENTORY.md` lists the reset values and what stands for each. -/

namespace Sys2Proof.Machine

/-! ### Memories -/

/-- A byte-addressed memory in canonical form: addresses strictly rising, no listed byte equal to 0, which is what an
unlisted address reads as (R401 stage 3, R131: cleared). -/
abbrev Mem := List Host.Cell

/-! ### Maps and vectors (chapter 06) -/

/-- STATE of a map descriptor (Table 6-2). -/
inductive MapSt where
  | none
  | affine
  | indexed
  | opq
  deriving DecidableEq, Repr

/-- One moving dimension (Table 6-3). -/
structure MovE where
  dim : BitVec 4
  str : BitVec 16
  cnt : BitVec 12
  deriving DecidableEq, Repr

/-- A map descriptor (Tables 6-1, 6-2), and the cluster whose side-store SSIX names (R113). -/
structure MapD where
  st : MapSt
  clu : Clu
  ssix : BitVec 4
  rank : BitVec 4
  nmov : BitVec 3
  mov : Vector MovE 4
  org : Vector Lane 14
  ext : Vector Lane 14
  deriving DecidableEq, Repr

/-- The map NONE. -/
def MapD.none : MapD :=
  ⟨.none, .a, 0, 0, 0, Vector.replicate 4 ⟨0, 0, 0⟩, Vector.replicate 14 0, Vector.replicate 14 0⟩

/-- What a vector register, latch, port or bridge holds: lanes, map, tangent shadows (a missing shadow is +0) and, for a
latch, whether its last write came from a scalar, immediate or special source (R213, R214). -/
structure VVal where
  lanes : Vec
  map : MapD
  tg : List Vec
  fromS : Bool
  deriving DecidableEq, Repr

/-- Zero bits, map NONE, +0 tangents (R29). -/
def VVal.zero : VVal := ⟨Vec.splat 0, MapD.none, [], false⟩

/-- A coordinate record: four signed offsets (R113). -/
abbrev Rec := Vector Lane 4
/-- A vector side-store: 64 records (R113). -/
abbrev SStore := Vector Rec 64
/-- A tile side-store: 96 records (R113). -/
abbrev TStore := Vector Rec 96

/-! ### Tiles and array registers (chapter 11) -/

/-- The 96 rows of 128 bytes of an operand tile (R240). -/
abbrev ORows := Vector (Vector Byte 128) 96
/-- The 96 rows of 96 elements of an accumulator tile (R240). -/
abbrev ARows := Vector (Vector Lane 96) 96

/-- An operand tile with COLS (as KC), scale state, scale store, map and shadows (R240, R245, R121). -/
structure OTile where
  rows : ORows
  kc : BitVec 2
  scl : BitVec 2
  scales : Vector (Vector Byte 8) 96
  map : MapD
  sh : List ORows
  deriving DecidableEq, Repr

/-- An operand tile before any load: zero, KC 0 (COLS 64), SCL 0 (R240). -/
def OTile.zero : OTile :=
  ⟨Vector.replicate 96 (Vector.replicate 128 0), 0, 0, Vector.replicate 96 (Vector.replicate 8 0), MapD.none, []⟩

/-- An accumulator tile with status row, map and shadows (R240, R262, R121). -/
structure ATile where
  rows : ARows
  status : BitVec 96
  map : MapD
  sh : List ARows
  deriving DecidableEq, Repr

/-- A zero accumulator tile. -/
def ATile.zero : ATile := ⟨Vector.replicate 96 (Vector.replicate 96 0), 0, MapD.none, []⟩

/-- The special state of an array cell (R254). -/
inductive Sp where
  | none
  | inf (neg : Bool)
  | nan
  deriving DecidableEq, Repr

/-- Correction registers, alignment exponents and the DEFER chain (R251, R252, R259, R260): `cells` holds S − Ra − Cb of each cell
(Table 2-7), `spec` its special state (R254). `foldAt` is the thread time at which the fold of the most recent array operation
completes. -/
structure ArrRegs where
  ra : Vector (BitVec 112) 96
  cb : Vector (BitVec 112) 96
  ea : Vector (BitVec 16) 96
  eb : Vector (BitVec 16) 96
  chainN : Nat
  chainFmt : Word
  cells : Vector (Vector (BitVec 112) 96) 96
  spec : Vector (Vector Sp 96) 96
  foldAt : Nat
  deriving DecidableEq, Repr

/-- The array registers at reset: zero, no chain open (Table 2-3). -/
def ArrRegs.zero : ArrRegs :=
  ⟨Vector.replicate 96 0, Vector.replicate 96 0, Vector.replicate 96 0, Vector.replicate 96 0, 0, 0,
   Vector.replicate 96 (Vector.replicate 96 0), Vector.replicate 96 (Vector.replicate 96 .none), 0⟩

/-- Names of tiles. -/
inductive TileId where
  | t (n : Fin 8)
  | c (n : Fin 8)
  deriving DecidableEq, Repr

/-- What holds a tile busy (R244): an array operation's read of an operand tile, an array operation or fold writing an
accumulator, a drain, or anything else. -/
inductive BusyK where
  | arrRead
  | arrAcc
  | drain
  | other
  deriving DecidableEq, Repr

/-- A busy interval (Table 11-2): the tile is busy while thread time is below `till`. -/
structure Busy where
  tile : TileId
  till : Nat
  kind : BusyK
  deriving DecidableEq, Repr

/-- One array pass waiting to be added into an accumulator: shadow index (`none` for pass 0), and per cell the rounded FP32
product or, for INT32, the exact integer (R103, R253). -/
structure AccPass where
  shadow : Option Nat
  isInt : Bool
  vals : Vector (Vector Int 96) 96
  deriving DecidableEq, Repr

/-- What a tile operation still has to do at its thread time (R244–R248, R253, R257, R261, R263). A `remote` multiplies, when its
transfer is over, the rows of operand tile `n` of the other place's thread, old or new, with `b` under `fmt`; an `acc` that is `plain`, of a bundle
that is not dual, leaves +0 in the shadows (R123); a `kat` reports a fault of the array that its repeat did or did not clear. -/
inductive TileAct where
  | setO (n : Fin 8) (v : OTile)
  | setA (n : Fin 8) (v : ATile)
  | chunkO (n : Fin 8) (chunk : Nat) (v : Vec) (kc : BitVec 2) (sh : List Vec)
  | chunkA (n : Fin 8) (chunk : Nat) (v : Vec) (sh : List Vec)
  | zeroA (n : Fin 8)
  | acc (n : Fin 8) (zero plain : Bool) (passes : List AccPass)
  | store (runs : List (Nat × List Byte)) (setf : Bool)
  | statusOr (n : Fin 8) (rows : BitVec 96)
  | remote (from_ : Place) (n : Fin 8) (old b : OTile) (fmt : Word) (dual : Nat) (c : Fin 8) (zero : Bool)
  | kat (lasting : Bool)
  deriving DecidableEq, Repr

/-- A pending tile operation; equal times apply in list order. -/
structure TileOp where
  due : Nat
  act : TileAct
  deriving DecidableEq, Repr

/-! ### Streams (Table 2-1, per stream) -/

/-- One loop level (R34). -/
structure Lvl where
  idx : BitVec 32
  cnt : BitVec 32
  start : Word
  stop : Word
  deriving DecidableEq, Repr

/-- A result in flight to a port (R87): due time, time it is produced, lanes it writes, value (`lanes` lane 0 and 1 hold a
scalar's halves), poison. -/
structure Pend where
  port : SPort ⊕ VPort
  due : Nat
  prod : Nat
  mask : BitVec 64
  word : Word
  val : VVal
  deriving DecidableEq, Repr

/-- A scalar result port: its value and the thread time from which it can be read (R87). -/
structure SPortV where
  val : Word
  ready : Nat
  deriving DecidableEq, Repr

/-- A vector result port: its value and the thread time from which it can be read (R87). -/
structure VPortV where
  val : VVal
  ready : Nat
  deriving DecidableEq, Repr

/-- Why a stream's next bundle is held: an unsatisfied wait with the thread times at which it is evaluated again (R190), a launch that waits for
room (R363), a result interlock (R87), a collision that the bundle would have lost had no interlock held it (R31, R87), anything else. -/
inductive Hold where
  | none
  | waiting (evals : List Nat)
  | full
  | interlock
  | outbid
  | other
  deriving DecidableEq, Repr

/-- The state of one stream: PC (bit 63: stopped secondary, R200), mpc, loop stack with level 0 first, DUAL remainder, operand
latches, result ports, results in flight, the `xqnt.q4k` stage, the earliest issue time (gaps of R181), the frozen τ of an
interlock (R87), the hold, and for each operand latch the register it was last moved from with the lanes (R48). -/
structure Strm where
  pc : Word
  mpc : Word
  loops : List Lvl
  drem : Nat
  sl : Vector (Vector Word 3) 7
  vl : Vector (Vector VVal 3) 10
  sport : Vector SPortV 4
  vport : Vector VPortV 16
  pend : List Pend
  stage : Vector Vec 2
  gap : Nat
  tau : Option Nat
  hold : Hold
  lsrc : Vector (Vector (Option (Src × BitVec 64)) 3) 17
  deriving DecidableEq, Repr

/-- A stream with zero bits everywhere (R29). -/
def Strm.zero : Strm where
  pc := 0
  mpc := 0
  loops := []
  drem := 0
  sl := Vector.replicate 7 (Vector.replicate 3 0)
  vl := Vector.replicate 10 (Vector.replicate 3 VVal.zero)
  sport := Vector.replicate 4 ⟨0, 0⟩
  vport := Vector.replicate 16 ⟨VVal.zero, 0⟩
  pend := []
  stage := Vector.replicate 2 (Vec.splat 0)
  gap := 0
  tau := none
  hold := .none
  lsrc := Vector.replicate 17 (Vector.replicate 3 none)

/-! ### Landings and home operations (R139, R162, chapter 12) -/

/-- Where a landing writes: a scalar register, a vector register of a cluster, a next-tile register, or `ls.r` (an L1 miss); a block table's entries
go to the `kvg` command that waits for them, and are never due (R282). -/
inductive LandDst where
  | s (n : Fin 64)
  | v (c : Clu) (n : Fin 32)
  | w (n : Fin 4)
  | lsr
  | table (cmd : Nat)
  deriving DecidableEq, Repr

/-- A thread's name across saves: its launch and its thread id (R23); of a thread of another device, that device's number. -/
structure TRef where
  launch : Nat
  tid : BitVec 32
  far : Option Nat
  deriving DecidableEq, Repr

/-- How a landing gets its data: a remote read the landing makes itself, or a home operation of the outbound queue. A `table` reads `n` block table
entries. -/
inductive LandSrc where
  | scalar (dva : Word) (size : Nat) (sgn : Bool)
  | l1 (dva : Word) (size : Nat) (sgn : Bool)
  | vec (dva : Word) (tg : List Word)
  | cluster (off : Nat) (tg : List Nat)
  | table (dva : Word) (n : Nat)
  | home
  deriving DecidableEq, Repr

/-- A landing: destination, thread time it is due, lane mask, source, sequence number in the outbound order, thread time of its
issue, stream, data once it has arrived, the address of the first poisoned unit of that data, the A-cycle at which its request was last sent, with whether it
has been sent again (R386), and of a load the bytes that later stores of its thread have passed over while it waits: the byte it is to find, or that its
line's fill brings it (R166). -/
structure Landing where
  dst : LandDst
  due : Nat
  mask : BitVec 64
  src : LandSrc
  seq : Nat
  issued : Nat
  sec : Bool
  data : Option VVal
  poison : Option Word
  sentAt : Nat
  again : Bool
  seen : List (Nat × Option Byte)
  deriving DecidableEq, Repr

/-- The arithmetic of a home atomic (Table 12-10). -/
inductive AtomOp where
  | addI | addF32 | addBf16 | minI | minN | maxI | maxN | and | or | xor | swp | cas
  deriving DecidableEq, Repr

/-- An operation that performs at a home slice in the outbound order (R162, R294), with its operands as captured at issue. -/
inductive HopOp where
  | atom (op : AtomOp) (size : Nat) (sgn : Bool) (x cmp : Word) (ord scope : Nat)
  | hinit (cap : Nat)
  | hoffer (score : Lane) (row : BitVec 32)
  | htake (off : Nat) (flag : Fin 32) (reset free : Bool) (max : Nat)
  | balloc (off : Nat) (flag : Fin 32) (count cursor : Nat)
  | bfree (pages : List Nat) (flag : Fin 32) (fv : Bool)
  | msarm (bytes arrv : Nat) (scope : BitVec 3) (effective : Nat)
  | msarv (n : Nat) (scope : BitVec 3) (effective : Nat)
  | msbind (flag pflag : Fin 32) (pfv : Bool)
  | monitor (flag : Fin 32) (size : Nat) (expect : Word)
  | skjoin (clrht : Bool)
  | skleave
  | ntreq
  | launch (flag : Option (Fin 32)) (park : Bool)
  | writeBack (bytes : List Byte) (poison : BitVec 2) (own : List TRef)
  | store (bytes : List Byte)
  | drain (scope : Nat) (flag : Option (Fin 32)) (ms : Option (Word × Bool))
  | fence (sc : Bool) (scope : Nat) (flag : Option (Fin 32)) (ms : Option (Word × Bool))
  | consume
  deriving DecidableEq, Repr

/-- A queued home operation: sequence number, issue time, the core's A-cycle at its issue, stream, object address (device virtual; physical for a
write-back). `HopOp.writeBack` names the threads whose stores the line holds; `HopOp.consume` is the consumption of a flag that reads issued
before it still follow (Table 8-4). -/
structure Hop where
  seq : Nat
  time : Nat
  cyc : Nat
  sec : Bool
  dva : Word
  op : HopOp
  deriving DecidableEq, Repr

/-- A translation fault waiting to be reported (R358): address, and the due time of the landing it withholds, if any. -/
structure XFault where
  dva : Word
  due : Option Nat
  deriving DecidableEq, Repr

/-- An unwinding waiting for its bundle boundary (R371, R376): cause, code, the address an error record would carry, and the thread
time of the boundary; `target` is the outbound sequence number of the command whose region unwinds (R379). -/
structure Unw where
  cause : Nat
  code : Nat
  target : Option Nat
  addr : Word
  due : Nat
  deriving DecidableEq, Repr

/-! ### Threads -/

/-- The fields of a kernel image header a running thread needs (R85, Table 4-10). -/
structure Kern where
  img : Word
  nprim : Word
  nsec : Word
  boff : Word
  moff : Word
  mlen : Word
  lat : Vector Byte 16
  pool : Vector (BitVec 32) 3
  deriving DecidableEq, Repr

/-- No kernel: no bundles, and this generation's latencies (Table 4-11) in the latency header. -/
def Kern.zero : Kern where
  img := 0
  nprim := 0
  nsec := 0
  boff := 0
  moff := 0
  mlen := 0
  lat := #v[1, 3, 4, 2, 4, 8, 6, 12, 16, 24, 128, 40, 0, 0, 0, 0]
  pool := Vector.replicate 3 0

/-- One containment entry (R375); `pos` is the outbound sequence number at `cropen`, the engine queue position. -/
structure Region where
  handler : Word
  id : BitVec 16
  sec : Bool
  depth : Nat
  pos : Nat
  deriving DecidableEq, Repr

/-- A skein membership slot: id and object address (R202). -/
structure Memb where
  id : BitVec 32
  obj : Word
  deriving DecidableEq, Repr

/-- A spool (R274–R277, Table 2-7): the winder block as bound, positions, NEXT, flags. `pos` is the engine queue position at the
binding (R377); `skip` the positions of a write spool that `spadv` skipped and that are never written (R276). -/
structure Spool where
  blk : Vector Byte 256
  wpos : BitVec 32
  rpos : BitVec 32
  next : BitVec 32
  bound : Bool
  dir : Bool
  handle : Bool
  pos : Nat
  skip : List Nat
  deriving DecidableEq, Repr

/-- An unbound spool. -/
def Spool.zero : Spool := ⟨Vector.replicate 256 0, 0, 0, 0, false, false, false, 0, []⟩

/-- Why a debug stop holds a thread (R45, R211, R342, R354). -/
inductive StopK where
  | breakpoint
  | brkp (tag : BitVec 16)
  | peer
  | step
  | trap (word addr : Word)
  | fault (code : Nat) (addr : Word)
  deriving DecidableEq, Repr

/-- What the error record of a fatal end will say (R342, R354): class, code, trap word, address, the streams' PCs. -/
structure Fatal where
  cls : Nat
  code : Nat
  detail : Word
  addr : Word
  pcp : Word
  pcs : Word
  deriving DecidableEq, Repr

/-- How a thread stands on its place: none there, running, stopped for its save (R37), ending by R194 with an exit code and
whether the end is fatal (R354), halted by a debug stop. -/
inductive ThrSt where
  | empty
  | running
  | saving
  | ending (exit : BitVec 8) (fatal : Option Fatal)
  deriving DecidableEq, Repr

/-- A thread on the core: everything of Table 2-1, its scratchpad, and what the core keeps for it: `fmtq` and `tscaleq` the writes
not yet acting (R78), `seq` the outbound sequence number (R162), `hops` its home operations, `restart` the target of a `secgo` that
waits for the secondary's bundle (R200), `park` a `launchw` that parks it and `kids` the children it waits for (R199, R315), `tid` the thread id
that its programs and its image hold (R28), `statNow` the status events of the A-cycle in progress (R108), `settle` a
trap whose handler waits for what the thread had triggered (R376 step 2), `haltReq` a halt-together request (R47). -/
structure Thr where
  status : ThrSt
  halted : Option StopK
  ref : TRef
  tid : BitVec 32
  paired : Bool
  priv : Bool
  duall : Bool
  fusedl1 : Bool
  T : Nat
  asid : BitVec 16
  prio : Nat
  save : Word
  kern : Kern
  prim : Strm
  sec : Strm
  s : Vector Word 64
  p : Vector Bool 16
  va : Vector VVal 32
  vb : Vector VVal 32
  qa : Vector (BitVec 64) 16
  qb : Vector (BitVec 64) 16
  ot : Vector OTile 8
  ct : Vector ATile 8
  arr : ArrRegs
  ssA : Vector SStore 8
  ssB : Vector SStore 8
  tsT : Vector TStore 8
  tsC : Vector TStore 8
  flags : BitVec 32
  spools : Vector Spool 16
  w : Vector Word 4
  wrot : Nat
  wout : Nat
  fmt : Word
  fmtq : List (Nat × Word)
  tscale : Lane
  tscaleq : List (Nat × Lane)
  stat : BitVec 32
  statNow : BitVec 32
  seed : Word
  nrc : BitVec 16
  win : Vector (Word × Word) 256
  tgstr : BitVec 32
  skeins : Vector (Option Memb) 8
  regions : List Region
  xab : VVal
  xba : VVal
  time : Nat
  wayp : Nat
  preq : Bool
  busy : List Busy
  tops : List TileOp
  land : List Landing
  hops : List Hop
  seq : Nat
  spad : Mem
  fe : List Nat
  spadPoison : List Nat
  xfaults : List XFault
  unw : List Unw
  park : Bool
  kids : Nat
  restart : Option Word
  settle : Bool
  haltReq : Bool
  placedAt : Nat
  saveFrom : Nat
  deriving DecidableEq, Repr

/-- A thread as the reset values of Table 2-3 leave it. -/
def Thr.zero : Thr where
  status := .empty
  halted := none
  ref := ⟨0, 0, none⟩
  tid := 0
  paired := false
  priv := false
  duall := false
  fusedl1 := false
  T := 0
  asid := 0
  prio := 0
  save := 0
  kern := Kern.zero
  prim := Strm.zero
  sec := Strm.zero
  s := Vector.replicate 64 0
  p := Vector.replicate 16 false
  va := Vector.replicate 32 VVal.zero
  vb := Vector.replicate 32 VVal.zero
  qa := Vector.replicate 16 0
  qb := Vector.replicate 16 0
  ot := Vector.replicate 8 OTile.zero
  ct := Vector.replicate 8 ATile.zero
  arr := ArrRegs.zero
  ssA := Vector.replicate 8 (Vector.replicate 64 (Vector.replicate 4 0))
  ssB := Vector.replicate 8 (Vector.replicate 64 (Vector.replicate 4 0))
  tsT := Vector.replicate 8 (Vector.replicate 96 (Vector.replicate 4 0))
  tsC := Vector.replicate 8 (Vector.replicate 96 (Vector.replicate 4 0))
  flags := 0
  spools := Vector.replicate 16 Spool.zero
  w := Vector.replicate 4 (BitVec.ofNat 64 (2 ^ 63))
  wrot := 0
  wout := 0
  fmt := 0x0000000000200000
  fmtq := []
  tscale := 0x3F800000
  tscaleq := []
  stat := 0
  statNow := 0
  seed := 0
  nrc := 0
  win := Vector.replicate 256 (0, 0)
  tgstr := 0
  skeins := Vector.replicate 8 none
  regions := []
  xab := VVal.zero
  xba := VVal.zero
  time := 0
  wayp := 0
  preq := false
  busy := []
  tops := []
  land := []
  hops := []
  seq := 0
  spad := []
  fe := []
  spadPoison := []
  xfaults := []
  unw := []
  park := false
  kids := 0
  restart := none
  settle := false
  haltReq := false
  placedAt := 0
  saveFrom := 0

/-! ### The core -/

/-- A line of L1 (R136): its physical line address, bytes, which bytes are valid (a store miss makes only its own bytes valid
until the fill lands), dirty, the poison a fill carried into each 64-byte half (R370), the threads whose stores it holds, and the thread for which the
line was allocated, with the thread time. -/
structure L1Line where
  line : Nat
  data : Vector Byte 128
  have_ : BitVec 128
  dirty : Bool
  poison : BitVec 2
  own : List TRef
  who : TRef
  at_ : Nat
  deriving DecidableEq, Repr

/-- A cached translation (R151): space, device virtual page number and size in bits, leaf entry. -/
structure TlbE where
  asid : BitVec 16
  vpn : Nat
  bits : Nat
  pte : Word
  deriving DecidableEq, Repr

/-- A row parked in the lay-by queue (R285): command, row, its exchange blocks as quantised at the source with their poisoned ranges, and the milepost
from which it may be replayed. -/
structure LayRow where
  cmd : Nat
  row : Nat
  data : List Byte
  bad : List (Nat × Nat)
  from_ : Nat
  deriving DecidableEq, Repr

/-- The core: its number (R7), pool boundaries, L1, fills outstanding, the cycle until which `ls` is occupied (R208), the last
array trigger and its interval (R88), the last `xf` trigger and its beat (R264), freeze (R139), error injection (R382), first-level
translations (R151), lay-by queue (R285), the pool change in progress (R131), the place that wins the
next collision (R31), and whether it is failing (R380). `cyc` counts its unfrozen A-cycles; `left` is what the last occupants left in
the scratchpad region, with its full and its poisoned granules (R131), `regPoison` the poisoned granules of the register region (R367). -/
structure Core where
  num : Nat
  poolb : Vector (BitVec 32) 3
  l1 : List L1Line
  cyc : Nat
  lsFree : Nat
  arrLast : Option (Nat × Nat)
  xfLast : Option (Nat × Nat)
  frozen : Bool
  injAddr : Word
  injCtl : BitVec 32
  tlb : List TlbE
  layby : List LayRow
  reconf : Option (Nat × Vector (BitVec 32) 3)
  winNext : Place
  lastAsid : Option (BitVec 16)
  left : Mem
  leftFe : List Nat
  leftPoison : List Nat
  regPoison : List Nat
  failing : Bool
  retired : Bool
  deriving DecidableEq, Repr

/-- The core before any placement: no pool, no lines; the first collision goes to the primary place (R31). -/
def Core.zero : Core where
  num := 0
  poolb := Vector.replicate 3 0
  l1 := []
  cyc := 0
  lsFree := 0
  arrLast := none
  xfLast := none
  frozen := false
  injAddr := 0
  injCtl := 0
  tlb := []
  layby := []
  reconf := none
  winNext := .p0
  lastAsid := none
  left := []
  leftFe := []
  leftPoison := []
  regPoison := []
  failing := false
  retired := false

/-! ### Engines (chapter 12) -/

/-- A command's completion signals (R273): milestone (device virtual), arrival, flag. -/
structure Sig where
  ms : Option Word
  arv : Bool
  flag : Option (Fin 32)
  deriving DecidableEq, Repr

/-- A command with its block as read and translated at issue. Rows that are skipped have no address (R280). A `kvgLate` is a `kvg` whose block table
entries are still to be read, with its block and the window table of its issue. -/
inductive CmdK where
  | wind (sp : Fin 16)
  | unwindSp (sp : Fin 16) (x : Spool)
  | copy (skind dkind : Nat) (src dst : Word) (cnt : List Nat) (sstr dstr : List Int)
  | gath (rows : List (Option Word × Nat)) (loc lstr rlen : Nat) (recOff : Option Nat)
  | scat (rows : List (Option Word)) (loc lstr rlen : Nat)
  | kvg (rows : List (Option Word × Nat)) (loc lstr rlen : Nat) (recOff : Option Nat)
  | kvgLate (blk : List Byte) (win : Vector (Word × Word) 256)
  | cmpx (expand : Bool) (spo clo nblk size : Nat)
  | xchg (bf16 : Bool) (rows : List Word) (ne ddev dcl doff dstr : Nat) (dms : Word)
  | coll (op red dt : Nat) (skn sbuf rbuf : Word) (nb : Nat)
  | prefh (dva : Word) (npg : Nat) (llc : Bool)
  | migr (dva : Word) (npg : Nat) (tier : Bool)
  | enq
  deriving DecidableEq, Repr

/-- A command of an engine queue (R272): number, issuing thread, its space and place, sequence number in the
place's outbound order (its engine queue position, R375) with its thread time, whether it has started, segments landed, segments failed
once (R379) or, of an exchange with another device, rows sent; rows the receiver answered and how (R285); the A-cycle of its
start; whether it met a translation fault (R359); the granules of segments in motion that have landed (R165), by segment and piece; and the
rows that have been quantised, with their exchange blocks (R285); and the rows on their way to another device, each with the A-cycle in which it was last
sent and whether that was for the second time (R386). -/
structure Cmd where
  id : Nat
  own : TRef
  asid : BitVec 16
  pl : Place
  seq : Nat
  time : Nat
  kind : CmdK
  sig : Sig
  started : Bool
  done : List Nat
  failed : List Nat
  ans : List (Nat × Bool)
  sentAt : Nat
  xfault : Bool
  early : List (Nat × Nat)
  rows : List (Nat × List Byte × List (Nat × Nat))
  sends : List (Nat × Nat × Bool)
  deriving DecidableEq, Repr

/-! ### Home objects -/

/-- A live skein object (R201): physical address, count, halt-together, members, the halt in force (R47), and the collectives each member has
issued. -/
structure SkObj where
  pa : Nat
  count : Nat
  ht : Bool
  members : List TRef
  halted : Bool
  collSeen : List (TRef × Nat)
  deriving DecidableEq, Repr

/-- A live heap (R295): physical address, capacity, and its entries (score, row) in key order. -/
structure Heap where
  pa : Nat
  cap : Nat
  entries : List (Lane × BitVec 32)
  parts : List (Nat × Nat)
  deriving DecidableEq, Repr

/-- The home slice's record of an armed and not done milestone (R355, R304): physical address, arming thread, effective scope
(0 die, 1 device, 2 fabric). -/
structure Mile where
  pa : Nat
  armer : TRef
  effective : Nat
  deriving DecidableEq, Repr

/-- A milestone binding (R306), or the scheduler's for a lane entry (R312). `polled`: it holds no monitor-table entry; `peer`: the
completion it has still to see was a poisoning of R355. -/
structure Bind where
  pa : Nat
  own : TRef
  flag : Fin 32
  pflag : Option (Fin 32)
  polled : Bool
  peer : Bool
  dva : Word
  asid : BitVec 16
  deriving DecidableEq, Repr

/-- An armed monitor (R192). `polled`: it holds no monitor-table entry; `hit`: its word has differed at arming or at a write since. -/
structure Mon where
  pa : Nat
  own : TRef
  flag : Fin 32
  size : Nat
  expect : Word
  polled : Bool
  hit : Bool
  deriving DecidableEq, Repr

/-- How a copy of home bytes stands: the milepost at which it was taken, the milepost at which a later write of the bytes performed at home, the
threads that have made such a write, those that have read a newer value (R166), and those that an ordering operation keeps from it (R167, R170). -/
structure Copy where
  at_ : Nat
  staleAt : Option Nat
  wr : List TRef
  rd : List TRef
  shun : List TRef
  deriving DecidableEq, Repr

/-- A read replica on a die (R146): line, bytes, and how the copy stands. -/
structure Repl where
  die : Nat
  line : Nat
  data : List Byte
  c : Copy
  deriving DecidableEq, Repr

/-- An entry of a place's block map cache, which holds it as a read replica (R282): place, physical address, value, and how the copy stands. -/
structure BmcE where
  pl : Place
  pa : Nat
  val : BitVec 32
  c : Copy
  deriving DecidableEq, Repr

/-- An invalidation command (R152): its four words and its space; `done` says that the translations are gone and only its arrival is left. -/
structure Ivq where
  w0 : Word
  w1 : Word
  w2 : Word
  w3 : Word
  own : TRef
  msDva : Option Word
  asid : BitVec 16
  done : Bool
  deriving DecidableEq, Repr

/-- What is left of a step that met a page which is not in place, and is tried again when the page is (R38, R153): a count-down of bytes and
arrivals at a milestone, its poisoning, a flag, a write of a scratchpad image, poison in it, its full-empty bits, status bits, a leave, a record, a child's completion at its parked parent. -/
inductive LaterK where
  | count (dva : Word) (bytes arrivals : Nat)
  | poison (dva : Word) (cause : Nat)
  | flag (r : TRef) (f : Fin 32)
  | image (r : TRef) (off : Nat) (bs : List Byte) (pois : Bool)
  | spoil (r : TRef) (off n : Nat)
  | full (r : TRef) (gs : List Nat)
  | stat (r : TRef) (bits : BitVec 32)
  | leave (r : TRef) (dva : Word)
  | record (dva : Word) (bs : List Byte)
  | child (r : TRef)
  deriving DecidableEq, Repr

/-- A step that is tried again: the thread whose command or operation it belongs to, with that one's place in the outbound order and its thread time,
and the space. What belongs to one command keeps its order. -/
structure Later where
  own : Option TRef
  seq : Nat
  time : Nat
  asid : BitVec 16
  k : LaterK
  deriving DecidableEq, Repr

/-- A collective instance (R287): skein object, instance number, P at its arming, the participants that are left in rank order, the parameters of its
first command, the commands that have arrived, the parts of participants on other devices with their send buffers, and whether it is poisoned. -/
structure CollInst where
  skein : Nat
  k : Nat
  p : Nat
  parts : List TRef
  par : Nat × Nat × Nat × Nat
  cmds : List (TRef × Nat)
  far : List (TRef × List Byte × Bool)
  poisoned : Bool
  deriving DecidableEq, Repr

/-! ### Scheduling (chapter 13) -/

/-- A launch packet's fields (Table 13-5) with the space and authority it is read in, and whether its bytes carry poison. -/
structure Packet where
  bytes : List Byte
  asid : BitVec 16
  prio : Nat
  firmware : Bool
  lane : Option (Nat × BitVec 32)
  reserved : Bool
  parent : Option (TRef × Option (Fin 32) × Bool)
  die : Nat
  poison : Bool
  deriving DecidableEq, Repr

/-- A launch whose checks passed (R312–R313): counts of its threads and what its record will hold; its unplaced threads wait since the A-cycle
`since` of their die and ageing has raised them by `boost` levels (R44). -/
structure Launch where
  id : Nat
  pkt : Packet
  kern : Kern
  nthr : Nat
  nextTid : Nat
  ended : Nat
  exit0 : BitVec 8
  exitor : BitVec 8
  nhalt : Nat
  fault : Bool
  since : Nat
  boost : Nat
  deriving DecidableEq, Repr

/-- What the device keeps of a saved thread beside its image, so that engine queue positions, thread time and values in flight mean
after the restore what they meant before the save (R26, R174, R377): the outbound sequence number, the thread time, the queue position of
each spool's binding, the special states of an open DEFER chain's cells, the INDEXED maps that name cluster B's side-stores (by their place in
the image), the lane masks of the results in flight, and the outbound positions of the landings of the streams (R376). -/
structure Keep where
  seq : Nat
  time : Nat
  spos : List Nat
  spec : List (Nat × Sp)
  cluB : List Nat
  pmask : List (BitVec 64)
  lseq : List Nat × List Nat
  deriving DecidableEq, Repr

/-- A saved thread waiting to be restored (R316, R320); `parkPl` is the place that a `launchw` parent left to its child, two of a paired one's (R315); `auto` is false for one saved by `ctxsv`, and `done` are the flags of the `ctxld` operations that wait for its placement (R212); `kids` are the children that a
parked parent still waits for (R315); `unw` an unwinding that waits for the restore (R379). It has waited
since the A-cycle `since` of its die, and ageing has raised it by `boost` levels (R44). -/
structure Saved where
  ref : TRef
  asid : BitVec 16
  area : Word
  prio : Nat
  firmware : Bool
  kern : Kern
  auto : Bool
  kids : Nat
  parkPl : List Place
  since : Nat
  boost : Nat
  done : List (TRef × Fin 32)
  members : List Word
  shared : Bool
  unw : List Unw
  keep : Keep
  deriving DecidableEq, Repr

/-- A lane entry read and not started (R309, R312): its dependences bound at their milestones (number and physical address), and those
whose completion has been seen, with whether it was poisoned; `poison` says that its bytes carry poison. -/
structure LEntry where
  k : BitVec 32
  bytes : List Byte
  binds : List (Nat × Nat)
  seen : List (Nat × Bool)
  poison : Bool
  deriving DecidableEq, Repr

/-- A lane's register block (Tables 13-1 to 13-3) and the entries it has read. -/
structure Lane_ where
  lbase : Word
  lcfg : Word
  widx : BitVec 32
  ridx : BitVec 32
  seqerr : Bool
  overrun : Bool
  lostlo : BitVec 32
  losthi : BitVec 32
  entries : List LEntry
  live : List Nat
  deriving DecidableEq, Repr

/-- A lane at reset: LOG2SZ is 4, everything else 0 (Tables 13-1 to 13-3). -/
def Lane_.zero : Lane_ := ⟨0, 0x0000000000040000, 0, 0, false, false, 0, 0, [], []⟩

/-- A waiter of a context operation (R212): flag of a thread, for `ctxsv` its record and target, for `qsce` its die. -/
structure CtxWait where
  own : TRef
  flag : Fin 32
  record : Option (BitVec 16 × Word)
  target : Option TRef
  die : Option Nat
  deriving DecidableEq, Repr

/-! ### The rest of the device -/

/-- The error queue of a die (R374): records of eight words, the next SEQN, records lost since the last one queued. -/
structure ErrQ where
  recs : List (Vector Word 8)
  seqn : BitVec 32
  lost : Nat
  deriving DecidableEq, Repr

/-- The power block of a die (Table 22-2; PDRAW and TEMP are sensors) and what acts on its clock (R21, R391): the clocks, in MHz, that
the cap and the current limit set, and the milepost of a thermal trip in force. -/
structure Pwr where
  pcap : BitVec 32
  aclk : BitVec 32
  capped : Option Nat
  overCur : Option Nat
  tripped : Option Nat
  pcapNext : Option (BitVec 32)
  deriving DecidableEq, Repr

/-- A packet that leaves over Twine: the device it goes to, the die whose endpoint is its source and that one's generation, the A-cycle in which it came to
its port, its age (R385), what it carries. -/
structure Sent where
  dev : Nat
  die : Nat
  gen : BitVec 16
  since : Nat
  age : Nat
  pkt : TPkt
  deriving DecidableEq, Repr

/-- A Twine port, or a direct link of the die network (R11, R14, R384): lanes in use, retraining, a flit that failed its CRC and is being replayed;
the sequence numbers of the next flit to receive and to send, the packets sent and not yet acknowledged, each with the number of its last
flit and how many flits it takes, and the flit that failed its CRC at the far end and is being replayed. -/
structure Port where
  lanes : Nat
  retrain : Bool
  badOnce : Bool
  rseq : BitVec 12
  sseq : BitVec 12
  unack : List (BitVec 12 × Nat × Sent)
  sbad : Option (BitVec 12)
  deriving DecidableEq, Repr

/-- The boot state that survives in fuses and flash (R396–R399), and what the ROM left for the firmware. -/
structure Boot where
  slotA : FwImage
  slotB : FwImage
  rootHash : BitVec 256
  fusedSvn : Nat
  nextSvn : Nat
  uds : BitVec 256
  udsLocked : Bool
  idPub : BitVec 256
  aliasSeed : BitVec 384
  aliasPub : BitVec 256
  idSig : List Byte
  deriving DecidableEq, Repr

/-- A page whose accesses wait for firmware (R153, R360): space, page address, milepost since when, and whether firmware's time is over,
so that the bundle that waits faults. -/
structure PageWait where
  asid : BitVec 16
  va : Word
  since : Nat
  failed : Bool
  deriving DecidableEq, Repr

/-- The debugger's side (R45, R64): launches it is attached to, breakpoints (launch, bundle), pending tile writes (R48), the bundles
still to run of a `step` (R64), and the bundles that have already halted for their breakpoint and stand to issue, by place, thread and address (R339). -/
structure Dbg where
  attached : List Nat
  bps : List (Nat × Nat)
  tileWrites : List (Place × DbgDst × Vec)
  steps : Option (Place × Nat)
  skip : List (Place × TRef × Nat)
  deriving DecidableEq, Repr

/-- A port with 8 lanes and nothing sent. -/
def Port.up : Port := ⟨8, false, false, 0, 0, [], none⟩

/-- A checkpoint image (R388): bytes and poison. -/
structure Image where
  mem : Mem
  poison : List Nat
  deriving DecidableEq, Repr

/-- The device (chapters 01, 07, 12, 13, 20–22). `tlb` is the last-level translation buffer of the core's die (R151), `bmc` the block
map caches of the core's places (R282), `acyc` counts the A-cycles of the core's die, `later` what waits for pages, `gens` the live generations of
Twine sources, `rr` the launch served last at each level (R318), `share` the share weights that firmware has set (R321), and `genOld` those of this device's endpoints that are in quarantine (R385), `waitOut` the answers that wait for room in a replay buffer (die,
device, packet; R384), `ckNew` says that the safe tier has changed since the last checkpoint (R388), `free` is the counter of free values. -/
structure Dev where
  powered : Bool
  stageNo : Nat
  berra : BitVec 4
  berr : BitVec 8
  diep : BitVec 4
  slotB : Bool
  lnrdy : Bool
  devid : Word
  milepost : Nat
  mpFrac : Nat
  mpClk : Nat
  mpHold : Bool
  mpMore : Bool
  mpNext : Nat
  mem : Mem
  poison : List Nat
  csram : Vector Mem 36
  csPoison : List (Nat × Nat)
  ovf : Vector (List (Nat × List Byte)) 36
  skeins : List SkObj
  heaps : List Heap
  miles : List Mile
  binds : List Bind
  mons : List Mon
  repl : List Repl
  tlb : List TlbE
  bmc : List BmcE
  later : List Later
  acyc : Nat
  cmds : List Cmd
  cmdNext : Nat
  insts : List CollInst
  lanes : List (Nat × Lane_)
  launches : List Launch
  launchNext : Nat
  lqueue : Vector (List Packet) 4
  lover : Vector (List Packet) 4
  overCap : Vector Nat 4
  saved : List Saved
  rr : Vector Nat 4
  slice : Nat
  share : List (Nat × Nat)
  qstop : BitVec 4
  ctxWaits : List CtxWait
  quantum : Nat
  ivq : Vector (List Ivq) 4
  errs : Vector ErrQ 4
  cnt : Vector (Vector (BitVec 32) 13) 4
  cntNow : Vector (Vector (Nat × Nat) 13) 4
  astbase : Word
  astlen : Word
  pwr : Vector Pwr 4
  meas : Vector (BitVec 256) 3
  measured : List Nat
  attmb : Vector Byte 64
  boot : Boot
  ports : Vector Port 30
  gens : List (Nat × BitVec 16)
  genOld : List (Nat × BitVec 16 × Nat)
  cxl : BitVec 8
  cxlPages : Nat
  cxlSize : Vector Nat 8
  written : List Nat
  pageWaits : List PageWait
  retired : List (Nat × Nat × Word)
  lost : List Nat
  egen : Vector (BitVec 16) 4
  retryAt : List (Nat × Nat × Word)
  outbox : List Sent
  waitOut : List (Nat × Nat × TPkt)
  dies : BitVec 4
  ckHbm : Option Image
  ckSafe : Option Image
  ckNew : Bool
  dbg : Dbg
  free : Nat
  deriving DecidableEq, Repr

/-- A firmware slot with nothing in it. -/
def FwImage.blank : FwImage := ⟨0, 0, 0, 0, 0, [], []⟩

/-- The device right after package reset: STAGE 0, counters and measurements zero, SLICE 16, memory cleared, every port with
its 8 lanes. -/
def Dev.zero : Dev where
  powered := true
  stageNo := 0
  berra := 0
  berr := 0
  diep := 0
  slotB := false
  lnrdy := false
  devid := 0x0960000000000000
  milepost := 0
  mpFrac := 0
  mpClk := 4000
  mpHold := false
  mpMore := false
  mpNext := 0
  mem := []
  poison := []
  csram := Vector.replicate 36 []
  csPoison := []
  ovf := Vector.replicate 36 []
  skeins := []
  heaps := []
  miles := []
  binds := []
  mons := []
  repl := []
  tlb := []
  bmc := []
  later := []
  acyc := 0
  cmds := []
  cmdNext := 0
  insts := []
  lanes := []
  launches := []
  launchNext := 0
  lqueue := Vector.replicate 4 []
  lover := Vector.replicate 4 []
  overCap := Vector.replicate 4 1024
  saved := []
  rr := Vector.replicate 4 0
  slice := 16
  share := []
  qstop := 0
  ctxWaits := []
  quantum := 0
  ivq := Vector.replicate 4 []
  errs := Vector.replicate 4 ⟨[], 0, 0⟩
  cnt := Vector.replicate 4 (Vector.replicate 13 0)
  cntNow := Vector.replicate 4 (Vector.replicate 13 (0, 0))
  astbase := 0
  astlen := 0
  pwr := Vector.replicate 4 ⟨520, 4000, none, none, none, none⟩
  meas := Vector.replicate 3 0
  measured := []
  attmb := Vector.replicate 64 0
  boot := ⟨FwImage.blank, FwImage.blank, 0, 0, 0, 0, false, 0, 0, 0, []⟩
  ports := Vector.replicate 30 Port.up
  gens := []
  genOld := []
  cxl := 0
  cxlPages := 0
  cxlSize := Vector.replicate 8 0
  written := []
  pageWaits := []
  retired := []
  lost := []
  egen := Vector.replicate 4 0
  retryAt := []
  outbox := []
  waitOut := []
  dies := 0xF
  ckHbm := none
  ckSafe := none
  ckNew := false
  dbg := ⟨[], [], [], none, []⟩
  free := 0

/-! ### The machine -/

/-- Core, both thread places, the device, and the place whose bundle is being executed. A paired thread stands in `thr0` and
its secondary stream issues from place 1; `thr1` is then empty. -/
structure Mach where
  core : Core
  thr0 : Thr
  thr1 : Thr
  cur : Place
  dev : Dev
  deriving DecidableEq, Repr

/-- What a check of a bundle found (R338): the slot, the trap word's cause, ID, FROM and CODE fields. -/
structure TrapRec where
  slot : Nat
  cause : Nat
  id : Nat
  frm : Bool
  code : Nat
  deriving DecidableEq, Repr

/-- The bundle in progress: the machine it builds (the machine before it stands in `State.m`, which every step-1 read uses), the
lowest-slot operation trap and privilege trap, the stall, whether the core freezes first (R139, R153, R207, R208) and the pages it then waits for, and the writes step 2 makes at its end: flags and status bits set and
cleared (R188, R108), the flag-guarded slots of a wait bundle (R190), the next bundle with its gap, whether a move wrote s63 (R183), a waypoint, and the requests that act at
the bundle's boundary. -/
structure Issue where
  now : Mach
  trap : Option TrapRec
  priv : Option TrapRec
  stall : Option Hold
  freeze : Bool
  waitFor : List Word
  setF : BitVec 32
  clrF : BitVec 32
  setS : BitVec 32
  clrS : BitVec 32
  jump : Option (Word × Nat)
  wroteS63 : Bool
  isWait : Bool
  flagG : List (Nat × Nat × Bool)
  wayp : Bool
  dualSet : Option Nat
  halt : Option (BitVec 8)
  brk : Option (BitVec 16)
  abort : Option Nat
  eaten : List Nat
  popped : List (Fin 16)
  pushed : List (Fin 16)
  deriving DecidableEq, Repr

/-- The whole state: the machine (during a bundle: as it stood before it), the bundle in progress, and the actions of the
device's other agents and of the outside in the order in which they occur. -/
structure State where
  m : Mach
  issue : Option Issue
  inputs : List Instr
  deriving DecidableEq, Repr

/-- Why a step can stop with a fault. -/
inductive Fault where
  /-- Raised by `step` alone, while the module's main supply is off (R22): the machine has no state to go on with. Safe: the
  hardware does nothing until the supply returns. -/
  | supplyOff
  deriving DecidableEq, Repr

/-- Why the model gives an instruction no meaning. -/
inductive Refusal where
  /-- An instruction this model has not reached; raised by `exec`'s own arms only. Safe: nothing is claimed of it. -/
  | notModelled (mnemonic : String)
  deriving DecidableEq, Repr

/-- The machine right after reset: no thread placed, device at STAGE 0, memories clear. -/
def State.reset : State := ⟨⟨Core.zero, Thr.zero, Thr.zero, .p0, Dev.zero⟩, none, []⟩

end Sys2Proof.Machine
end

