-- ==== Sys2Proof/Machine/Ops.lean ====
section
/-! DEFINITION. The named operations the meanings share: bytes and memories, the acting thread and stream, device memory at
home, translation, scratchpad and full-empty bits, error records, flags, milestones, and taking an exception (R340, R376). -/

namespace Sys2Proof.Machine

/-! ### Numbers and bits -/

/-- Bits `[hi:lo]` of a bit vector, as a number. -/
def fld {n : Nat} (w : BitVec n) (hi lo : Nat) : Nat := bitsOf w.toNat hi lo
/-- Bit `i` of a bit vector. -/
def bit {n : Nat} (w : BitVec n) (i : Nat) : Bool := w.getLsbD i
/-- `zx(x, w)`: the low `w` bits, zero-extended to 64 (Table 9-1). -/
def zx (x : Word) (w : Nat) : Word := BitVec.ofNat 64 (x.toNat % 2 ^ w)
/-- `sx(x, w)`: the low `w` bits, sign-extended to 64 (Table 9-1). -/
def sx (x : Word) (w : Nat) : Word := (BitVec.ofNat w x.toNat).signExtend 64
/-- 1 for true, 0 for false (R75). -/
def b2w (b : Bool) : Word := if b then 1 else 0
/-- 1 for true, 0 for false, in a lane. -/
def b2l (b : Bool) : Lane := if b then 1 else 0
/-- The bit vector whose bit `i` is `f i`. -/
def bitsBy (n : Nat) (f : Nat → Bool) : BitVec n :=
  BitVec.ofNat n ((List.range n).foldr (fun i a => 2 * a + if f i then 1 else 0) 0)
/-- A word from little-endian bytes. -/
def wordOf (bs : List Byte) : Word := BitVec.ofNat 64 (leNat bs)
/-- `x` rounded up to a multiple of `k`. -/
def roundUp (x k : Nat) : Nat := (x + k - 1) / k * k
/-- A word address advanced by a signed amount, modulo 2^64. -/
def advance (a : Word) (d : Int) : Word := a + BitVec.ofInt 64 d
/-- Replace the `i`-th element of a list. -/
def setAt {α : Type} (l : List α) (i : Nat) (x : α) : List α := l.set i x

/-- A strictly rising list with `x` in it. -/
def insertNat (x : Nat) : List Nat → List Nat
  | [] => [x]
  | y :: ys => if x < y then x :: y :: ys else if x = y then y :: ys else y :: insertNat x ys

/-- The multiples of the granule size that a range of `n` bytes from `a` touches. -/
def unitsOf (a n k : Nat) : List Nat :=
  if n = 0 then [] else (List.range ((a + n - 1) / k + 1 - a / k)).map (· + a / k)

/-! ### Byte memories -/

/-- The byte at an address; an unlisted address reads as 0 (assumption 1). -/
def Mem.read : Mem → Nat → Byte
  | [], _ => 0
  | (k, b) :: r, a => if a < k then 0 else if a = k then b else Mem.read r a

/-- Write one byte, keeping the canonical form: writing 0 removes the entry. -/
def Mem.write : Mem → Nat → Byte → Mem
  | [], a, b => if b = 0 then [] else [(a, b)]
  | (k, c) :: r, a, b =>
    if a < k then (if b = 0 then (k, c) :: r else (a, b) :: (k, c) :: r)
    else if a = k then (if b = 0 then r else (a, b) :: r)
    else (k, c) :: Mem.write r a b

/-- The entries from an address on. -/
def Mem.since : Mem → Nat → Mem
  | [], _ => []
  | (k, b) :: r, a => if k < a then Mem.since r a else (k, b) :: r

/-- `n` bytes from `a`, in rising order: one walk along the list. -/
def Mem.readN (m : Mem) (a : Nat) : Nat → List Byte
  | 0 => []
  | n + 1 => let r := m.since a; Mem.read r a :: Mem.readN r (a + 1) n

/-- Bytes from `a` on over a memory with no entry below `a`. -/
def Mem.put (m : Mem) (a : Nat) : List Byte → Mem
  | [] => m
  | b :: bs => let r := Mem.put (m.since (a + 1)) (a + 1) bs; if b = 0 then r else (a, b) :: r

/-- Write bytes from `a` on: one walk along the list. -/
def Mem.writeN : Mem → Nat → List Byte → Mem
  | [], a, bs => Mem.put [] a bs
  | (k, c) :: r, a, bs => if k < a then (k, c) :: Mem.writeN r a bs else Mem.put ((k, c) :: r) a bs

/-- The little-endian number in `n` bytes from `a` (R5). -/
def Mem.num (m : Mem) (a n : Nat) : Nat := leNat (Mem.readN m a n)

/-- The addresses of a memory lie above a bound and rise strictly, and no listed byte is 0. -/
def Mem.wfFrom : Nat → Mem → Bool
  | _, [] => true
  | lo, (k, b) :: r => (lo ≤ k && b ≠ 0) && Mem.wfFrom (k + 1) r

/-- The canonical form: addresses strictly rising, no listed byte equal to what an unlisted address reads as. -/
def Mem.wf (m : Mem) : Bool := Mem.wfFrom 0 m

/-! ### The acting thread and stream -/

/-- The acting place's thread stands in `thr0`: place 0, or either place of a paired thread (R24). -/
def Mach.onT0 (m : Mach) : Bool := m.cur = .p0 || m.thr0.paired
/-- The acting thread. -/
def Mach.t (m : Mach) : Thr := if m.onT0 then m.thr0 else m.thr1
/-- Replace the acting thread. -/
def Mach.setT (m : Mach) (t : Thr) : Mach := if m.onT0 then { m with thr0 := t } else { m with thr1 := t }
/-- The acting stream is the secondary of a paired thread. -/
def Mach.isSec (m : Mach) : Bool := m.cur = .p1 && m.thr0.paired
/-- A thread's stream. -/
def Thr.strm (t : Thr) (sec : Bool) : Strm := if sec then t.sec else t.prim
/-- Replace a thread's stream. -/
def Thr.setStrm (t : Thr) (sec : Bool) (x : Strm) : Thr := if sec then { t with sec := x } else { t with prim := x }
/-- The acting stream. -/
def Mach.st (m : Mach) : Strm := m.t.strm m.isSec
/-- Change the acting thread. -/
def Mach.modT (m : Mach) (f : Thr → Thr) : Mach := m.setT (f m.t)
/-- Change the acting stream. -/
def Mach.modSt (m : Mach) (f : Strm → Strm) : Mach := m.modT fun t => t.setStrm m.isSec (f (t.strm m.isSec))
/-- Change the device. -/
def Mach.modD (m : Mach) (f : Dev → Dev) : Mach := { m with dev := f m.dev }
/-- Change the core. -/
def Mach.modC (m : Mach) (f : Core → Core) : Mach := { m with core := f m.core }
/-- The machine with another acting place. -/
def Mach.at_ (m : Mach) (pl : Place) : Mach := { m with cur := pl }

/-- The core's die, cluster and thread place numbers (R7, Table 1-1). -/
def Core.die (c : Core) : Nat := c.num / 72
/-- The core's cluster. -/
def Core.cluster (c : Core) : Nat := c.num / 8
/-- The number of the acting place. -/
def Mach.placeNo (m : Mach) : Nat := 2 * m.core.num + (match m.cur with | .p0 => 0 | .p1 => 1)
/-- Whether a thread is on its place. -/
def Thr.live (t : Thr) : Bool := t.status ≠ .empty
/-- Apply a change to the live thread a name stands for, if it is on this core. -/
def Mach.modRef (m : Mach) (r : TRef) (f : Thr → Thr) : Mach :=
  if m.thr0.live && m.thr0.ref = r then { m with thr0 := f m.thr0 }
  else if m.thr1.live && m.thr1.ref = r then { m with thr1 := f m.thr1 }
  else m
/-- The live thread of a name. -/
def Mach.thrOf (m : Mach) (r : TRef) : Option Thr :=
  if m.thr0.live && m.thr0.ref = r then some m.thr0
  else if m.thr1.live && m.thr1.ref = r then some m.thr1
  else none

/-- A bundle address as s62 and error records hold it: bit 63 for the secondary stream (R340). -/
def bundleAddr (pc : Word) (sec : Bool) : Word := BitVec.ofNat 64 (pc.toNat % 2 ^ 56 + if sec then 2 ^ 63 else 0)
/-- A stream is stopped when bit 63 of its PC is set (R200). -/
def Strm.stopped (x : Strm) : Bool := bit x.pc 63
/-- The PC of a stream that goes to a target. A target with bit 63 set lies in no section, so its fetch traps (R182, R200); since bit 63
of a PC marks a stopped stream, bit 62 stands for it, and bits [55:0], which the trap reports, stay (R340). -/
def fetchAt (target : Word) : Word :=
  if bit target 63 then (target &&& 0x7FFFFFFFFFFFFFFF#64) ||| 0x4000000000000000#64 else target
/-- Stop a stream (R200). -/
def Strm.stop (x : Strm) : Strm := { x with pc := x.pc ||| BitVec.ofNat 64 (2 ^ 63), hold := .none, tau := none }

/-! ### Physical memory at home (R142–R146, R369) -/

/-- The dies over whose stacks HBM is interleaved, in ascending order (R143, R387). -/
def Dev.stackDies (d : Dev) : List Nat := (List.range 4).filter fun i => bit d.dies i
/-- HBM addresses (Table 7-3): 176 GiB for each of those dies, so that the range ends earlier after a die drop (R387). -/
def Dev.inHbm (d : Dev) (pa : Nat) : Bool := pa < 0x002C00000000 * d.stackDies.length
/-- Second-tier addresses that hold pages: the tier has present ports (R144). -/
def Dev.inTier2 (d : Dev) (pa : Nat) : Bool :=
  0x200000000000 ≤ pa && pa < 0x400000000000 && pa < 0x200000000000 + d.cxlPages * 0x10000 && d.cxl ≠ 0
/-- Management register addresses. -/
def inMgmt (pa : Nat) : Bool := 0xF00000000000 ≤ pa && pa < 0xF00100000000
/-- The physical address exists (R142). -/
def Dev.paOk (d : Dev) (pa : Nat) : Bool := d.inHbm pa || d.inTier2 pa || inMgmt pa

/-- The offset in an object of a physical address that belongs to it, given its physical parts in order. -/
def partOff : List (Nat × Nat) → Nat → Option Nat
  | [], _ => none
  | (p, n) :: ps, a => if p ≤ a && a < p + n then some (a - p) else (partOff ps a).map (· + n)
/-- The physical address of an offset in an object, given its physical parts in order. -/
def partPa : List (Nat × Nat) → Nat → Option Nat
  | [], _ => none
  | (p, n) :: ps, o => if o < n then some (p + o) else partPa ps (o - n)

/-- The byte belongs to an object whose bytes the home slice protects: a live skein object (R201), a live heap (R295), an armed
milestone (R302). -/
def Dev.isProtected (d : Dev) (a : Nat) : Bool :=
  d.skeins.any (fun k => k.pa ≤ a && a < k.pa + 64) ||
  d.heaps.any (fun h => (partOff h.parts a).isSome) ||
  d.miles.any (fun k => k.pa ≤ a && a < k.pa + 16)

/-- The byte belongs to the entry area of a live heap, which reads as zero (R295). -/
def Dev.inEntries (d : Dev) (a : Nat) : Bool :=
  d.heaps.any fun h => match partOff h.parts a with | some o => decide (64 ≤ o) | none => false
/-- The byte a read at home returns. -/
def Dev.byte (d : Dev) (a : Nat) : Byte := if d.inEntries a then 0 else Mem.read d.mem a
/-- `n` bytes read at home. -/
def Dev.bytes (d : Dev) (a n : Nat) : List Byte := (Mem.readN d.mem a n).zipIdx.map fun e => if d.inEntries (a + e.2) then 0 else e.1
/-- A little-endian number read at home. -/
def Dev.num (d : Dev) (a n : Nat) : Nat := leNat (d.bytes a n)

/-- The word of a monitor differs from the value it expects (R192). -/
def Dev.differs (d : Dev) (k : Mon) : Bool := d.num k.pa k.size ≠ k.expect.toNat

/-- Change how the copies stand that share a byte with a range: replicas, whose lines a range touches, and block map cache entries. -/
def Dev.modCopies (d : Dev) (a n : Nat) (f : Copy → Copy) : Dev :=
  { d with
    repl := d.repl.map fun r => if (unitsOf a n 128).contains r.line then { r with c := f r.c } else r
    bmc := d.bmc.map fun e => if a < e.pa + 4 && e.pa < a + n then { e with c := f e.c } else e }
/-- A write that performs at a milepost makes a copy stale, if none has before. -/
def Copy.stale (c : Copy) (now : Nat) : Copy := if c.staleAt = none then { c with staleAt := some now } else c

/-- What every write that performs at home does beside the bytes: replicas and block map cache entries of its bytes become stale
(R146, R282), monitors of its bytes see the word (R192), and written bits of second-tier pages are set (R388). -/
def Dev.wrote (d : Dev) (a n : Nat) : Dev :=
  { d.modCopies a n (fun c => c.stale d.milepost) with
    mons := d.mons.map fun k => if !k.polled && !k.hit && a < k.pa + k.size && k.pa < a + n then { k with hit := d.differs k } else k
    written := if 0x200000000000 ≤ a then (unitsOf a n 0x10000).foldl (fun l u => insertNat u l) d.written else d.written }

/-- The home slice writes an object's own bytes. -/
def Dev.poke (d : Dev) (a : Nat) (bs : List Byte) : Dev :=
  Dev.wrote { d with mem := Mem.writeN d.mem a bs } a bs.length
/-- The home slice writes a number of `n` bytes. -/
def Dev.pokeNum (d : Dev) (a n x : Nat) : Dev := d.poke a (leBytes n x)

/-- Bytes of an ordinary write: a protected object's byte stays as it stands (R201, R295, R302). -/
def Dev.putBytes (d : Dev) (a : Nat) (bs : List Byte) (m : Mem) : Mem :=
  Mem.writeN m a ((bs.zip (Mem.readN m a bs.length)).zipIdx.map fun e => if d.isProtected (a + e.2) then e.1.2 else e.1.1)

/-- The poisoned 64-byte units after a write of `n` bytes at `a` (R369): poisoned data poisons each unit it touches, a clean
write that covers a whole unit clears it, a partial one leaves it. -/
def poisonAfter (k a n : Nat) (pois : Bool) (l : List Nat) : List Nat :=
  if pois then (unitsOf a n k).foldl (fun l u => insertNat u l) l
  else l.filter fun u => !(a ≤ u * k && u * k + k ≤ a + n)

/-- An ordinary write at home. -/
def Dev.write (d : Dev) (a : Nat) (bs : List Byte) (pois : Bool) : Dev :=
  Dev.wrote { d with
    mem := d.putBytes a bs d.mem
    poison := poisonAfter 64 a bs.length pois d.poison } a bs.length

/-- The address of the first poisoned unit of physical ranges; of ranges with none, a free value. -/
def Dev.firstBad (d : Dev) (ps : List (Nat × Nat)) : Option Word :=
  some (match ps.findSome? fun r => (unitsOf r.1 r.2 64).find? d.poison.contains with
    | some u => BitVec.ofNat 64 (64 * u)
    | none => Config.freeLane d.free ++ Config.freeLane (d.free + 1))
/-- Some unit of the range is poisoned. -/
def Dev.poisoned (d : Dev) (a n : Nat) : Bool := (unitsOf a n 64).any d.poison.contains

/-! ### Counters and error records (R374, R394) -/

/-- The H-cycle of a milepost: two reference cycles (R17). -/
def hCycle (milepost : Nat) : Nat := milepost / 2
/-- Count an event of a die: the counter stops at its largest value (R394). How many events its H-cycle has had is kept for a clear of that cycle. -/
def Dev.count (d : Dev) (die k : Nat) : Dev :=
  let e := nth (nth d.cntNow die) k
  let h := hCycle d.milepost
  { d with
    cnt := setNth d.cnt die (setNth (nth d.cnt die) k
      (if nth (nth d.cnt die) k = 0xFFFFFFFF then 0xFFFFFFFF else nth (nth d.cnt die) k + 1))
    cntNow := setNth d.cntNow die (setNth (nth d.cntNow die) k (h, if e.1 = h then e.2 + 1 else 1)) }

/-- The contents of an error record (Table 21-3) less SEQN, MP and LOST. -/
structure Rec0 where
  cls : Nat
  code : Nat
  level : Nat
  detail : Word
  addr : Word
  tid : BitVec 32
  place : Nat
  asid : Nat
  pcp : Word
  pcs : Word
  second : Nat

/-- A record with no thread, level or space. -/
def Rec0.plain (cls code : Nat) : Rec0 :=
  ⟨cls, code, 0xFF, 0, 0, 0xFFFFFFFF, 0xFFFF, 0xFFFF, BitVec.allOnes 64, BitVec.allOnes 64, 0⟩

/-- Queue an error record on a die, or drop it when 256 are held (R374). -/
def Dev.record (d : Dev) (die : Nat) (r : Rec0) : Dev :=
  let q := nth d.errs die
  if 256 ≤ q.recs.length then
    Dev.count { d with errs := setNth d.errs die { q with lost := q.lost + 1 } } die 8
  else
    let w0 := q.seqn.toNat + r.cls * 2 ^ 32 + r.code * 2 ^ 40 + r.level * 2 ^ 48 + die * 2 ^ 56
    let w3 := r.tid.toNat + r.place * 2 ^ 32 + r.asid * 2 ^ 48
    let lost := if r.cls = 2 || r.cls = 3 then r.second else q.lost
    let rec_ : Vector Word 8 := #v[BitVec.ofNat 64 w0, r.detail, r.addr, BitVec.ofNat 64 w3, BitVec.ofNat 64 d.milepost,
      r.pcp, r.pcs, BitVec.ofNat 64 lost]
    { d with errs := setNth d.errs die { recs := q.recs ++ [rec_], seqn := q.seqn + 1, lost := 0 } }

/-- A record about a thread: its id, place, space and PCs. -/
def Mach.threadRec (m : Mach) (cls code : Nat) (detail addr : Word) (t : Thr) (pcp pcs : Word) : Rec0 :=
  { Rec0.plain cls code with
    detail := detail, addr := addr, tid := t.tid
    place := 2 * m.core.num + (if m.thr1.live && m.thr1.ref = t.ref then 1 else 0)
    asid := t.asid.toNat, pcp := pcp, pcs := if t.paired then pcs else BitVec.allOnes 64 }

/-! ### Home dies (R143–R145, R391) -/

/-- The home die of a physical address (R143–R145): of its HBM stack, two of each die that serves its own (R387, R401), or of the present CXL port
its 4 KiB granule hashes to. -/
def Dev.homeDie (d : Dev) (pa : Nat) : Nat :=
  if pa < 0x200000000000 then
    d.stackDies.getD (pa / 0x10000 % (32 * max d.stackDies.length 1) / 32) 0
  else
    let ports := (List.range 8).filter fun i => bit d.cxl i
    (ports.getD (bitsOf pa 44 12 % max ports.length 1) 0) / 2

/-- Some bytes of a physical range are homed on a die whose clocks a thermal trip has stopped: accesses to them wait (R391). -/
def Dev.stops (d : Dev) (pa n : Nat) : Bool :=
  d.pwr.toList.any (fun p => p.tripped.isSome) && !inMgmt pa &&
    (unitsOf pa n 4096).any fun u => (nth d.pwr (d.homeDie (4096 * u))).tripped.isSome

/-! ### Translation (R147–R152) -/

/-- What a device virtual address leads to: a physical address with the leaf and its size in bits, a translation fault, or a page
that is not resident or is leaving (R153). -/
inductive WalkR where
  | ok (pa : Nat) (pte : Word) (bits : Nat)
  | fault
  | absent
  deriving DecidableEq, Repr

/-- A leaf entry's answer for an access (R150, R153). The permission bits are the leaf's. One that is misaligned or denies the access faults whether its page is
in place or not (DESIGN CHOICE: R150 gives such a leaf both the fault and the wait). -/
def Dev.leaf (d : Dev) (pte : Word) (bits : Nat) (va : Nat) (write priv : Bool) : WalkR :=
  let base := fld pte 47 8 * 256
  if base % 2 ^ bits ≠ 0 then .fault
  else if (if write then !bit pte 2 else !bit pte 1) then .fault
  else if !bit pte 0 || bit pte 6 then .absent
  else
    let pa := base + va % 2 ^ bits
    if !d.paOk pa || d.lost.contains (pa / 0x10000) then .fault
    else if inMgmt pa && !priv then .fault
    else .ok pa pte bits

/-- The addresses of the table entries that a walk reads (R149, R395). -/
def Dev.walkPath (d : Dev) (asid : BitVec 16) (va : Word) : List Nat :=
  let a := va.toNat
  if 2 ^ 48 ≤ a || d.astlen.toNat ≤ asid.toNat then []
  else
    let p0 := d.astbase.toNat + 16 * asid.toNat
    let ast := d.num p0 8
    if ast % 2 = 0 then [p0]
    else
      let p1 := bitsOf ast 47 21 * 2 ^ 21 + 8 * bitsOf a 47 30
      let e1 := d.num p1 8
      if bitsOf e1 4 3 ≠ 1 then [p0, p1]
      else
        let p2 := bitsOf e1 47 8 * 256 + 8 * bitsOf a 29 21
        let e2 := d.num p2 8
        if bitsOf e2 4 3 ≠ 1 then [p0, p1, p2] else [p0, p1, p2, bitsOf e2 47 8 * 256 + 8 * bitsOf a 20 16]

/-- A walk reads a table on a die whose clocks are stopped: it waits (R391). -/
def Dev.walkStops (d : Dev) (asid : BitVec 16) (va : Word) : Bool :=
  d.pwr.toList.any (fun p => p.tripped.isSome) && (d.walkPath asid va).any fun p => d.stops p 8
/-- The page walk of three levels (R149, R150), its first table named by the address-space table (R395). -/
def Dev.walk (d : Dev) (asid : BitVec 16) (va : Word) (write priv : Bool) : WalkR :=
  let a := va.toNat
  if d.walkStops asid va then .absent
  else if 2 ^ 48 ≤ a then .fault
  else if d.astlen.toNat ≤ asid.toNat then .fault
  else
    let ast := d.num (d.astbase.toNat + 16 * asid.toNat) 8
    if ast % 2 = 0 then .fault
    else
      let l1 := bitsOf ast 47 21 * 2 ^ 21
      let e1 := BitVec.ofNat 64 (d.num (l1 + 8 * bitsOf a 47 30) 8)
      match fld e1 4 3 with
      | 2 => d.leaf e1 30 a write priv
      | 1 =>
        let t2 := fld e1 47 8 * 256
        if t2 % 4096 ≠ 0 then .fault
        else
          let e2 := BitVec.ofNat 64 (d.num (t2 + 8 * bitsOf a 29 21) 8)
          match fld e2 4 3 with
          | 2 => d.leaf e2 21 a write priv
          | 1 =>
            let t3 := fld e2 47 8 * 256
            let e3 := BitVec.ofNat 64 (d.num (t3 + 8 * bitsOf a 20 16) 8)
            match fld e3 4 3 with
            | 2 => d.leaf e3 16 a write priv
            | _ => .fault
          | _ => .fault
      | _ => .fault

/-- A cached translation that covers an address. -/
def tlbHit (l : List TlbE) (asid : BitVec 16) (va : Nat) : Option TlbE :=
  l.find? fun e => e.asid = asid && e.vpn = va / 2 ^ e.bits

/-- Firmware has let the time of a page run out for the access that waits (R360). -/
def Dev.overdue (d : Dev) (asid : BitVec 16) (va : Word) : Bool :=
  d.pageWaits.any fun w => w.failed && w.asid = asid && w.va.toNat / 0x10000 = va.toNat / 0x10000

/-- Translate for the core: first-level buffer, last-level buffer, walk (R151). -/
def Mach.xlate (m : Mach) (asid : BitVec 16) (va : Word) (write priv : Bool) : WalkR :=
  if m.dev.overdue asid va then .fault
  else match tlbHit m.core.tlb asid va.toNat with
  | some e => m.dev.leaf e.pte e.bits va.toNat write priv
  | none => match tlbHit m.dev.tlb asid va.toNat with
    | some e => m.dev.leaf e.pte e.bits va.toNat write priv
    | none => m.dev.walk asid va write priv

/-- Where the leaf entry of an address stands, with its page size in bits (R149). -/
def Dev.leafAt (d : Dev) (asid : BitVec 16) (va : Word) : Option (Nat × Nat) :=
  let a := va.toNat
  let e := fun (p : Nat) => BitVec.ofNat 64 (d.num p 8)
  if 2 ^ 48 ≤ a || d.astlen.toNat ≤ asid.toNat then none
  else
    let ast := d.num (d.astbase.toNat + 16 * asid.toNat) 8
    if ast % 2 = 0 then none
    else
      let p1 := bitsOf ast 47 21 * 2 ^ 21 + 8 * bitsOf a 47 30
      match fld (e p1) 4 3 with
      | 2 => some (p1, 30)
      | 1 =>
        let p2 := fld (e p1) 47 8 * 256 + 8 * bitsOf a 29 21
        match fld (e p2) 4 3 with
        | 2 => some (p2, 21)
        | 1 =>
          let p3 := fld (e p2) 47 8 * 256 + 8 * bitsOf a 20 16
          if fld (e p3) 4 3 = 2 then some (p3, 16) else none
        | _ => none
      | _ => none

/-- The 2 MiB region of a cached translation, with its space: what an entry of the last-level buffer holds (R151). -/
def TlbE.region (e : TlbE) : BitVec 16 × Nat := (e.asid, e.vpn * 2 ^ e.bits / 2 ^ 21)
/-- The entries that caching a translation brings into the last-level buffer: of a region mapped by 64 KiB leaves, all its leaves with PRES = 1. -/
def Dev.regionOf (d : Dev) (e : TlbE) : List TlbE :=
  if e.bits ≠ 16 then [e]
  else (List.range 32).filterMap fun k =>
    let vpn := e.vpn / 32 * 32 + k
    if vpn = e.vpn then some e
    else match d.leafAt e.asid (BitVec.ofNat 64 (vpn * 2 ^ 16)) with
      | some (p, 16) =>
        let pte := BitVec.ofNat 64 (d.num p 8)
        if bit pte 0 then some ⟨e.asid, vpn, 16, pte⟩ else none
      | _ => none
/-- Keep a translation in the last-level buffer: 196,608 entries of 2 MiB regions, and 1,024 of 1 GiB pages; a full one loses an entry of the
device's choice (R151). -/
def Dev.cacheLast (d : Dev) (e : TlbE) : Dev :=
  if d.tlb.contains e then d
  else
    let big := e.bits = 30
    let same := d.tlb.filter fun x => decide (x.bits = 30) = decide big
    let keys := (same.map fun x => if big then (x.asid, x.vpn) else x.region).eraseDups
    let cap := if big then 1024 else 196608
    let gone := if keys.length < cap then none else keys[Config.freeChoice d.free % cap]?
    let kept := d.tlb.filter fun x => !(decide (x.bits = 30) = decide big && some (if big then (x.asid, x.vpn) else x.region) = gone)
    { d with free := d.free + 1, tlb := d.regionOf e ++ kept }

/-- Translate for an engine: last-level buffer or walk. -/
def Dev.xlate (d : Dev) (asid : BitVec 16) (va : Word) (write : Bool) : WalkR :=
  if d.overdue asid va then .fault
  else match tlbHit d.tlb asid va.toNat with
  | some e => d.leaf e.pte e.bits va.toNat write false
  | none => d.walk asid va write false

/-- Translate a range page by page of 64 KiB: the first answer that is not a translation, or the physical address of each byte
range. -/
def Dev.xlateRange (d : Dev) (asid : BitVec 16) (va : Word) (n : Nat) (write : Bool) : Except WalkR (List (Nat × Nat)) :=
  (unitsOf va.toNat n 0x10000).foldlM (fun acc u =>
    let lo := max va.toNat (u * 0x10000)
    let hi := min (va.toNat + n) (u * 0x10000 + 0x10000)
    match d.xlate asid (BitVec.ofNat 64 lo) write with
    | .ok pa _ _ => .ok (acc ++ [(pa, hi - lo)])
    | r => .error r) []

/-- Bytes of the acting thread's kernel image (R66, R85): at an offset from KIMG, a device virtual address of its space. -/
def Mach.kernBytes (m : Mach) (off n : Nat) : Except WalkR (List Byte) :=
  let a := m.t.kern.img.toNat + off
  (unitsOf a n 0x10000).foldlM (fun acc u =>
    let lo := max a (u * 0x10000)
    let hi := min (a + n) (u * 0x10000 + 0x10000)
    match m.xlate m.t.asid (BitVec.ofNat 64 lo) false m.t.priv with
    | .ok pa _ _ => .ok (acc ++ m.dev.bytes pa (hi - lo))
    | r => .error r) []

/-! ### The segment window table (R147, R148) -/

/-- The window entry of a kernel address: the lowest-numbered valid entry that covers it, as DVA displacement and permissions. -/
def Thr.window (t : Thr) (ka : Word) : Option (Word × Word) :=
  if fld ka 63 48 ≠ 0 then none
  else t.win.toList.find? fun e =>
    bit e.2 3 && fld e.1 63 32 ≤ fld ka 47 16 && fld ka 47 16 < fld e.1 63 32 + fld e.1 31 0

/-- The device virtual address of a kernel address whose `n` bytes lie in one window entry that grants what is asked (R148, R272). -/
def Thr.win? (t : Thr) (ka : Word) (n : Nat) (rd w : Bool) : Option Word :=
  match t.window ka with
  | none => none
  | some e =>
    if (rd && !bit e.2 0) || (w && !bit e.2 1) then none
    else if (fld e.1 63 32 + fld e.1 31 0) * 0x10000 < ka.toNat + n then none
    else some (BitVec.ofNat 64 ((fld e.2 63 32 + fld ka 47 16 - fld e.1 63 32) * 0x10000 + fld ka 15 0))

/-! ### Scratchpad (R129–R133) -/

/-- The size of a register set (R130). -/
def rset (T : Nat) : Nat := roundUp (512 * 1024 + T * 208 * 1024) 0x10000
/-- The core holds two register sets (R130). -/
def Core.twoSets (c : Core) (T : Nat) : Bool := 2 * rset T ≤ (c.poolb[0]).toNat
/-- The size S of the acting thread's scratchpad: half on a core with two sets, unless the thread is paired (R130, R132). -/
def Mach.spadSize (m : Mach) : Nat :=
  let s := (m.core.poolb[1]).toNat - (m.core.poolb[0]).toNat
  if m.core.twoSets m.t.T && !m.t.paired then s / 2 else s
/-- The pool offset of the acting thread's scratchpad (R130). -/
def Mach.spadBase (m : Mach) : Nat :=
  (m.core.poolb[0]).toNat + (if m.core.twoSets m.t.T && !m.t.paired && m.cur = .p1 then m.spadSize else 0)

/-- Write scratchpad bytes, poison by R369. -/
def Thr.putSpad (t : Thr) (off : Nat) (bs : List Byte) (pois : Bool) : Thr :=
  { t with spad := Mem.writeN t.spad off bs, spadPoison := poisonAfter 16 off bs.length pois t.spadPoison }
/-- Set the full-empty bits of granules (R133). -/
def Thr.setFull (t : Thr) (gs : List Nat) : Thr := { t with fe := gs.foldl (fun l g => insertNat g l) t.fe }
/-- Clear the full-empty bits of granules. -/
def Thr.setEmpty (t : Thr) (gs : List Nat) : Thr := { t with fe := t.fe.filter fun g => !gs.contains g }
/-- An engine's write into a scratchpad: bytes, then the bits of the granules it touches (R133). -/
def Thr.engSpad (t : Thr) (off : Nat) (bs : List Byte) (pois : Bool) : Thr :=
  (t.putSpad off bs pois).setFull (unitsOf off bs.length 16)
/-- Some granule of a scratchpad range is poisoned. -/
def Thr.spadPoisoned (t : Thr) (off n : Nat) : Bool := (unitsOf off n 16).any t.spadPoison.contains
/-- Some 16-byte unit of a cluster SRAM range is poisoned. -/
def Dev.csPoisoned (d : Dev) (cl off n : Nat) : Bool := (unitsOf off n 16).any fun u => d.csPoison.contains (cl, u)
/-- Write cluster SRAM bytes, poison by R369. -/
def Dev.putCs (d : Dev) (cl off : Nat) (bs : List Byte) (pois : Bool) : Dev :=
  { d with
    csram := setNth d.csram cl (Mem.writeN (nth d.csram cl) off bs)
    csPoison := if pois then d.csPoison ++ ((unitsOf off bs.length 16).map fun u => (cl, u)).filter (fun e => !d.csPoison.contains e)
      else d.csPoison.filter fun e => !(e.1 = cl && off ≤ e.2 * 16 && e.2 * 16 + 16 ≤ off + bs.length) }

/-! ### Steps that wait for a page (R38, R153) -/

/-- Register that accesses wait for a page (R153, R360); one whose walk a stopped die holds up waits for no page. -/
def Dev.waitPage (d : Dev) (asid : BitVec 16) (dva : Word) : Dev :=
  let va := BitVec.ofNat 64 (dva.toNat / 0x10000 * 0x10000)
  if d.walkStops asid dva || d.pageWaits.any (fun w => w.asid = asid && w.va = va) then d
  else { d with pageWaits := d.pageWaits ++ [⟨asid, va, d.milepost, false⟩] }

/-- What a step belongs to that may have to wait: the thread, with the place in the outbound order and the thread time of its command or
operation. -/
abbrev Owner := Option (TRef × Nat × Nat)
/-- An earlier step of the same command waits already: its signals keep their order (R273). -/
def Dev.behind (d : Dev) (o : Owner) : Bool :=
  match o with | some (r, q, _) => d.later.any fun x => x.own = some r && x.seq = q | none => false
/-- Put a step behind those that wait. -/
def Dev.putLater (d : Dev) (o : Owner) (asid : BitVec 16) (k : LaterK) : Dev :=
  { d with later := d.later ++ [⟨o.map fun e => e.1, (o.map fun e => e.2.1).getD 0, (o.map fun e => e.2.2).getD 0, asid, k⟩] }
/-- A step at home at an address: it is made where the address leads, waits for a page that is not in place or a die whose clocks are stopped (R391),
and is not made at all at an address that does not translate. -/
def Mach.atHome (m : Mach) (o : Owner) (asid : BitVec 16) (dva : Word) (k : LaterK) (f : Mach → Nat → Mach) : Mach :=
  if m.dev.behind o then m.modD fun d => d.putLater o asid k
  else match m.dev.xlate asid dva true with
    | .ok pa _ _ => if m.dev.stops pa 1 then m.modD fun d => d.putLater o asid k else f m pa
    | .absent => m.modD fun d => (d.waitPage asid dva).putLater o asid k
    | .fault => m

/-! ### Flags and reports (R38, R188, R190) -/

/-- A stalled wait bundle whose flags change in A-cycle c is evaluated again at c + 2 (R190). -/
def Strm.wake (x : Strm) (c : Nat) : Strm := match x.hold with | .waiting l => { x with hold := .waiting (l ++ [c + 2]) } | _ => x
/-- Give a thread's FLAGS a value; a change wakes its waiting streams. -/
def Thr.withFlags (t : Thr) (f : BitVec 32) : Thr :=
  if f = t.flags then t else { t with flags := f, prim := t.prim.wake t.time, sec := t.sec.wake t.time }

/-- A completion or report gives a thread's FLAGS a value between two A-cycles: it belongs to the cycle that is over, so that what a bundle of that
cycle cleared ends set (R188), and a waiting stream is evaluated two cycles after it. -/
def Thr.reportFlags (t : Thr) (f : BitVec 32) : Thr :=
  if f = t.flags then t else { t with flags := f, prim := t.prim.wake (t.time - 1), sec := t.sec.wake (t.time - 1) }

/-- Set a flag of a thread that a completion or report names: in the live thread, or in the saved flag image of a thread that is
not on the core (R38), once its page is in place. A thread that has ended receives nothing (R194). `o` is what the flag belongs to. -/
def Mach.setFlagOf (m : Mach) (o : Owner) (r : TRef) (f : Fin 32) : Mach :=
  match m.thrOf r with
  | some t =>
    match t.status with
    | .ending _ _ => m
    | _ => m.modRef r fun t => t.reportFlags (t.flags ||| BitVec.ofNat 32 (2 ^ f.val))
  | none =>
    match m.dev.saved.find? fun s => s.ref = r with
    | none => m
    | some s => m.atHome o s.asid (s.area + BitVec.ofNat 64 (0x34 + f.val / 8)) (.flag r f) fun m pa =>
        m.modD fun d => d.poke pa [d.byte pa ||| BitVec.ofNat 8 (2 ^ (f.val % 8))]
/-- Set a flag that follows nothing else. -/
def Mach.setFlag (m : Mach) (r : TRef) (f : Fin 32) : Mach := m.setFlagOf none r f
/-- The flag of a command's completion: it follows the command's other signals (R273). -/
def Mach.flagAfter (m : Mach) (o : Owner) (asid : BitVec 16) (r : TRef) (f : Fin 32) : Mach :=
  if m.dev.behind o then m.modD fun d => d.putLater o asid (.flag r f) else m.setFlagOf o r f

/-! ### Milestones (R302–R306, R355) -/

/-- Fire a binding: FLAG, and PFLAG when the completion is poisoned and it asks for that (R306); a poisoning by another thread's fatal
end queues a PEER record for the bound thread (R355). -/
def Mach.fireBind (m : Mach) (b : Bind) (poisoned peer : Bool) : Mach :=
  let m := m.setFlag b.own b.flag
  let m := match b.pflag with
    | some f => if poisoned then m.setFlag b.own f else m
    | none => m
  if peer then m.modD fun d => d.record m.core.die
    { Rec0.plain 1 0x49 with tid := b.own.tid, addr := b.dva, asid := b.asid.toNat }
  else m
/-- A lane entry's dependence bound at a milestone has completed (R312). -/
def LEntry.dep (e : LEntry) (pa : Nat) (poisoned : Bool) : LEntry :=
  { e with
    binds := e.binds.filter fun b => b.2 ≠ pa
    seen := e.seen ++ (e.binds.filter fun b => b.2 = pa).map fun b => (b.1, poisoned) }
/-- The schedulers see the completion of a milestone that lane entries depend on (R312). -/
def Dev.depsSee (d : Dev) (pa : Nat) (poisoned : Bool) : Dev :=
  { d with lanes := d.lanes.map fun l => (l.1, { l.2 with entries := l.2.entries.map fun e => e.dep pa poisoned }) }
/-- Fire the bindings of a milestone that hold a monitor-table entry; a polled one notes what it has still to see. -/
def Mach.fireBinds (m : Mach) (pa : Nat) (poisoned peer : Bool) : Mach :=
  let m := m.modD fun d => d.depsSee pa poisoned
  (m.dev.binds.filter fun b => b.pa = pa && !b.polled).foldl (fun m b =>
    m.fireBind b poisoned peer)
    (m.modD fun d => { d with binds := (d.binds.filter fun b => !(b.pa = pa && !b.polled)).map fun b =>
      if b.pa = pa then { b with peer := b.peer || peer } else b })

/-- Complete a milestone (R305): DONE, and POISON with CAUSE when `cause` is not 0. It stops being protected, and its bindings
fire. -/
def Mach.msComplete (m : Mach) (pa cause : Nat) (peer : Bool) : Mach :=
  let w1 := m.dev.num (pa + 8) 8
  let w1 := w1 - bitsOf w1 6 5 * 32 - bitsOf w1 15 8 * 256 + 32 + (if cause = 0 then 0 else 64 + cause * 256)
  let m := m.modD fun d => Dev.pokeNum { d with miles := d.miles.filter fun k => k.pa ≠ pa } (pa + 8) 8 w1
  m.fireBinds pa (cause ≠ 0) peer

/-- The milestone is armed and not done. -/
def Dev.msArmed (d : Dev) (pa : Nat) : Bool := d.miles.any fun k => k.pa = pa

/-- Poison a milestone by its physical address, unless it is not armed or already done (R305). -/
def Mach.msPoison (m : Mach) (pa cause : Nat) (peer : Bool) : Mach :=
  if m.dev.msArmed pa then m.msComplete pa cause peer else m

/-- Count down bytes and arrivals at home (R305). -/
def Mach.msCount (m : Mach) (pa bytes arrivals : Nat) : Mach :=
  if !m.dev.msArmed pa then m
  else
    let w0 := m.dev.num pa 8
    let b := bitsOf w0 39 0
    let a := bitsOf w0 63 40
    if b < bytes || a < arrivals then m.msComplete pa 2 false
    else
      let m := m.modD fun d => d.pokeNum pa 8 ((a - arrivals) * 2 ^ 40 + (b - bytes))
      if b = bytes && a = arrivals then m.msComplete pa 0 false else m

/-- The physical address of a milestone of a space; nothing happens at an address that does not translate. -/
def Dev.msPa (d : Dev) (asid : BitVec 16) (dva : Word) : Option Nat :=
  match d.xlate asid dva true with
  | .ok pa _ _ => some pa
  | _ => none

/-- Count down at a milestone given by its device virtual address. -/
def Mach.msCountV (m : Mach) (o : Owner) (asid : BitVec 16) (dva : Word) (bytes arrivals : Nat) : Mach :=
  m.atHome o asid dva (.count dva bytes arrivals) fun m pa => m.msCount pa bytes arrivals

/-- Poison a milestone given by its device virtual address. -/
def Mach.msPoisonV (m : Mach) (o : Owner) (asid : BitVec 16) (dva : Word) (cause : Nat) : Mach :=
  m.atHome o asid dva (.poison dva cause) fun m pa => m.msPoison pa cause false

/-! ### Taking an exception (R340–R342, R375–R377) -/

/-- The trap word (Table 19-2). -/
def trapWord (cause slot : Nat) (frm sec : Bool) (id code : Nat) : Word :=
  BitVec.ofNat 64 (cause + slot * 2 ^ 8 + (if frm then 2 ^ 11 else 0) + (if sec then 2 ^ 12 else 0) + id * 2 ^ 32 + code * 2 ^ 48)

/-- A map whose fields the spec leaves undefined (R377). -/
def freeMap (n : Nat) : MapD where
  st := match Config.freeChoice n % 4 with | 0 => .none | 1 => .affine | 2 => .indexed | _ => .opq
  clu := .a
  ssix := BitVec.ofNat 4 (Config.freeChoice (n + 1) % 8)
  rank := BitVec.ofNat 4 (Config.freeChoice (n + 2))
  nmov := BitVec.ofNat 3 (Config.freeChoice (n + 3) % 5)
  mov := Vector.ofFn fun i => ⟨BitVec.ofNat 4 (Config.freeChoice (n + 4 + 3 * i)), BitVec.ofNat 16 (Config.freeChoice (n + 5 + 3 * i)),
    BitVec.ofNat 12 (Config.freeChoice (n + 6 + 3 * i))⟩
  org := Vector.ofFn fun i => Config.freeLane (n + i)
  ext := Vector.ofFn fun i => Config.freeLane (n + 14 + i)

/-- A vector value that is undefined, with its T shadows (R377). -/
def freeVVal (T n : Nat) : VVal :=
  ⟨Vec.build fun l => Config.freeLane (n + 32 + l), freeMap n,
   (List.range T).map fun k => Vec.build fun l => Config.freeLane (n + 96 + 64 * k + l), false⟩

/-- The number of free values one vector takes. -/
def freeStep : Nat := 512

/-- A thread whose vector registers, lane predicates, tiles, shadows, maps and bridge registers are undefined (R377). -/
def Thr.undefine (t : Thr) (n : Nat) : Thr :=
  { t with
    va := Vector.ofFn fun i => freeVVal t.T (n + freeStep * i)
    vb := Vector.ofFn fun i => freeVVal t.T (n + freeStep * (32 + i))
    xab := freeVVal t.T (n + freeStep * 64)
    xba := freeVVal t.T (n + freeStep * 65)
    qa := Vector.ofFn fun i => if i.val = 0 then 0 else
      BitVec.ofNat 64 ((Config.freeLane (n + freeStep * 66 + i)).toNat + 2 ^ 32 * (Config.freeLane (n + freeStep * 67 + i)).toNat)
    qb := Vector.ofFn fun i => if i.val = 0 then 0 else
      BitVec.ofNat 64 ((Config.freeLane (n + freeStep * 68 + i)).toNat + 2 ^ 32 * (Config.freeLane (n + freeStep * 69 + i)).toNat)
    ot := Vector.ofFn fun i =>
      { rows := Vector.ofFn fun r => Vector.ofFn fun b => Config.freeByte (n + 16384 * i + 128 * r + b)
        kc := BitVec.ofNat 2 (Config.freeChoice (n + freeStep * (70 + i)) % 3)
        scl := BitVec.ofNat 2 (Config.freeChoice (n + freeStep * (70 + i) + 1))
        scales := Vector.ofFn fun r => Vector.ofFn fun b => Config.freeByte (n + 131072 + 1024 * i + 8 * r + b)
        map := freeMap (n + freeStep * (80 + i))
        sh := (List.range t.T).map fun k => Vector.ofFn fun r => Vector.ofFn fun b =>
          Config.freeByte (n + 262144 + 131072 * k + 16384 * i + 128 * r + b) }
    ct := Vector.ofFn fun i =>
      { rows := Vector.ofFn fun r => Vector.ofFn fun c => Config.freeLane (n + 65536 + 16384 * i + 96 * r + c)
        status := BitVec.ofNat 96 (Config.freeChoice (n + freeStep * (90 + i)))
        map := freeMap (n + freeStep * (100 + i))
        sh := (List.range t.T).map fun k => Vector.ofFn fun r => Vector.ofFn fun c =>
          Config.freeLane (n + 262144 + 131072 * k + 16384 * i + 96 * r + c) }
    ssA := Vector.ofFn fun i => Vector.ofFn fun r => Vector.ofFn fun k => Config.freeLane (n + 1048576 + 1024 * i + 4 * r + k)
    ssB := Vector.ofFn fun i => Vector.ofFn fun r => Vector.ofFn fun k => Config.freeLane (n + 1179648 + 1024 * i + 4 * r + k)
    tsT := Vector.ofFn fun i => Vector.ofFn fun r => Vector.ofFn fun k => Config.freeLane (n + 1310720 + 1024 * i + 4 * r + k)
    tsC := Vector.ofFn fun i => Vector.ofFn fun r => Vector.ofFn fun k => Config.freeLane (n + 1441792 + 1024 * i + 4 * r + k) }

/-- The number of free values an unwinding takes. -/
def undefineStep : Nat := 2097152

/-- Start the end of a thread (R194, R342, R354): neither stream issues again, open regions are discarded without unwinding. Translation faults that
are still to be reported will be recorded alone (R366). -/
def Thr.startEnd (t : Thr) (exit : BitVec 8) (fatal : Option Fatal) : Thr :=
  { t with status := .ending exit fatal, regions := []
           xfaults := t.xfaults ++ (t.unw.filter fun u => u.cause = 0x41).map fun u => ⟨u.addr, none⟩
           unw := [], preq := false, halted := none
           prim := { t.prim with hold := .none, tau := none }, sec := { t.sec with hold := .none, tau := none } }

/-- The array registers with the DEFER chain closed (R259, R376). -/
def ArrRegs.close (r : ArrRegs) : ArrRegs :=
  { r with chainN := 0, chainFmt := 0, cells := ArrRegs.zero.cells, spec := ArrRegs.zero.spec }

/-- Enter the handler of region `r`, with `rest` the regions that stay open (R376 steps 3, 5–7, R340): the DEFER chain is
discarded, the loop stack of the stream that opened the region is cut to its recorded depth, its DUAL remainder is 0, the other
stream of a paired thread stops, s61 and s62 receive the cause word and the bundle address, and the handler issues 3 A-cycles
after the boundary. Spools bound after `cropen` are unbound (R377). -/
def Thr.enter (t : Thr) (r : Region) (rest : List Region) (word addr : Word) (boundary : Nat) : Thr :=
  let h := t.strm r.sec
  let h' := { h with pc := r.handler, loops := h.loops.take r.depth, drem := 0, gap := boundary + 3, tau := none, hold := .none }
  let t := t.setStrm r.sec h'
  let t := if t.paired then t.setStrm (!r.sec) { (t.strm (!r.sec)).stop with drem := 0 } else t
  { t with
    regions := rest
    restart := none
    s := (t.s.set 61 word).set 62 addr
    arr := if t.arr.chainN = 0 then t.arr else t.arr.close
    spools := t.spools.map fun sp => if sp.bound && r.pos ≤ sp.pos then Spool.zero else sp }

/-- Taking a trap (R340, R342): the handler of the innermost open region is entered with cause TRAP; with none open the thread
ends with exit code 0xFF, and with a debugger attached it first halts at the bundle. `boundary` is the thread time of the
faulting cycle. What the thread had triggered completes before the handler issues (R376 step 2). -/
def Mach.takeTrap (m : Mach) (word addr : Word) (boundary : Nat) (attached : Bool) : Mach :=
  let t := m.t
  if attached then m.setT { t with halted := some (.trap word addr) }
  else match t.regions with
    | r :: rest => m.setT { t.enter r rest word addr boundary with settle := true }
    | [] => m.setT (t.startEnd 0xFF (some ⟨0, fld word 7 0, word, addr, t.prim.pc, t.sec.pc⟩))

/-- The return from the handler of a region is the program's own branch; what the hardware gives it is the link of R183: the
bundle index and loop depth a link value names. -/
def linkOf (depth : Nat) (pc : Word) : Word := BitVec.ofNat 64 (depth * 2 ^ 56 + (pc.toNat + 1) % 2 ^ 56)

end Sys2Proof.Machine
end

