-- ==== Sys2Proof/Machine/Errors.lean ====
section
/-! DEFINITION. Detected errors (R367–R374) and the injection of one (R382, R383): the registers of the core, what a read that the
armed injection waits for does, and the counters and records an error leaves. -/

namespace Sys2Proof.Machine

/-! ### Counting and logging -/

/-- A corrected error of a row of Table 21-2 (R368): its counter, nothing else. -/
def Dev.corrected (d : Dev) (die row : Nat) : Dev := d.count die row
/-- A record of CLASS 2 or 3 (R373). What the second-attempt field holds is not stated: a free value. -/
def Dev.errorRec (d : Dev) (die cls row code : Nat) (addr : Word) : Dev :=
  Dev.record { d with free := d.free + 1 } die
    { Rec0.plain cls code with level := row, addr := addr, second := Config.freeChoice d.free }
/-- An error that its retry cleared (R373). -/
def Dev.transient (d : Dev) (die row : Nat) (addr : Word) : Dev := (d.count die 6).errorRec die 2 row 0x80 addr
/-- An error that returned (R373). -/
def Dev.lasting (d : Dev) (die row : Nat) (addr : Word) : Dev := (d.count die 7).errorRec die 3 row 0x80 addr

/-! ### Error injection (Tables 21-6, 21-7) -/

/-- The row of Table 21-2 of an injection LEVEL. -/
def injRow (level : Nat) : Nat := match level with | 2 => 1 | 3 => 2 | 4 => 2 | _ => 0
/-- An armed injection's LEVEL, KIND and address; a reserved LEVEL or KIND arms nothing. -/
def Core.armed (c : Core) : Option (Nat × Nat × Nat) :=
  if bit c.injCtl 31 && fld c.injCtl 11 8 < 5 && fld c.injCtl 1 0 < 3 then
    some (fld c.injCtl 11 8, fld c.injCtl 1 0, fld c.injAddr 47 0)
  else none
/-- Firing clears ARM and sets FIRED (R383). -/
def Core.fired (c : Core) : Core := { c with injCtl := (c.injCtl &&& 0x7FFFFFFF) ||| 0x40000000 }

/-- The scratchpad granule that an armed injection of LEVEL 0 names, as an offset in units of 16 bytes of the acting thread's
scratchpad, with its KIND. -/
def Mach.injGranule (m : Mach) : Option (Nat × Nat) :=
  match m.core.armed with
  | some (0, kind, a) =>
    let off := bitsOf a 20 0
    if bitsOf a 40 32 = m.core.num && m.spadBase ≤ off then some ((off - m.spadBase) / 16, kind) else none
  | _ => none
/-- The injection that a read of scratchpad granules fires. -/
def Mach.spadHit (m : Mach) (gs : List Nat) : Option (Nat × Nat) :=
  match m.injGranule with
  | some e => if gs.contains e.1 then some e else none
  | none => none
/-- What firing at a scratchpad granule does (R383). -/
def Mach.fireSpad (m : Mach) (e : Nat × Nat) : Mach :=
  let addr := BitVec.ofNat 64 (m.core.num * 2 ^ 32 + m.spadBase + 16 * e.1)
  let m := m.modC Core.fired
  match e.2 with
  | 0 => m.modD fun d => d.corrected m.core.die 0
  | 1 => m.modD fun d => d.transient m.core.die 0 addr
  | _ => m.modT fun t => { t with spadPoison := insertNat e.1 t.spadPoison }
/-- A read of scratchpad granules: the injection it fires. -/
def Mach.probeSpad (m : Mach) (gs : List Nat) : Mach :=
  match m.spadHit gs with | some e => m.fireSpad e | none => m

/-- A read of cluster SRAM: the injection of LEVEL 1 it fires. -/
def Mach.probeCs (m : Mach) (cl off n : Nat) : Mach :=
  match m.core.armed with
  | some (1, kind, a) =>
    let u := bitsOf a 22 0 / 16
    if bitsOf a 37 32 = cl && (unitsOf off n 16).contains u then
      let m := m.modC Core.fired
      match kind with
      | 0 => m.modD fun d => d.corrected (cl / 9) 0
      | 1 => m.modD fun d => d.transient (cl / 9) 0 (BitVec.ofNat 64 a)
      | _ => m.modD fun d => { d with csPoison := if d.csPoison.contains (cl, u) then d.csPoison else d.csPoison ++ [(cl, u)] }
    else m
  | _ => m

/-- The level that serves a read at home: its tier, or the last-level cache when the device's state has it there, which the spec
leaves to the device. -/
def Dev.servedBy (d : Dev) (pa : Nat) : Nat :=
  if Config.freeChoice d.free % 2 = 0 then 2 else if pa < 0x200000000000 then 3 else 4
/-- The 64-byte unit of an address is one that a range of bytes touches. -/
def inUnits (pa n a : Nat) : Bool := 0 < n && pa / 64 ≤ a / 64 && a / 64 ≤ (pa + n - 1) / 64
/-- A read at home of `n` bytes: the injection of LEVEL 2 to 4 it fires. -/
def Mach.probeHome (m : Mach) (pa n : Nat) : Mach :=
  match m.core.armed with
  | some (level, kind, a) =>
    if 2 ≤ level && inUnits pa n a then
      let served := m.dev.servedBy a
      let m := m.modD fun d => { d with free := d.free + 1 }
      if served ≠ level then m
      else
        let m := m.modC Core.fired
        let die := m.dev.homeDie a
        match kind with
        | 0 => m.modD fun d => d.corrected die (injRow level)
        | 1 => m.modD fun d => d.transient die (injRow level) (BitVec.ofNat 64 (a / 64 * 64))
        | _ => m.modD fun d => { d with poison := insertNat (a / 64) d.poison }
    else m
  | none => m

end Sys2Proof.Machine
end

