-- ==== Sys2Proof/Machine/Float.lean ====
section
/-! DEFINITION. Number formats, exact arithmetic and rounding (chapter 05): every value is computed exactly and rounded once. -/

namespace Sys2Proof.Machine

/-! ### Exact values -/

/-- An exact value: NaN, an infinity, or `(-1)^neg · mant · 2^exp` (a zero keeps its sign). -/
inductive Fp where
  | nan
  | inf (neg : Bool)
  | fin (neg : Bool) (mant : Nat) (exp : Int)
  deriving DecidableEq, Repr

/-- Positive zero. -/
def Fp.zero : Fp := .fin false 0 0
/-- A NaN. -/
def Fp.isNan : Fp → Bool | .nan => true | _ => false
/-- A zero of either sign. -/
def Fp.isZero : Fp → Bool | .fin _ m _ => m = 0 | _ => false
/-- The sign bit of a value; false for NaN. -/
def Fp.neg : Fp → Bool | .nan => false | .inf n => n | .fin n _ _ => n
/-- The value with its sign inverted. -/
def Fp.negate : Fp → Fp | .nan => .nan | .inf n => .inf (!n) | .fin n m e => .fin (!n) m e
/-- The magnitude. -/
def Fp.abs : Fp → Fp | .nan => .nan | .inf _ => .inf false | .fin _ m e => .fin false m e
/-- An integer as a value. -/
def Fp.ofInt (x : Int) : Fp := .fin (x < 0) x.natAbs 0
/-- `x · 2^e`. -/
def Fp.scale (x : Fp) (k : Int) : Fp := match x with | .fin n m e => .fin n m (e + k) | y => y

/-- The signed mantissa at exponent `k`, which is at most the value's own exponent. -/
def alignTo (neg : Bool) (mant : Nat) (exp k : Int) : Int :=
  let x : Int := (mant * 2 ^ (exp - k).toNat : Nat)
  if neg then -x else x

/-- The exact sum of IEEE 754: an exact zero is +0 unless both operands are −0; opposite infinities give NaN. -/
def Fp.add : Fp → Fp → Fp
  | .nan, _ => .nan
  | _, .nan => .nan
  | .inf a, .inf b => if a = b then .inf a else .nan
  | .inf a, _ => .inf a
  | _, .inf b => .inf b
  | .fin n1 m1 e1, .fin n2 m2 e2 =>
    if m1 = 0 && m2 = 0 then .fin (n1 && n2) 0 0
    else
      let k := min e1 e2
      let s := alignTo n1 m1 e1 k + alignTo n2 m2 e2 k
      if s = 0 then .fin false 0 0 else .fin (s < 0) s.natAbs k
/-- The exact difference. -/
def Fp.sub (a b : Fp) : Fp := a.add b.negate
/-- The exact product: an infinity times a zero is NaN. -/
def Fp.mul : Fp → Fp → Fp
  | .nan, _ => .nan
  | _, .nan => .nan
  | .inf a, .inf b => .inf (a != b)
  | .inf a, .fin n m _ => if m = 0 then .nan else .inf (a != n)
  | .fin n m _, .inf b => if m = 0 then .nan else .inf (n != b)
  | .fin n1 m1 e1, .fin n2 m2 e2 => .fin (n1 != n2) (m1 * m2) (e1 + e2)

/-- The order of two finite values and infinities; false when either is NaN. −0 equals +0. -/
def Fp.lt : Fp → Fp → Bool
  | .nan, _ => false
  | _, .nan => false
  | .inf a, .inf b => a && !b
  | .inf a, _ => a
  | _, .inf b => !b
  | .fin n1 m1 e1, .fin n2 m2 e2 => let k := min e1 e2; alignTo n1 m1 e1 k < alignTo n2 m2 e2 k
/-- Equality of values; −0 equals +0, NaN equals nothing. -/
def Fp.eq (a b : Fp) : Bool := !a.isNan && !b.isNan && !a.lt b && !b.lt a

/-! ### Formats (Table 5-1) -/

/-- How a floating format treats the top exponent: IEEE 754 infinities and NaNs, the single NaN of E4M3, or neither. -/
inductive Top where
  | ieee
  | e4m3
  | finite
  deriving DecidableEq, Repr

/-- A floating format: exponent bits, mantissa bits, bias, top exponent. -/
structure FFmt where
  eb : Nat
  mb : Nat
  bias : Nat
  top : Top
  deriving DecidableEq, Repr

/-- FP32. -/
def f32 : FFmt := ⟨8, 23, 127, .ieee⟩
/-- BF16. -/
def bf16 : FFmt := ⟨8, 7, 127, .ieee⟩
/-- FP16. -/
def f16 : FFmt := ⟨5, 10, 15, .ieee⟩
/-- E4M3. -/
def e4m3 : FFmt := ⟨4, 3, 7, .e4m3⟩
/-- E5M2. -/
def e5m2 : FFmt := ⟨5, 2, 15, .ieee⟩
/-- E2M3. -/
def e2m3 : FFmt := ⟨2, 3, 1, .finite⟩
/-- E3M2. -/
def e3m2 : FFmt := ⟨3, 2, 3, .finite⟩
/-- E2M1. -/
def e2m1 : FFmt := ⟨2, 1, 1, .finite⟩

/-- The least exponent of a normal number. -/
def FFmt.emin (f : FFmt) : Int := 1 - (f.bias : Int)
/-- The value of an encoding (R90). -/
def FFmt.dec (f : FFmt) (x : Nat) : Fp :=
  let m := x % 2 ^ f.mb
  let e := (x / 2 ^ f.mb) % 2 ^ f.eb
  let s := (x / 2 ^ (f.mb + f.eb)) % 2 = 1
  if f.top = .ieee && e = 2 ^ f.eb - 1 then (if m = 0 then .inf s else .nan)
  else if f.top = .e4m3 && e = 2 ^ f.eb - 1 && m = 2 ^ f.mb - 1 then .nan
  else if e = 0 then .fin s m (f.emin - f.mb)
  else .fin s (2 ^ f.mb + m) ((e : Int) - f.bias - f.mb)
/-- The magnitude code of the largest finite value. -/
def FFmt.maxCode (f : FFmt) : Nat :=
  match f.top with
  | .ieee => (2 ^ f.eb - 1) * 2 ^ f.mb - 1
  | .e4m3 => 2 ^ (f.eb + f.mb) - 2
  | .finite => 2 ^ (f.eb + f.mb) - 1
/-- The sign bit of a format, as a number. -/
def FFmt.sgn (f : FFmt) (neg : Bool) : Nat := if neg then 2 ^ (f.eb + f.mb) else 0
/-- The canonical NaN (Table 5-2); formats without NaN have none. -/
def FFmt.qnan (f : FFmt) : Nat :=
  match f.top with
  | .ieee => (2 ^ f.eb - 1) * 2 ^ f.mb + 2 ^ (f.mb - 1)
  | .e4m3 => 0x7F
  | .finite => 0
/-- The infinity code of an IEEE format. -/
def FFmt.infCode (f : FFmt) (neg : Bool) : Nat := f.sgn neg + (2 ^ f.eb - 1) * 2 ^ f.mb

/-! ### Rounding (R104, R105) -/

/-- A rounding mode of a conversion; stochastic rounding carries its 24-bit noise. EF rounds each element by RNE. -/
inductive RMode where
  | rne
  | rz
  | sr (r : Nat)
  deriving DecidableEq, Repr

/-- `mant · 2^exp` (with `sticky` for a non-zero rest below it) divided by `2^e` and rounded to an integer by the mode. -/
def roundAt (mode : RMode) (mant : Nat) (exp e : Int) (sticky : Bool) : Nat :=
  if e ≤ exp then mant * 2 ^ (exp - e).toNat
  else
    let k := (e - exp).toNat
    let q := mant >>> k
    let r := mant % 2 ^ k
    match mode with
    | .rz => q
    | .rne =>
      let h := 2 ^ (k - 1)
      if h < r || (r = h && (sticky || q % 2 = 1)) then q + 1 else q
    | .sr u => (mant * 2 ^ 24 + u * 2 ^ k) >>> (24 + k)

/-- The exponent of the unit of a format's spacing at a magnitude, with subnormal spacing below the smallest normal. -/
def FFmt.unit (f : FFmt) (mant : Nat) (exp : Int) : Int :=
  max ((Nat.log2 mant : Int) + exp - f.mb) (f.emin - f.mb)

/-- The magnitude code of `q · 2^e` where `e` is the unit at that magnitude; a code above `maxCode` is an overflow. -/
def FFmt.code (f : FFmt) (q : Nat) (e : Int) : Nat :=
  if q < 2 ^ f.mb then q
  else
    let (q, e) := if q < 2 ^ (f.mb + 1) then (q, e) else (q / 2, e + 1)
    ((e + f.mb + f.bias).toNat) * 2 ^ f.mb + (q - 2 ^ f.mb)

/-- Round a non-zero magnitude to a format's code with an unbounded exponent range (R104, R105); `none` stands for an overflow. -/
def FFmt.roundMag (f : FFmt) (mode : RMode) (mant : Nat) (exp : Int) (sticky : Bool) : Option Nat :=
  let e := f.unit mant exp
  let c := f.code (roundAt mode mant exp e sticky) e
  if c ≤ f.maxCode then some c else match mode with | .rz => some f.maxCode | _ => none

/-! ### FP32 and 16-bit arithmetic (R91, R216) -/

/-- A value rounded to an IEEE format by RNE: overflow gives an infinity, NaN the canonical NaN. -/
def FFmt.rne (f : FFmt) (x : Fp) : Nat :=
  match x with
  | .nan => f.qnan
  | .inf n => f.infCode n
  | .fin n m e => if m = 0 then f.sgn n else match f.roundMag .rne m e false with
    | some c => f.sgn n + c
    | none => f.infCode n

/-- The FP32 value of a lane. -/
def fp (x : Lane) : Fp := f32.dec x.toNat
/-- An exact value rounded to FP32. -/
def rnd (x : Fp) : Lane := BitVec.ofNat 32 (f32.rne x)
/-- FP32 addition. -/
def fadd32 (a b : Lane) : Lane := rnd ((fp a).add (fp b))
/-- FP32 multiplication. -/
def fmul32 (a b : Lane) : Lane := rnd ((fp a).mul (fp b))

/-- minimumNumber and maximumNumber of IEEE 754-2019 (R216): whether the first operand is the one selected. −0 is less than +0; a
NaN loses against a number; equal operands select the first. -/
def pickFirst (isMin : Bool) (a b : Fp) : Bool :=
  match a.isNan, b.isNan with
  | true, true => true
  | true, false => false
  | false, true => true
  | false, false =>
    let lt := fun (x y : Fp) => x.lt y || (x.isZero && y.isZero && x.neg && !y.neg)
    if isMin then !lt b a else !lt a b

/-- The order of `vcas.f32` (R221): NaN lowest and all NaNs equal, −0 below +0. -/
def totalLt (a b : Fp) : Bool :=
  match a.isNan, b.isNan with
  | true, true => false
  | true, false => true
  | false, true => false
  | false, false => a.lt b || (a.isZero && b.isZero && a.neg && !b.neg)

/-! ### Conversions (R104–R108, Table 5-8) -/

/-- The target of a conversion. -/
inductive CvtT where
  | flt (f : FFmt)
  | int (w : Nat) (signed : Bool)
  deriving DecidableEq, Repr

/-- A conversion's result: code, whether it saturated or met a NaN (R108), whether Table 5-8 replaced the rounded value (R106), and
the value the code stands for. -/
structure CvtR where
  code : Nat
  sat : Bool
  nan : Bool
  replaced : Bool
  val : Fp
  deriving DecidableEq, Repr

/-- Conversion to a floating format (Table 5-8); `sat4` is FMT.SATE4. -/
def cvtFlt (f : FFmt) (sat4 : Bool) (mode : RMode) (x : Fp) : CvtR :=
  let ovf := fun (n : Bool) =>
    match f.top with
    | .ieee => (⟨f.infCode n, false, false, true, .inf n⟩ : CvtR)
    | .e4m3 =>
      if sat4 then ⟨f.sgn n + f.maxCode, true, false, true, f.dec (f.sgn n + f.maxCode)⟩
      else ⟨0x7F, false, false, true, .nan⟩
    | .finite => ⟨f.sgn n + f.maxCode, true, false, true, f.dec (f.sgn n + f.maxCode)⟩
  match x with
  | .nan => ⟨f.qnan, false, f.top = .finite, true, .nan⟩
  | .inf n => ovf n
  | .fin n m e =>
    if m = 0 then ⟨f.sgn n, false, false, false, .fin n 0 0⟩
    else match f.roundMag mode m e false with
      | some c => ⟨f.sgn n + c, false, false, false, f.dec (f.sgn n + c)⟩
      | none => ovf n

/-- Conversion to an integer format of `w` bits (Table 5-8). -/
def cvtInt (w : Nat) (signed : Bool) (mode : RMode) (x : Fp) : CvtR :=
  let hi : Int := if signed then 2 ^ (w - 1) - 1 else 2 ^ w - 1
  let lo : Int := if signed then -(2 ^ (w - 1)) else 0
  let out := fun (v : Int) (sat : Bool) => (⟨(v % 2 ^ w).toNat, sat, false, sat, Fp.ofInt v⟩ : CvtR)
  match x with
  | .nan => ⟨0, false, true, true, .nan⟩
  | .inf n => out (if n then lo else hi) true
  | .fin n m e =>
    let q : Int := roundAt mode m e 0 false
    let v := if n then -q else q
    if v < lo then out lo true else if hi < v then out hi true else out v false

/-- One conversion. -/
def cvt (t : CvtT) (sat4 : Bool) (mode : RMode) (x : Fp) : CvtR :=
  match t with
  | .flt f => cvtFlt f sat4 mode x
  | .int w s => cvtInt w s mode x

/-- A run of error-feedback rounding (R106) over a block, `f` one conversion by RNE; no error to add leaves an element, -0 too, as it is. An element
that is `none` is skipped and the error
passes over it. -/
def efRun (f : Fp → CvtR) : Fp → List (Option Fp) → List (Option CvtR)
  | _, [] => []
  | e, none :: xs => none :: efRun f e xs
  | e, some x :: xs =>
    let v := if e.isZero then x else x.add e
    let y := f v
    let e' := if y.replaced || v.isNan then Fp.zero else fp (rnd (v.sub y.val))
    some y :: efRun f e' xs

/-! ### The Kalotte noise function (R109, R110) -/

/-- The round constants M[0] to M[3]. -/
def knfM : List Word := [0xA5C396E17B2D4F0B, 0xE19D3B5706C8A2F3, 0x8F4BD237C51E6A99, 0xB6D10A7F93E52C4D]

/-- The rounds of `knf`. -/
def knfRounds (key : Word) : Nat → List Word → Word → Word
  | _, [], x => x
  | i, m :: ms, x =>
    let x := x ^^^ (x >>> 31)
    let x := x * m
    let x := x ^^^ (x >>> 29)
    knfRounds key (i + 1) ms (x + key.rotateLeft (13 * (i + 1)))

/-- `knf(key, ctr)` (R109). -/
def knf (key ctr : Word) : Word :=
  let x := knfRounds key 0 knfM (ctr ^^^ key)
  x ^^^ (x >>> 32)

/-- noise32 of an index under SEED, a stream and NRC (R110). -/
def noise32 (seed : Word) (stream : Nat) (nrc : BitVec 16) (lin : Word) : Nat :=
  let key := seed ^^^ BitVec.ofNat 64 (stream % 2 ^ 16 * 2 ^ 40)
  let ctr := BitVec.ofNat 64 (nrc.toNat * 2 ^ 48 + lin.toNat % 2 ^ 48)
  (knf key ctr).toNat % 2 ^ 32

/-! ### Quotients, for rounding once (R96, R97, R100, R125) -/

/-- `a / b` for positive numbers, as a mantissa of at least 64 bits, its exponent and a sticky rest. -/
def divMag (a : Nat) (ea : Int) (b : Nat) (eb : Int) : Nat × Int × Bool :=
  let k := 64 + Nat.log2 b
  (a * 2 ^ k / b, ea - eb - k, a * 2 ^ k % b ≠ 0)

/-- IEEE 754 division rounded once to FP32. -/
def fdiv32 (a b : Fp) : Lane :=
  match a, b with
  | .nan, _ => 0x7FC00000
  | _, .nan => 0x7FC00000
  | .inf _, .inf _ => 0x7FC00000
  | .inf x, y => BitVec.ofNat 32 (f32.infCode (x != y.neg))
  | x, .inf y => BitVec.ofNat 32 (f32.sgn (x.neg != y))
  | .fin n1 m1 e1, .fin n2 m2 e2 =>
    if m2 = 0 then (if m1 = 0 then 0x7FC00000 else BitVec.ofNat 32 (f32.infCode (n1 != n2)))
    else if m1 = 0 then BitVec.ofNat 32 (f32.sgn (n1 != n2))
    else
      let (q, e, st) := divMag m1 e1 m2 e2
      match f32.roundMag .rne q e st with
      | some c => BitVec.ofNat 32 (f32.sgn (n1 != n2) + c)
      | none => BitVec.ofNat 32 (f32.infCode (n1 != n2))

/-- floor(log2 |x|) of a non-zero finite magnitude. -/
def floorLog2 (mant : Nat) (exp : Int) : Int := (Nat.log2 mant : Int) + exp

/-! ### q4k levels (R94) -/

/-- The level L(c) of a q4k code (Table 5-5). -/
def q4kLevel (c : Nat) : Int :=
  let pos : List Int := [86, 261, 442, 636, 853, 1110, 1448, 2047]
  if 8 ≤ c % 16 then pos.getD (c % 16 - 8) 0 else -(pos.getD (7 - c % 16) 0)

/-- The E8M0 scale exponent of a byte; 0xFF is NaN (R99). -/
def e8m0 (b : Nat) : Option Int := if b % 256 = 255 then none else some ((b % 256 : Nat) - 127)

end Sys2Proof.Machine
end

