-- ==== Sys2Proof/Machine/Maps.lean ====
section
/-! DEFINITION. Coordinate maps (chapter 06): images, digits, coordinates, the linear index, the common map, side-stores. -/

namespace Sys2Proof.Machine

/-! ### Images (Tables 6-1 to 6-3) -/

/-- The STATE field of a map. -/
def MapSt.num : MapSt → Nat | .none => 0 | .affine => 1 | .indexed => 2 | .opq => 3
/-- The map state of a STATE field. -/
def mapStOf (n : Nat) : MapSt := match n % 4 with | 0 => .none | 1 => .affine | 2 => .indexed | _ => .opq
/-- MAPHDR (Table 6-2). -/
def MapD.hdr (m : MapD) : Word :=
  BitVec.ofNat 64 (m.st.num + m.rank.toNat * 2 ^ 4 + m.nmov.toNat * 2 ^ 8 + m.ssix.toNat * 2 ^ 12)
/-- A MOV entry as a lane (Table 6-3). -/
def MovE.lane (e : MovE) : Lane := BitVec.ofNat 32 (e.cnt.toNat + e.str.toNat * 2 ^ 12 + e.dim.toNat * 2 ^ 28)
/-- The MOV entry of a lane. -/
def movOf (x : Lane) : MovE := ⟨BitVec.ofNat 4 (fld x 31 28), BitVec.ofNat 16 (fld x 27 12), BitVec.ofNat 12 (fld x 11 0)⟩
/-- The map whose 136-byte image is held in 34 lanes; reserved bits are ignored. -/
def mapOfLanes (f : Nat → Lane) : MapD where
  st := mapStOf (fld (f 0) 1 0)
  clu := .a
  ssix := BitVec.ofNat 4 (fld (f 0) 15 12)
  rank := BitVec.ofNat 4 (fld (f 0) 7 4)
  nmov := BitVec.ofNat 3 (fld (f 0) 10 8)
  mov := Vector.ofFn fun i => movOf (f (2 + i.val))
  org := Vector.ofFn fun i => f (6 + i.val)
  ext := Vector.ofFn fun i => f (20 + i.val)
/-- The image of a map as 34 lanes. -/
def MapD.imageLane (m : MapD) (i : Nat) : Lane :=
  if i = 0 then m.hdr.setWidth 32
  else if i = 1 then 0
  else if i < 6 then (nth m.mov (i - 2)).lane
  else if i < 20 then nth m.org (i - 6)
  else if i < 34 then nth m.ext (i - 20)
  else 0
/-- The image as 136 bytes. -/
def MapD.bytes (m : MapD) : List Byte := (List.range 34).flatMap fun i => leBytes 4 (m.imageLane i).toNat
/-- The map of a 136-byte image. -/
def mapOfBytes (bs : List Byte) : MapD := mapOfLanes fun i => BitVec.ofNat 32 (leNat ((bs.drop (4 * i)).take 4))

/-- An OPAQUE map keeps nothing else. -/
def MapD.opaque_ : MapD := { MapD.none with st := .opq }
/-- The map a register takes from an image: NONE and OPAQUE have no other field (Table 6-2 gives RANK 0 where STATE = 0). -/
def MapD.held (m : MapD) : MapD :=
  match m.st with
  | .none => MapD.none
  | .opq => MapD.opaque_
  | _ => m

/-- Every entry in use counts at least 1 and the counts multiply to `n` when there is one (R112, `cmset`). -/
def MapD.countsOk (m : MapD) (n : Nat) : Bool :=
  let k := m.nmov.toNat
  let cs := (m.mov.toList.take k).map fun e => e.cnt.toNat
  k ≤ 4 && cs.all (1 ≤ ·) && (k = 0 || cs.foldl (· * ·) 1 = n)
/-- The checks of `cmset` on an image for `n` positions (Table 10-6). -/
def MapD.setOk (m : MapD) (n : Nat) : Bool :=
  match m.st with
  | .none => true
  | .affine =>
    1 ≤ m.rank.toNat && m.rank.toNat ≤ 14 && m.countsOk n &&
    (m.mov.toList.take m.nmov.toNat).all fun e => e.dim.toNat < m.rank.toNat
  | _ => false
/-- The checks of a descriptor-form access (R233). -/
def MapD.descOk (m : MapD) : Bool :=
  match m.st with
  | .none => m.countsOk 64
  | .affine => m.setOk 64
  | _ => false

/-! ### Coordinates (R112–R114) -/

/-- Digit `k` of a position under the counts of a list of entries. -/
def digitOf : List MovE → Nat → Nat → Nat
  | [], _, _ => 0
  | e :: es, q, k =>
    let c := max e.cnt.toNat 1
    match k with
    | 0 => q % c
    | k + 1 => digitOf es (q / c) k
/-- Digit `k` of position `e` (R112). -/
def MapD.digit (m : MapD) (e k : Nat) : Nat := digitOf (m.mov.toList.take m.nmov.toNat) e k

/-- The share of entry `k` in the coordinate of its dimension at position `e`. -/
def MapD.share (m : MapD) (e k : Nat) : Lane :=
  let v := nth m.mov k
  (v.str.signExtend 32) * BitVec.ofNat 32 (m.digit e k)

/-- A record that marks a vacant position. -/
def vacantRec : Rec := Vector.replicate 4 0x80000000

/-- The coordinate of dimension `d` when entry `k` contributes `off k`. -/
def MapD.coordBy (m : MapD) (off : Nat → Lane) (d : Nat) : Lane :=
  if d < m.rank.toNat && d < 14 then
    (List.range (min m.nmov.toNat 4)).foldl (fun acc k =>
      if (nth m.mov k).dim.toNat = d then acc + off k else acc) (nth m.org d)
  else 0

/-- The coordinate of dimension `d` of lane `e` of a vector; `st` is the side-store the map names. -/
def MapD.coord (m : MapD) (st : SStore) (e d : Nat) : Lane :=
  match m.st with
  | .affine => m.coordBy (m.share e) d
  | .indexed => m.coordBy (fun k => nth (nth st e) k) d
  | _ => 0

/-- A lane is vacant when its record says so (R113). -/
def MapD.vacant (m : MapD) (st : SStore) (e : Nat) : Bool := m.st = .indexed && nth st e = vacantRec

/-- The linear index of coordinates (R114). -/
def MapD.linOf (m : MapD) (c : Nat → Lane) : Word :=
  (List.range (min m.rank.toNat 14)).foldl (fun acc d => acc * (nth m.ext d).setWidth 64 + (c d).signExtend 64) 0

/-- The linear index of lane `e` of a vector (R114). -/
def MapD.lin (m : MapD) (st : SStore) (e : Nat) : Word :=
  match m.st with
  | .none => BitVec.ofNat 64 e
  | .opq => BitVec.ofNat 64 e
  | _ => if m.vacant st e then BitVec.ofNat 64 e else m.linOf (m.coord st e)

/-- The linear index of an element of a tile of `cols` columns (R112–R114). -/
def MapD.linTile (m : MapD) (st : TStore) (cols e : Nat) : Word :=
  match m.st with
  | .affine => m.linOf (m.coordBy (m.share e))
  | .indexed =>
    let r := nth st (e / cols)
    if r = vacantRec then BitVec.ofNat 64 e
    else m.linOf (m.coordBy fun k =>
      if k + 1 = m.nmov.toNat then ((nth m.mov k).str.signExtend 32) * BitVec.ofNat 32 (e % cols) else nth r k)
  | _ => BitVec.ofNat 64 e

/-! ### Equality and the common map (R118, R119) -/

/-- Two maps are equal (R118). -/
def MapD.same (a b : MapD) : Bool :=
  a.st = b.st && a.rank = b.rank && a.nmov = b.nmov && a.mov = b.mov &&
  (List.range (min a.rank.toNat 14)).all (fun d => nth a.org d = nth b.org d && nth a.ext d = nth b.ext d) &&
  (a.st ≠ .indexed || (a.ssix = b.ssix && a.clu = b.clu))

/-- The common map of value operands, and whether MAPLOST is set (R118). -/
def commonMap (ms : List MapD) : MapD × Bool :=
  match ms.filter fun m => m.st ≠ .none with
  | [] => (MapD.none, false)
  | m :: r =>
    if (m :: r).any fun x => x.st = .opq then (MapD.opaque_, false)
    else if r.all m.same then (m, false)
    else (MapD.opaque_, true)

/-- The map of a destination after a write of some of its lanes (R119), and whether MAPLOST is set. -/
def partialMap (all : Bool) (cur new : MapD) : MapD × Bool :=
  if all || new.same cur then (new, false) else (MapD.opaque_, true)

/-! ### Vector values -/

/-- Every lane is written. -/
def allLanes : BitVec 64 := BitVec.allOnes 64
/-- Lane `i` of tangent shadow `k`; a missing shadow is +0 (R123). -/
def VVal.tgl (v : VVal) (k i : Nat) : Lane := match v.tg[k]? with | some x => x.lane i | none => 0
/-- Lane `i`. -/
def VVal.l (v : VVal) (i : Nat) : Lane := v.lanes.lane i
/-- The vector of a scalar, immediate or special source (R75, R116, R123). -/
def vvalOfWord (w : Word) : VVal := ⟨Vec.splat (w.setWidth 32), MapD.none, [], true⟩
/-- Shadows from a function, none when T is 0. -/
def mkTg (T : Nat) (f : Nat → Nat → Lane) : List Vec := (List.range T).map fun k => Vec.build (f k)
/-- Lanes of the mask from the new value, the others from the old. -/
def mergeVec (mask : BitVec 64) (old new : Vec) : Vec := Vec.build fun i => if mask.getLsbD i then new.lane i else old.lane i
/-- A masked write of a vector value, its map by R119; whether MAPLOST is set. -/
def VVal.put (old new : VVal) (mask : BitVec 64) : VVal × Bool :=
  if mask = allLanes then (new, false)
  else
    let (m, lost) := partialMap false old.map new.map
    let n := max old.tg.length new.tg.length
    (⟨mergeVec mask old.lanes new.lanes, m,
      mkTg n fun k i => if mask.getLsbD i then new.tgl k i else old.tgl k i, new.fromS⟩, lost)

/-! ### Side-stores (R113, R120) -/

/-- The side-store a map names. -/
def Thr.store (t : Thr) (m : MapD) : SStore :=
  match m.clu with | .a => nth t.ssA m.ssix.toNat | .b => nth t.ssB m.ssix.toNat
/-- Write a side-store. -/
def Thr.setStore (t : Thr) (c : Clu) (i : Nat) (st : SStore) : Thr :=
  match c with | .a => { t with ssA := setNth t.ssA i st } | .b => { t with ssB := setNth t.ssB i st }

/-- The cluster of a vector port; `none` for `mx` and `xf`. -/
def vpClu (p : VPort) : Option Clu := if p.num < 6 then some .a else if p.num < 12 then some .b else none
/-- The maps a stream holds in the latches, ports and in-flight results of a cluster; a port's own value is named. -/
def Strm.mapsOf (x : Strm) (c : Clu) : List (Option VPort × MapD) :=
  let base := match c with | .a => 0 | .b => 4
  ((List.range 4).flatMap fun u => (nth x.vl (base + u)).toList.map fun (v : VVal) => (none, v.map)) ++
  (vportList.filter fun p => vpClu p = some c).map (fun (p : VPort) => (some p, (nth x.vport p.num).val.map)) ++
  x.pend.filterMap fun q => match q.port with
    | .inr p => if vpClu p = some c then some (none, q.val.map) else none
    | .inl _ => none
/-- Every holder of a map in a cluster: registers, then both streams' latches, ports and in-flight results. A port that belongs to
the acting stream is named. -/
def Thr.holders (t : Thr) (c : Clu) (sec : Bool) : List (Option VPort × MapD) :=
  ((match c with | .a => t.va | .b => t.vb).toList.map fun (v : VVal) => (none, v.map)) ++
  (t.strm sec).mapsOf c ++ ((t.strm (!sec)).mapsOf c).map fun e => (none, e.2)
/-- Side-store `i` of a cluster is referenced by someone whose name passes the test. -/
def refs (hs : List (Option VPort × MapD)) (c : Clu) (i : Nat) (p : Option VPort → Bool) : Bool :=
  hs.any fun h => h.2.st = .indexed && h.2.clu = c && h.2.ssix.toNat = i && p h.1

/-- Choose a side-store for a result (R120): in place when the port's own map is the only reference, else the lowest free one. A result that is
not on its port yet counts as a reference, and the port's map is the one it shows at issue (DESIGN CHOICE: R120 speaks of neither). -/
def Thr.claim (t : Thr) (c : Clu) (sec : Bool) (port : VPort) (isPartial : Bool) : Option Nat :=
  let hs := t.holders c sec
  let cur := (nth (t.strm sec).vport port.num).val.map
  if !isPartial && cur.st = .indexed && cur.clu = c && !refs hs c cur.ssix.toNat (· ≠ some port) then some cur.ssix.toNat
  else (List.range 8).find? fun i => !refs hs c i (fun _ => true)

end Sys2Proof.Machine
end

