-- ==== Sys2Proof/Machine/Flags.lean ====
section
/-! DEFINITION. The flags and status a bundle computes: traps and stalls of its slots (R337, R338), FLAGS (R187, R188), STAT (R79,
R108), the dual state (R122), latencies (Table 4-11) and results on their way to a port (R87). -/

namespace Sys2Proof.Machine

/-! ### Changing the bundle in progress -/

/-- Change the acting thread of the machine being built. -/
def Issue.modT (b : Issue) (f : Thr → Thr) : Issue := { b with now := b.now.modT f }
/-- Change the acting stream of the machine being built. -/
def Issue.modSt (b : Issue) (f : Strm → Strm) : Issue := { b with now := b.now.modSt f }
/-- Change the device of the machine being built. -/
def Issue.modD (b : Issue) (f : Dev → Dev) : Issue := { b with now := b.now.modD f }
/-- Change the core of the machine being built. -/
def Issue.modC (b : Issue) (f : Core → Core) : Issue := { b with now := b.now.modC f }

/-- Keep the check that failed in the lowest slot (R338); within a slot the first one found remains. -/
def lower (old : Option TrapRec) (r : TrapRec) : Option TrapRec :=
  match old with
  | none => some r
  | some o => if r.slot < o.slot then some r else some o
/-- An operation check of a slot failed with a cause of Table 19-1. -/
def Issue.trapAt (b : Issue) (slot cause : Nat) : Issue := { b with trap := lower b.trap ⟨slot, cause, 0, false, 0⟩ }
/-- An operation check failed, with the ID, FROM and CODE fields of its trap word. -/
def Issue.trapWith (b : Issue) (slot cause id : Nat) (frm : Bool) (code : Nat) : Issue :=
  { b with trap := lower b.trap ⟨slot, cause, id, frm, code⟩ }
/-- A privilege check of a slot failed. -/
def Issue.privAt (b : Issue) (slot : Nat) : Issue := { b with priv := lower b.priv ⟨slot, 0x05, 0, false, 0⟩ }
/-- Which of two holds a bundle shows: an unsatisfied wait and a launch that waits for room are waypoints whatever else holds the bundle (R35, R190);
a result interlock counts only when nothing else holds it (R87: τ is the time at which it would issue if no result interlock held it). -/
def Hold.rank : Hold → Nat
  | .waiting _ => 4 | .full => 3 | .other => 2 | .outbid => 2 | .interlock => 1 | .none => 0
/-- The bundle waits whole. -/
def Issue.stallBy (b : Issue) (h : Hold) : Issue :=
  { b with stall := match b.stall with
      | some o => if o.rank < h.rank then some h else some o
      | none => some h }

/-! ### FLAGS and STAT -/

/-- Set flags in step 2; a flag set and cleared in one A-cycle ends set (R188). -/
def Issue.setFlags (b : Issue) (v : BitVec 32) : Issue := { b with setF := b.setF ||| v }
/-- Clear flags in step 2. -/
def Issue.clrFlags (b : Issue) (v : BitVec 32) : Issue := { b with clrF := b.clrF ||| v }
/-- Set status bits: once per operation (R108). -/
def Issue.status (b : Issue) (nan sat lost : Bool) : Issue :=
  { b with setS := b.setS ||| ((if nan then 1#32 else 0) ||| (if sat then 2#32 else 0) ||| (if lost then 4#32 else 0)) }
/-- The value of FLAGS or STAT after step 2: cleared bits go, set bits stay (R188, R108). -/
def stepBits (old set clr : BitVec 32) : BitVec 32 := (old &&& ~~~clr) ||| set
/-- STAT bits of the events NaN conversion, saturation, lost map, overflow (R79). -/
def statBits (nan sat lost ovf : Bool) : BitVec 32 :=
  (if nan then 1#32 else 0) ||| (if sat then 2#32 else 0) ||| (if lost then 4#32 else 0) ||| (if ovf then 8#32 else 0)
/-- Set STAT bits of a thread between two A-cycles. -/
def Thr.orStat (t : Thr) (nan sat lost ovf : Bool) : Thr := { t with stat := t.stat ||| statBits nan sat lost ovf }
/-- Set STAT bits of a thread in an A-cycle, before its bundle: a W1C of that bundle leaves them set (R108). -/
def Thr.orStatNow (t : Thr) (nan sat lost ovf : Bool) : Thr :=
  { t.orStat nan sat lost ovf with statNow := t.statNow ||| statBits nan sat lost ovf }

/-! ### Dual state, latencies, results -/

/-- The bundle of the acting stream is dual (R122). -/
def Mach.dual (m : Mach) : Bool := 1 ≤ m.t.T && (m.t.duall || 0 < m.st.drem)
/-- This generation's latency of a class (Table 4-11). -/
def actualLat (c T : Nat) (dual fused : Bool) : Nat :=
  let k := if dual then T else 0
  match c with
  | 0 => 1 | 1 => 3 | 2 => if fused then 10 else 4 | 3 => 2 + k | 4 => 4 + 2 * k | 5 => 8 + 2 * k | 6 => 6 + k
  | 7 => 12 * (1 + k) | 8 => 16 * (1 + k) | 9 => 24 * (1 + k) | 11 => 40 | _ => 128
/-- The latency header's value of a class (R85). -/
def Thr.lat (t : Thr) (c : Nat) : Nat := (nth t.kern.lat c).toNat

/-- Put a scalar result on its way: due at i + LAT[c] (R177, R205). -/
def Issue.resultS (b : Issue) (p : SPort) (c : Nat) (w : Word) : Issue :=
  let t := b.now.t
  b.modSt fun x => { x with pend := x.pend ++
    [⟨.inl p, t.time + t.lat c, t.time + actualLat c t.T false t.fusedl1, allLanes, w, VVal.zero⟩] }
/-- Put a vector result on its way, due and produced at the given times, for the lanes of a mask (R70, R215). -/
def Issue.resultAt (b : Issue) (p : VPort) (due prod : Nat) (mask : BitVec 64) (v : VVal) : Issue :=
  b.modSt fun x => { x with pend := x.pend ++ [⟨.inr p, due, prod, mask, 0, v⟩] }
/-- Put a vector result of a class on its way. -/
def Issue.resultV (b : Issue) (p : VPort) (c : Nat) (mask : BitVec 64) (v : VVal) : Issue :=
  let t := b.now.t
  b.resultAt p (t.time + t.lat c) (t.time + actualLat c t.T b.now.dual t.fusedl1) mask v

/-- Write a result to its port (R87); a lane-guarded one by R119. Its readers wait until it has been produced. -/
def Mach.retire (m : Mach) (q : Pend) : Mach :=
  match q.port with
  | .inl p => m.modSt fun x => { x with sport := setNth x.sport p.num ⟨q.word, q.prod⟩ }
  | .inr p =>
    let (v, lost) := (nth m.st.vport p.num).val.put q.val q.mask
    (m.modSt fun x => { x with vport := setNth x.vport p.num ⟨v, q.prod⟩ }).modT fun t => t.orStatNow false false lost false

/-- Results in the order in which they come due; equal due times keep issue order (R87). -/
def insertDue (q : Pend) : List Pend → List Pend
  | [] => [q]
  | r :: rs => if q.due < r.due then q :: r :: rs else r :: insertDue q rs
/-- The acting stream's ports take every result due at or before τ (R87). -/
def Mach.retireTo (m : Mach) (tau : Nat) : Mach :=
  let (now, later) := m.st.pend.partition fun q => q.due ≤ tau
  (now.foldl (fun l q => insertDue q l) []).foldl Mach.retire (m.modSt fun x => { x with pend := later })

end Sys2Proof.Machine
end

