-- ==== Sys2Proof/Machine/Operands.lean ====
section
/-! DEFINITION. The operand forms: every source (Table 4-7), every destination (Table 4-3), guards (R69, R70, R190), and the
frames of a plain move and of a trigger (R73–R75). -/

namespace Sys2Proof.Machine

/-! ### Values -/

/-- A value on a bus: 64 scalar bits, or a vector with map and tangents. -/
inductive Val where
  | sc (w : Word)
  | vec (v : VVal)

/-- The 64 bits a scalar place receives: of a vector, lane 0 zero-extended (R75). -/
def Val.word : Val → Word | .sc w => w | .vec v => (v.l 0).setWidth 64
/-- The vector a vector-wide place receives: of a scalar, its low 32 bits in every lane with map NONE and +0 tangents (R75, R116,
R123). -/
def Val.vval : Val → VVal | .sc w => vvalOfWord w | .vec v => v

/-- What reading a source gives: a value, a value that has not been produced yet (R87), a trap cause, a stall, or poison that the move must not write
(R371). -/
inductive SrcR where
  | ok (v : Val)
  | late (v : Val)
  | trap (cause : Nat)
  | stall (h : Hold)
  | poison (addr : Nat)

/-! ### Spools (R274, R275) -/

/-- A 4-byte field of a winder block. -/
def Spool.f4 (s : Spool) (o : Nat) : Nat := leNat ((s.blk.toList.drop o).take 4)
/-- An 8-byte field of a winder block. -/
def Spool.f8 (s : Spool) (o : Nat) : Word := wordOf ((s.blk.toList.drop o).take 8)
/-- RING and NSLOT. -/
def Spool.ring (s : Spool) : Nat := s.f4 0x90
/-- NSLOT. -/
def Spool.nslot (s : Spool) : Nat := s.f4 0x94
/-- CNTd of a pattern dimension. -/
def Spool.cnt (s : Spool) (d : Nat) : Nat := s.f4 (0x98 + 4 * d)
/-- The number of vectors of the pattern. -/
def Spool.total (s : Spool) : Nat := (List.range 6).foldl (fun a d => a * s.cnt d) 1
/-- Digit idx_d of vector `n`, dimension 0 innermost. -/
def Spool.idx (s : Spool) (n d : Nat) : Nat :=
  n / ((List.range d).foldl (fun a k => a * max (s.cnt k) 1) 1) % max (s.cnt d) 1
/-- The kernel address of vector `n`. -/
def Spool.addr (s : Spool) (n : Nat) : Word :=
  (List.range 6).foldl (fun a d => a + BitVec.ofNat 64 (s.idx n d) * s.f8 (0xB0 + 8 * d)) (s.f8 0x88)
/-- The map of vector `n`: MAPD with ORG[CDIM_d] advanced by idx_d × CADV_d. -/
def Spool.mapOf (s : Spool) (n : Nat) : MapD :=
  let m := mapOfBytes (s.blk.toList.take 136)
  MapD.held <| (List.range 6).foldl (fun m d =>
    let c := BitVec.ofNat 32 (s.f4 (0xE0 + 4 * d))
    let k := fld c 31 28
    if k < 14 then { m with org := setNth m.org k (nth m.org k + BitVec.ofNat 32 (s.idx n d) * (BitVec.ofNat 28 c.toNat).signExtend 32) }
    else m) m
/-- Filled slots. -/
def Spool.filled (s : Spool) : Nat := (s.wpos - s.rpos).toNat
/-- The scratchpad offset of the slot of a position. -/
def Spool.slotOff (s : Spool) (pos : BitVec 32) : Nat := s.ring + 256 * (pos.toNat % max s.nslot 1)

/-- The 64 lanes of 256 bytes. -/
def vecOfMem (m : Mem) (off : Nat) : Vec := Vec.build fun i => BitVec.ofNat 32 (Mem.num m (off + 4 * i) 4)
/-- The 256 bytes of 64 lanes. -/
def bytesOfVec (v : Vec) : List Byte := (List.range 64).flatMap fun i => leBytes 4 (v.lane i).toNat

/-- Reading a spool read port (R239, R275): OPERAND on an unbound spool, SPOOLEND beyond the pattern of a read spool, a stall on an
empty ring, poison of the slot. -/
def Mach.readSpool (m : Mach) (sp : Fin 16) : SrcR :=
  let t := m.t
  let s := nth t.spools sp.val
  if !s.bound then .trap 0x06
  else if !s.handle && s.total ≤ s.rpos.toNat then .trap 0x12
  else if s.filled = 0 then .stall .other
  else
    let off := s.slotOff s.rpos
    if (m.probeSpad (unitsOf off 256 16)).t.spadPoisoned off 256 then .poison off
    else .ok (.vec ⟨vecOfMem t.spad off, if !s.handle && !s.dir then s.mapOf s.rpos.toNat else MapD.none, [], false⟩)

/-! ### Sources (Table 4-7) -/

/-- The FP32 encodings of the floating constants (Table 4-8). -/
def fconsts : List Word :=
  [0x00000000, 0x80000000, 0x3F800000, 0xBF800000, 0x3F000000, 0xBF000000, 0x40000000, 0xC0000000,
   0x3E800000, 0x40800000, 0x3FC00000, 0x40400000, 0x41000000, 0x7F800000, 0xFF800000, 0x7FC00000]

/-- A lane predicate as a vector of 1 and 0 (R75). -/
def predVec (q : BitVec 64) : VVal := ⟨Vec.build fun i => b2l (q.getLsbD i), MapD.none, [], false⟩
/-- The lane predicate of number `n`; number 0 is true in every lane (R75). -/
def predOf (qs : Vector (BitVec 64) 16) (n : Nat) : BitVec 64 := if n % 16 = 0 then allLanes else nth qs n
/-- The predicate of number `n`; p0 is true (R75). -/
def Thr.pred (t : Thr) (n : Nat) : Bool := n % 16 = 0 || nth t.p n

/-- The first membership slot in use gives `skid` (R40). -/
def Thr.skid (t : Thr) : Word :=
  match t.skeins.toList.findSome? id with
  | some k => k.id.setWidth 64
  | none => 0xFFFFFFFF

/-- A coordinate port (R115, Table 6-4): it reads the map of `fa0.o1` or `fb0.o1` as the latch stands before the bundle. -/
def Mach.coordPort (m : Mach) (c : Clu) (k : CPort) : SrcR :=
  let v := nth (nth m.st.vl (match c with | .a => 0 | .b => 4)) 0
  let st := m.t.store v.map
  let out := fun f => SrcR.ok (.vec ⟨Vec.build f, MapD.none, [], false⟩)
  match k with
  | .cdm => out fun _ => BitVec.ofNat 32 v.map.st.num
  | .cd d =>
    if v.map.st = .opq then .trap 0x0B
    else out fun i => if v.map.vacant st i then 0x80000000 else v.map.coord st i d.val
  | .cdl =>
    if v.map.st = .opq then .trap 0x0B
    else out fun i => if v.map.vacant st i then 0xFFFFFFFF else (v.map.lin st i).setWidth 32

/-- Reading a result port (R87): the bundle waits until the result it selects has been produced. -/
def Mach.readSPort (m : Mach) (p : SPort) : SrcR :=
  let v := nth m.st.sport p.num
  if m.t.time < v.ready then .late (.sc v.val) else .ok (.sc v.val)
/-- Reading a vector result port. -/
def Mach.readVPort (m : Mach) (p : VPort) : SrcR :=
  let v := nth m.st.vport p.num
  if m.t.time < v.ready then .late (.vec { v.val with fromS := false }) else .ok (.vec { v.val with fromS := false })

/-- Reading a source in step 1 of R73, from the machine as it stood before the bundle. -/
def Mach.read (m : Mach) (s : Src) : SrcR :=
  let t := m.t
  match s with
  | .s n => .ok (.sc (nth t.s n.val))
  | .va n => .ok (.vec { nth t.va n.val with fromS := false })
  | .vb n => .ok (.vec { nth t.vb n.val with fromS := false })
  | .p n => .ok (.sc (b2w (t.pred n.val)))
  | .qa n => .ok (.vec (predVec (predOf t.qa n.val)))
  | .qb n => .ok (.vec (predVec (predOf t.qb n.val)))
  | .spool n => m.readSpool n
  | .sport p => m.readSPort p
  | .xab => .ok (.vec { t.xab with fromS := false })
  | .xba => .ok (.vec { t.xba with fromS := false })
  | .vport p => m.readVPort p
  | .coord c k => m.coordPort c k
  | .imm n => .ok (.sc (BitVec.ofInt 64 ((n.val : Int) - 32)))
  | .fconst n => .ok (.sc (fconsts.getD n.val 0))
  | .limm l => .ok (.sc (l.signExtend 64))
  | .limmz l => .ok (.sc (l.setWidth 64))
  | .mplo => .ok (.sc (BitVec.ofNat 64 (m.dev.milepost % 2 ^ 32)))
  | .mphi => .ok (.sc (BitVec.ofNat 64 (m.dev.milepost / 2 ^ 32 % 2 ^ 32)))
  | .tid => .ok (.sc (t.tid.setWidth 64))
  | .skid => .ok (.sc t.skid)
  | .lx n => .ok (.sc (match m.st.loops[n.val]? with | some l => l.idx.setWidth 64 | none => 0))
  | .w n => .ok (.sc (nth t.w n.val))

/-! ### Guards (R69, R70, R190, Table 4-1) -/

/-- The lanes a guard lets through: none cancels the move (R70, R337), all for a true scalar or flag guard. -/
def guardMask (m : Mach) (isWait : Bool) (g : Grd) : BitVec 64 :=
  let t := m.t
  let sc := fun (x : Bool) => if x != g.inv then allLanes else 0#64
  if g.g.val = 0 then allLanes
  else if isWait then sc (bit t.flags g.g.val)
  else if g.slot.val < 3 || g.slot.val = 7 then sc (t.pred g.g.val)
  else
    let q := predOf (if g.slot.val < 5 then t.qa else t.qb) g.g.val
    if g.inv then ~~~q else q

/-! ### Destinations (Table 4-3, R74, R75) -/

/-- The number of a unit's latch bank within its kind. -/
def vlIx (u : FU) : Nat := u.num - 7
/-- Read an operand latch of a scalar unit in the machine being built. -/
def Issue.sl (b : Issue) (u : FU) (j : Nat) : Word := nth (nth b.now.st.sl u.num) j
/-- Read an operand latch of a vector unit in the machine being built. -/
def Issue.vl (b : Issue) (u : FU) (j : Nat) : VVal := nth (nth b.now.st.vl (vlIx u)) j
/-- Write an operand latch of a scalar unit. -/
def Issue.setSl (b : Issue) (u : FU) (j : Nat) (w : Word) : Issue :=
  b.modSt fun x => { x with sl := setNth x.sl u.num (setNth (nth x.sl u.num) j w) }
/-- Write an operand latch of a vector unit. -/
def Issue.setVl (b : Issue) (u : FU) (j : Nat) (v : VVal) : Issue :=
  b.modSt fun x => { x with vl := setNth x.vl (vlIx u) (setNth (nth x.vl (vlIx u)) j v) }

/-- Remember the register an operand latch takes its value from, for `latch flush` (R48). -/
def Issue.setLsrc (b : Issue) (u : FU) (j : Nat) (src : Src) (mask : BitVec 64) : Issue :=
  b.modSt fun x => { x with lsrc := setNth x.lsrc u.num (setNth (nth x.lsrc u.num) j (some (src, mask))) }

/-- Note that a masked write made a map OPAQUE (R119). -/
def Issue.lost (b : Issue) (l : Bool) : Issue := b.status false false l

/-- The lane predicate of a value: true where a lane of a vector is non-zero, and in every lane where a scalar is (R75). -/
def predBits (v : Val) (mask old : BitVec 64) : BitVec 64 :=
  bitsBy 64 fun i => if mask.getLsbD i then (match v with | .sc w => decide (w ≠ 0) | .vec x => decide (x.l i ≠ 0)) else old.getLsbD i

/-- Writing a destination in step 2 (R74, R75, R78, R119): writes to p0, qa0, qb0 and to read-only registers are ignored. -/
def Issue.write (b : Issue) (d : Dst) (v : Val) (mask : BitVec 64) : Issue :=
  let t := b.now.t
  match d with
  | .s n =>
    let b := b.modT fun t => { t with s := setNth t.s n.val v.word }
    { b with wroteS63 := b.wroteS63 || n.val = 63 }
  | .p n => if n.val = 0 then b else b.modT fun t => { t with p := setNth t.p n.val (v.word ≠ 0) }
  | .va n =>
    let (x, l) := (nth t.va n.val).put v.vval mask
    (b.modT fun t => { t with va := setNth t.va n.val { x with fromS := false } }).lost l
  | .vb n =>
    let (x, l) := (nth t.vb n.val).put v.vval mask
    (b.modT fun t => { t with vb := setNth t.vb n.val { x with fromS := false } }).lost l
  | .qa n => if n.val = 0 then b
    else b.modT fun t => { t with qa := setNth t.qa n.val (predBits v mask (nth t.qa n.val)) }
  | .qb n => if n.val = 0 then b
    else b.modT fun t => { t with qb := setNth t.qb n.val (predBits v mask (nth t.qb n.val)) }
  | .ro _ => b
  | .errinjAddr => b.modC fun c => { c with injAddr := zx v.word 48 }
  | .xab =>
    let (x, l) := t.xab.put v.vval mask
    (b.modT fun t => { t with xab := { x with fromS := false } }).lost l
  | .xba =>
    let (x, l) := t.xba.put v.vval mask
    (b.modT fun t => { t with xba := { x with fromS := false } }).lost l
  | .opnd u j =>
    if u.scalar then b.setSl u j.val v.word
    else
      let (x, l) := (b.vl u j.val).put v.vval mask
      (b.setVl u j.val x).lost l

/-! ### Moves and triggers in a bundle (R73) -/

/-- A spool read port that several moves of a bundle name advances once (R73). -/
def Issue.popSpool (b : Issue) (s : Src) : Issue :=
  match s with
  | .spool n =>
    if b.popped.contains n then b
    else
      let off := (nth b.now.t.spools n.val).slotOff (nth b.now.t.spools n.val).rpos
      let b := { b with now := b.now.probeSpad (unitsOf off 256 16) }
      let b := b.modT fun t =>
        let sp := nth t.spools n.val
        { t with spools := setNth t.spools n.val { sp with rpos := sp.rpos + 1 } }
      { b with popped := n :: b.popped }
  | _ => b

/-- Ask for an unwinding at the bundle's boundary: poisoned data reached a register (R371). -/
def Issue.unwind (b : Issue) (cause : Nat) (addr : Nat) : Issue :=
  b.modT fun t => { t with unw := t.unw ++ [⟨cause, 0, none, BitVec.ofNat 64 addr, t.time⟩] }

/-- A move that its guard does not cancel: read the source, then `k` with the value and the guard's lanes; a failed read traps,
stalls or asks for the unwinding (R337). A value that has not been produced holds the bundle, and `k` shows whether anything else would hold it (R87). -/
def guarded (pre : Mach) (b : Issue) (g : Grd) (src : Src) (k : Val → BitVec 64 → Issue → Issue) : Issue :=
  let mask := guardMask pre b.isWait g
  if mask = 0 then b
  else match pre.read src with
    | .trap c => b.trapAt g.slot.val c
    | .stall h => b.stallBy h
    | .late v => (k v mask (b.popSpool src)).stallBy .interlock
    | .poison a => (b.popSpool src).unwind 0x81 a
    | .ok v => k v mask (b.popSpool src)

/-- A move that only a privileged thread may make (R78, R179): a cancelled one is not checked (R337). -/
def privileged (pre : Mach) (b : Issue) (g : Grd) (k : Issue) : Issue :=
  if guardMask pre b.isWait g ≠ 0 && !pre.t.priv then b.privAt g.slot.val else k

/-- What a trigger's operation sees: the machine before the bundle, its slot, its unit, its guard's lanes, and its value. -/
structure Ctx where
  pre : Mach
  slot : Nat
  u : FU
  mask : BitVec 64
  v : Val

/-- The unit that a trigger class's slot selects (Table 4-5). -/
def saUnit (slot : Nat) : FU := if slot = 1 then .sa0 else .sa1
/-- The function unit of a slot. -/
def faUnit (slot : Nat) : FU := if slot = 3 then .fa0 else if slot = 4 then .fa1 else if slot = 5 then .fb0 else .fb1
/-- The special-function unit of a slot. -/
def sfUnit (slot : Nat) : FU := if slot = 3 then .sfa else .sfb
/-- The vector memory unit of a slot. -/
def vmUnit (slot : Nat) : FU := if slot = 3 then .vma else .vmb

/-- The result port `r` of a vector unit. -/
def portR (u : FU) : VPort :=
  match u with
  | .fa0 => .fa0r | .fa1 => .fa1r | .sfa => .sfar | .vma => .vmar | .fb0 => .fb0r | .fb1 => .fb1r | .sfb => .sfbr | .vmb => .vmbr
  | .mx => .mxr | _ => .xfr
/-- The result port `rx` of a vector unit. -/
def portRx (u : FU) : VPort :=
  match u with
  | .fa0 => .fa0rx | .fa1 => .fa1rx | .fb0 => .fb0rx | .fb1 => .fb1rx | .mx => .mxrx | _ => .xfrx
/-- The result port of a scalar ALU. -/
def portS (u : FU) : SPort := if u = .sa0 then .sa0r else .sa1r
/-- The cluster of a unit. -/
def unitClu (u : FU) : Clu := if u.num < 11 then .a else .b

/-- A trigger (R73): its value goes into the last operand latch, in every lane, and the operation starts, reading all its latches.
`nops` is the number of operands; an operation with none writes no latch. -/
def trigger (pre : Mach) (b : Issue) (g : Grd) (src : Src) (u : FU) (nops : Nat) (op : Ctx → Issue → Issue) : Issue :=
  guarded pre b g src fun v mask b =>
    let b := if nops = 0 then b
      else if u.scalar then (b.setSl u (nops - 1) v.word).setLsrc u (nops - 1) src allLanes
      else (b.setVl u (nops - 1) v.vval).setLsrc u (nops - 1) src allLanes
    op ⟨pre, g.slot.val, u, mask, v⟩ b

end Sys2Proof.Machine
end

