-- ==== Sys2Proof/Machine/Mgmt.lean ====
section
/-! DEFINITION. The management registers (Tables 22-2 to 22-4) and the lane register blocks (Tables 13-1 to 13-3): what a read returns
and what a write does. -/

namespace Sys2Proof.Machine

/-! ### Lanes (R307–R309, R364, R365) -/

/-- A lane by number 64c + n. -/
def Dev.lane (d : Dev) (n : Nat) : Lane_ := match d.lanes.find? fun e => e.1 = n with | some e => e.2 | none => Lane_.zero
/-- A list of numbered items, in number order, with one replaced. -/
def insertLane (n : Nat) (x : Lane_) : List (Nat × Lane_) → List (Nat × Lane_)
  | [] => [(n, x)]
  | e :: r => if n < e.1 then (n, x) :: e :: r else if n = e.1 then (n, x) :: r else e :: insertLane n x r
/-- Replace a lane. -/
def Dev.setLane (d : Dev) (n : Nat) (x : Lane_) : Dev := { d with lanes := insertLane n x d.lanes }
/-- EN (Table 13-2). -/
def Lane_.en (l : Lane_) : Bool := bit l.lcfg 0 && 4 ≤ fld l.lcfg 20 16 && fld l.lcfg 20 16 ≤ 16
/-- RSIZE. -/
def Lane_.rsize (l : Lane_) : Nat := 2 ^ fld l.lcfg 20 16
/-- The lane's address space. -/
def Lane_.asid (l : Lane_) : BitVec 16 := BitVec.ofNat 16 (fld l.lcfg 63 48)
/-- The lane is stopped (R309, R311). -/
def Lane_.stopped (l : Lane_) : Bool := l.seqerr || l.overrun

/-- An error record of a lane (R364): the lane in [5:0] and the context in [25:16] of DETAIL. The spec does not say which die
detects it: die 0, whose controller leads. -/
def Dev.laneRecord (d : Dev) (n code : Nat) (l : Lane_) : Dev :=
  d.record 0 { Rec0.plain 1 code with
    detail := BitVec.ofNat 64 (n % 64 + n / 64 * 2 ^ 16)
    addr := BitVec.ofNat 64 (l.lostlo.toNat + l.losthi.toNat * 2 ^ 32)
    asid := l.asid.toNat }

/-- A lap: the lane stops with OVERRUN (R364). -/
def Dev.lap (d : Dev) (n : Nat) : Dev :=
  let l := d.lane n
  let l := { l with overrun := true, lostlo := l.ridx, losthi := l.widx - 1 }
  (d.setLane n l).laneRecord n 0x44 l
/-- The lane is lapped, whatever EN says (R364). -/
def Lane_.lapped (l : Lane_) : Bool := l.rsize < (l.widx - l.ridx).toNat

/-- A write to WIDX performs (R309, R364). -/
def Dev.writeWidx (d : Dev) (n : Nat) (v : BitVec 32) : Dev :=
  let d := d.setLane n { d.lane n with widx := v }
  if (d.lane n).lapped then d.lap n else d
/-- LSTAT.RST (R365). -/
def Dev.resetLane (d : Dev) (n : Nat) : Dev :=
  let l := d.lane n
  d.setLane n { l with ridx := l.widx, seqerr := false, overrun := false }

/-! ### Reads (R393) -/

/-- The number of lane blocks: 64 lanes of each of 1,024 contexts (R307). -/
def laneCount : Nat := 65536
/-- DEVST (Table 22-3). -/
def Dev.devst (d : Dev) : Word :=
  BitVec.ofNat 64 (d.stageNo * 2 ^ 28 + d.berra.toNat * 2 ^ 24 + d.berr.toNat * 2 ^ 16 + d.diep.toNat * 2 ^ 8 +
    (if d.slotB then 16 else 0) + (if d.lnrdy then 1 else 0))
/-- Two 32-bit registers in one word. -/
def pair32 (lo hi : BitVec 32) : Word := hi ++ lo

/-- A lane block's word. -/
def Lane_.word (l : Lane_) (k : Nat) : Word :=
  match k with
  | 0 => l.lbase
  | 1 => l.lcfg
  | 2 => pair32 l.widx l.ridx
  | 3 => BitVec.ofNat 64 ((if l.overrun then 2 else 0) + (if l.seqerr then 4 else 0))
  | 4 => pair32 l.lostlo l.losthi
  | _ => 0

/-- The 8 bytes at an aligned offset of the management range. -/
def Dev.mgmtWord (d : Dev) (off : Nat) : Word :=
  if 0x01000000 ≤ off then
    let n := (off - 0x01000000) / 64
    if n < laneCount then (d.lane n).word (off % 64 / 8) else 0
  else if off = 0x00 then d.devid
  else if off = 0x08 then d.devst
  else if off = 0x10 then BitVec.ofNat 64 (2 ^ d.boot.fusedSvn - 1)
  else if off = 0x18 then BitVec.ofNat 64 d.milepost
  else if off = 0x20 then d.astbase
  else if off = 0x28 then d.astlen
  else if 0x40 ≤ off && off < 0x80 then
    let p := nth d.pwr ((off - 0x40) / 16)
    let k := (off - 0x40) / 16 * 2
    if off % 16 = 0 then pair32 p.pcap (Config.sensor k d.milepost) else pair32 (Config.sensor (k + 1) d.milepost) p.aclk
  else if 0x100 ≤ off && off < 0x200 then
    let c := nth d.cnt ((off - 0x100) / 64)
    let k := off % 64 / 4
    pair32 (if k < 13 then nth c k else 0) (if k + 1 < 13 then nth c (k + 1) else 0)
  else if 0x1000 ≤ off && off < 0x1060 then
    BitVec.ofNat 64 ((nth d.meas ((off - 0x1000) / 32)).toNat / 2 ^ (8 * (off % 32)))
  else if 0x1100 ≤ off && off < 0x1140 then
    wordOf ((List.range 8).map fun i => nth d.attmb (off - 0x1100 + i))
  else 0

/-- The bytes of a read of the management range: an aligned access of 4 or 8 bytes; the value of any other access, which is dropped
(R392), is free. -/
def Dev.mgmtRead (d : Dev) (pa n : Nat) : List Byte :=
  let off := pa - 0xF00000000000
  if (n = 4 || n = 8) && off % n = 0 then
    ((leBytes 8 (d.mgmtWord (off / 8 * 8)).toNat).drop (off % 8)).take n
  else (List.range n).map fun i => Config.freeByte (d.free + i)
/-- A read of the management range over Twine: an agent that firmware has not authorised reads all ones (R392). -/
def Dev.twineRead (d : Dev) (off n : Nat) (auth : Bool) : List Byte :=
  if auth then d.mgmtRead (off + 0xF00000000000) n else List.replicate n 0xFF

/-! ### Firmware's policy (Table 13-7, R390) -/

/-- A value clamped to a range (R390). -/
def clampTo (lo hi x : Nat) : Nat := max lo (min hi x)
/-- SLICE, in quanta. -/
def Dev.setSlice (d : Dev) (n : Nat) : Dev := { d with slice := clampTo 1 1024 n }
/-- The share weight of a context, in 1–255: how many cores one kernel of it may hold; on this machine's one core no weight withholds it (R318, R321). A
context whose weight firmware has not set since reset has weight 1 (DESIGN CHOICE). -/
def Dev.shareOf (d : Dev) (ctx : Nat) : Nat := match d.share.find? fun e => e.1 = ctx with | some e => e.2 | none => 1
/-- Firmware sets the share weight of a context. -/
def Dev.setShare (d : Dev) (ctx w : Nat) : Dev := { d with share := (d.share.filter fun e => e.1 ≠ ctx) ++ [(ctx, clampTo 1 255 w)] }
/-- The packets that a die's overflow list area holds; it has at least 64 KiB. -/
def Dev.setOverflow (d : Dev) (die bytes : Nat) : Dev :=
  if die < 4 then { d with overCap := setNth d.overCap die (max bytes 0x10000 / 64) } else d

/-! ### Writes (R392–R394, R402) -/

/-- Replace half of a word. -/
def half (w : Word) (hi : Bool) (v : BitVec 32) : Word := if hi then pair32 (w.setWidth 32) v else pair32 v (w >>> 32 |>.setWidth 32)

/-- The arithmetic clock that a die's cap, current limit and thermal trip leave: the lower applies (R391). -/
def Pwr.reclock (p : Pwr) : Pwr :=
  { p with aclk := if p.tripped.isSome then 0 else BitVec.ofNat 32 (min 4000 (min (p.capped.getD 4000) (p.overCur.getD 4000))) }
/-- A cap takes effect; a higher one no longer holds the clock down. -/
def Pwr.cap (p : Pwr) (v : BitVec 32) : Pwr := { p with pcap := v, capped := if p.pcap.toNat < v.toNat then none else p.capped }.reclock
/-- PCAP (R390): clamped to 100–520 W; during a thermal stop it takes effect at restart (R402). -/
def Dev.writePcap (d : Dev) (die : Nat) (v : BitVec 32) : Dev :=
  let v := BitVec.ofNat 32 (clampTo 100 520 v.toNat)
  let p := nth d.pwr die
  { d with pwr := setNth d.pwr die (if p.tripped.isSome then { p with pcapNext := some v } else p.cap v) }
/-- Clear a die counter: the events of the write's H-cycle count after the clear (R394). -/
def Dev.clearCount (d : Dev) (die k : Nat) : Dev :=
  let e := nth (nth d.cntNow die) k
  { d with cnt := setNth d.cnt die (setNth (nth d.cnt die) k (if e.1 = hCycle d.milepost then BitVec.ofNat 32 (min e.2 0xFFFFFFFF) else 0)) }

/-- A privileged write of 4 bytes into the attestation mailbox. -/
def Dev.writeAttmb (d : Dev) (o : Nat) (v : BitVec 32) : Dev :=
  { d with attmb := (List.range 4).foldl (fun a i => setNth a (o + i) (BitVec.ofNat 8 (fld v (8 * i + 7) (8 * i)))) d.attmb }

/-- The fields of LCFG (Table 13-2). -/
def lcfgMask : Word := 0xFFFF0000001F0303

/-- An authorised write of 4 bytes at an aligned offset. -/
def Dev.mgmtPut (d : Dev) (off : Nat) (v : BitVec 32) : Dev :=
  if 0x01000000 ≤ off then
    let n := (off - 0x01000000) / 64
    let l := d.lane n
    if laneCount ≤ n then d
    else match off % 64 with
      | 0x00 => d.setLane n { l with lbase := half l.lbase false v &&& 0xFFFFFFFFFFFFFF80 }
      | 0x04 => d.setLane n { l with lbase := half l.lbase true v }
      | 0x08 => d.setLane n { l with lcfg := half l.lcfg false v &&& lcfgMask }
      | 0x0C => d.setLane n { l with lcfg := half l.lcfg true v &&& lcfgMask }
      | 0x10 => d.writeWidx n v
      | 0x18 => if bit v 0 then d.resetLane n else d
      | _ => d
  else if off = 0x20 || off = 0x24 then { d with astbase := half d.astbase (off = 0x24) v &&& 0x0000FFFFFFFFF000 }
  else if off = 0x28 || off = 0x2C then
    { d with astlen := BitVec.ofNat 64 (clampTo 1 65536 (half d.astlen (off = 0x2C) v).toNat) }
  else if 0x40 ≤ off && off < 0x80 then if off % 16 = 0 then d.writePcap ((off - 0x40) / 16) v else d
  else if 0x100 ≤ off && off < 0x200 then
    if off % 64 / 4 < 13 then d.clearCount ((off - 0x100) / 64) (off % 64 / 4) else d
  else if 0x1100 ≤ off && off < 0x1140 then d.writeAttmb (off - 0x1100) v
  else d

/-- A write that an agent without authority makes (R308, R392): only WIDX and LSTAT.RST take effect; any other write is dropped and
counted. -/
def Dev.mgmtPutUser (d : Dev) (off : Nat) (v : BitVec 32) : Dev :=
  if 0x01000000 ≤ off && off < 0x01000000 + 64 * laneCount && (off % 64 = 0x10 || (off % 64 = 0x18 && bit v 0)) then d.mgmtPut off v else d.count 0 11

/-- A write to the management range of `n` bytes at an offset. Over Twine, a write to a lane block before LNRDY is dropped and
counted (R402). An access that is not an aligned one of 4 or 8 bytes is dropped, and counted when its agent has no authority (R392); one of 8 bytes writes its
lower word first. -/
def Dev.mgmtWrite (d : Dev) (off n : Nat) (v : Word) (auth twine : Bool) : Dev :=
  if !((n = 4 || n = 8) && off % n = 0) then (if auth then d else d.count 0 11)
  else if twine && 0x01000000 ≤ off && !d.lnrdy then d.count 0 11
  else
    let put := fun (d : Dev) o x => if auth then d.mgmtPut o x else d.mgmtPutUser o x
    if n = 4 then put d off (v.setWidth 32)
    else if auth then put (put d off (v.setWidth 32)) (off + 4) ((v >>> 32).setWidth 32)
    else if 0x01000000 ≤ off && (off % 64 = 0x10 || off % 64 = 0x18) then put d off (v.setWidth 32)
    else d.count 0 11

end Sys2Proof.Machine
end

