-- ==== Sys2Proof/Machine/Remote.lean ====
section
/-! DEFINITION. Remote reads and writes as they are bound and performed: replicas (R146, R166), pages, the management range; and the
local side of an engine, which is a scratchpad on the core or the image of a saved one (R38, R135). -/

namespace Sys2Proof.Machine

/-! ### Replicas (R146, R166, R172) -/

/-- How long a replica may outlive the write that made it stale: 4,096 H-cycles, in reference cycles (R172). -/
def staleBound : Nat := 8192
/-- A copy taken now. -/
def Copy.fresh (now : Nat) : Copy := ⟨now, none, [], [], []⟩
/-- A copy may serve a read of a thread: no later write has made it stale, or that was less than the bound ago, and neither coherence nor an ordering
operation keeps the thread from it (R146, R166, R167, R170, R172). -/
def Copy.serves (c : Copy) (now : Nat) (r : TRef) : Bool :=
  match c.staleAt with | none => true | some a => now < a + staleBound && !(c.wr ++ c.rd ++ c.shun).contains r
/-- A thread in a list once. -/
def addRef (r : TRef) (l : List TRef) : List TRef := if l.contains r then l else r :: l
/-- A write of a thread has performed: it reads no older value of those bytes (R166). -/
def Dev.didWrite (d : Dev) (r : TRef) (a n : Nat) : Dev :=
  d.modCopies a n fun c => if c.staleAt = none then c else { c with wr := addRef r c.wr }
/-- A thread has read bytes as they stand at home, or as a copy taken at a milepost holds them: it reads no older value of them (R166). -/
def Dev.didRead (d : Dev) (r : TRef) (a n : Nat) (taken : Option Nat) : Dev :=
  d.modCopies a n fun c =>
    match c.staleAt with
    | none => c
    | some s => if (match taken with | none => true | some t => decide (s ≤ t)) then { c with rd := addRef r c.rd } else c
/-- An ordering operation of a thread on a die (Table 8-4): its later reads use no copy that a performed write has left behind (R167, R170). -/
def Dev.shun (d : Dev) (r : TRef) (die : Nat) : Dev :=
  let f := fun (c : Copy) => if c.staleAt = none then c else { c with shun := addRef r c.shun }
  { d with repl := d.repl.map fun e => if e.die = die then { e with c := f e.c } else e
           bmc := d.bmc.map fun e => { e with c := f e.c } }
/-- The invalidations of copies are acknowledged. -/
def Dev.dropCopies (d : Dev) (p : Copy → Bool) : Dev :=
  let gone := fun (c : Copy) => c.staleAt ≠ none && p c
  { d with repl := d.repl.filter (fun e => !gone e.c), bmc := d.bmc.filter fun e => !gone e.c }

/-- The next choice of the device. -/
def Dev.choose (d : Dev) (k : Nat) : Nat × Dev := (Config.freeChoice d.free % k, { d with free := d.free + 1 })

/-- Bytes as a read finds them: whether some are poisoned, and how a copy of them would stand. -/
structure ReadR where
  bytes : List Byte
  bad : Bool
  c : Copy
  m : Mach

/-- Threads have read bytes. -/
def Dev.allRead (d : Dev) (rs : List TRef) (a n : Nat) (taken : Option Nat) : Dev := rs.foldl (fun (d : Dev) r => d.didRead r a n taken) d
/-- Some bytes of a line for some threads, from home, and a replica when the device places one. -/
def Mach.readAtHome (m : Mach) (rs : List TRef) (pa n : Nat) : ReadR :=
  let m := m.probeHome pa n
  let line := pa / 128
  let die := m.core.die
  let now := Copy.fresh m.dev.milepost
  let out := fun (m : Mach) => (⟨m.dev.bytes pa n, m.dev.poisoned pa n, now, m.modD fun d => d.allRead rs pa n none⟩ : ReadR)
  if m.dev.homeDie pa = die || m.dev.repl.any (fun e => e.die = die && e.line = line) then out m
  else
    let (k, d) := m.dev.choose 2
    if k = 0 then out { m with dev := d }
    else out { m with dev := { d with repl := d.repl ++ [⟨die, line, d.bytes (line * 128) 128, now⟩] } }

/-- Some bytes of one line for some threads, from a replica of the core's die that may serve each of them, or from home. -/
def Mach.readCopy (m : Mach) (rs : List TRef) (pa n : Nat) : ReadR :=
  match m.dev.repl.find? fun e => e.die = m.core.die && e.line = pa / 128 && rs.all (e.c.serves m.dev.milepost) with
  | none => m.readAtHome rs pa n
  | some e =>
    let (k, d) := m.dev.choose 2
    if k = 0 then { m with dev := d }.readAtHome rs pa n
    else ⟨(e.data.drop (pa % 128)).take n, d.poisoned pa n, e.c, { m with dev := d.allRead rs pa n (some e.c.at_) }⟩
/-- Some bytes of one line. -/
def Mach.readLine (m : Mach) (rs : List TRef) (pa n : Nat) : List Byte × Bool × Mach :=
  let x := m.readCopy rs pa n
  (x.bytes, x.bad, x.m)

/-- The pieces of a range within units of `k` bytes. -/
def pieces (a n k : Nat) : List (Nat × Nat) :=
  (unitsOf a n k).map fun u => (max a (u * k), min (a + n) (u * k + k) - max a (u * k))

/-- A remote read of physical bytes: the management range is never cached (R392). -/
def Mach.readPa (m : Mach) (r : TRef) (pa n : Nat) : List Byte × Bool × Mach :=
  if inMgmt pa then (m.dev.mgmtRead pa n, false, m.modD fun d => { d with free := d.free + n })
  else (pieces pa n 128).foldl (fun acc p =>
    let (bs, pois, m) := acc.2.2.readLine [r] p.1 p.2
    (acc.1 ++ bs, acc.2.1 || pois, m)) ([], false, m)

/-! ### Pages -/

/-- A walk reads its table entries at home (R151). -/
def Mach.probeWalk (m : Mach) (asid : BitVec 16) (va : Word) : Mach := (m.dev.walkPath asid va).foldl (fun m p => m.probeHome p 8) m
/-- Keep a translation in both buffers; a full first-level buffer loses an entry of the device's choice (R151). What neither
held comes from a walk. -/
def Mach.cacheXlate (m : Mach) (asid : BitVec 16) (va : Word) (r : WalkR) : Mach :=
  match r with
  | .ok _ pte bits =>
    let m := if (tlbHit m.core.tlb asid va.toNat).isNone && (tlbHit m.dev.tlb asid va.toNat).isNone then m.probeWalk asid va else m
    let e : TlbE := ⟨asid, va.toNat / 2 ^ bits, bits, pte⟩
    let l := if m.core.tlb.contains e then m.core.tlb
      else e :: (if 128 ≤ m.core.tlb.length then m.core.tlb.eraseIdx (Config.freeChoice m.dev.free % 128) else m.core.tlb)
    { m with core := { m.core with tlb := l }
             dev := { m.dev with free := m.dev.free + 1 }.cacheLast e }
  | _ => m

/-- An engine's translation of an address is kept in the last-level buffer (R151). -/
def Mach.learn (m : Mach) (asid : BitVec 16) (va : Word) : Mach :=
  if (tlbHit m.dev.tlb asid va.toNat).isSome then m
  else
    let keep := fun (pte : Word) (bits : Nat) => (m.probeWalk asid va).modD fun d => d.cacheLast ⟨asid, va.toNat / 2 ^ bits, bits, pte⟩
    match m.dev.walk asid va false false with
    | .ok _ pte bits => keep pte bits
    | _ => match m.dev.walk asid va true false with | .ok _ pte bits => keep pte bits | _ => m

/-- What an access to a range of device virtual addresses meets: its physical ranges, or the first page that stops it. -/
inductive RangeR where
  | ok (parts : List (Nat × Nat))
  | fault (dva : Word)
  | absent (dva : Word)
  deriving DecidableEq, Repr

/-- Translate a range, page by page of 64 KiB. -/
def rangeOf (x : Word → WalkR) (dva : Word) (n : Nat) : RangeR :=
  (pieces dva.toNat n 0x10000).foldl (fun acc p =>
    match acc with
    | .ok ps =>
      match x (BitVec.ofNat 64 p.1) with
      | .ok pa _ _ => .ok (ps ++ [(pa, p.2)])
      | .fault => .fault (BitVec.ofNat 64 p.1)
      | .absent => .absent (BitVec.ofNat 64 p.1)
    | r => r) (.ok [])

/-- A range as a core access of the acting thread meets it. -/
def Mach.coreRange (m : Mach) (dva : Word) (n : Nat) (write : Bool) : RangeR :=
  rangeOf (fun a => m.xlate m.t.asid a write m.t.priv) dva n
/-- A range as an engine meets it. -/
def Dev.engRange (d : Dev) (asid : BitVec 16) (dva : Word) (n : Nat) (write : Bool) : RangeR :=
  rangeOf (fun a => d.xlate asid a write) dva n


/-- Read physical ranges one after another. -/
def Mach.readParts (m : Mach) (r : TRef) (ps : List (Nat × Nat)) : List Byte × Bool × Mach :=
  ps.foldl (fun acc p =>
    let (bs, pois, m) := acc.2.2.readPa r p.1 p.2
    (acc.1 ++ bs, acc.2.1 || pois, m)) ([], false, m)

/-- A write that performs at a physical range for a thread. -/
def Mach.writePa (m : Mach) (r : TRef) (pa : Nat) (bs : List Byte) (pois priv : Bool) : Mach :=
  if inMgmt pa then m.modD fun d => d.mgmtWrite (pa - 0xF00000000000) bs.length (wordOf bs) priv false
  else m.modD fun d => (d.write pa bs pois).didWrite r pa bs.length
/-- Write bytes over physical ranges one after another. -/
def Mach.writeParts (m : Mach) (r : TRef) (ps : List (Nat × Nat)) (bs : List Byte) (pois priv : Bool) : Mach :=
  (ps.foldl (fun (acc : Mach × List Byte) p =>
    (acc.1.writePa r p.1 (acc.2.take p.2) pois priv, acc.2.drop p.2)) (m, bs)).1

/-! ### Saved images (R29, R403, R404) -/

/-- The size of a section of a context image (Table 2-7). -/
def secSize (T k : Nat) : Nat :=
  match k with
  | 0 => 576 | 1 => 320 | 2 => 16640 | 3 => 51840 | 4 => 550528 | 5 => 212992 * T | 6 => 5184 | 7 => 64 | 8 => 4096 | 9 => 256
  | 10 => 305024 + 154624 * T | _ => 16384 + 8192 * T
/-- Where a saved image holds a section: one directly after the other (R404). -/
def secOff (T k : Nat) : Nat := (List.range k).foldl (fun a i => a + secSize T i) 256
/-- CTXSZ (R404). -/
def ctxSize (T : Nat) : Nat := secOff T 12
/-- SPOFF (R404). -/
def spOff (T : Nat) : Nat := roundUp (ctxSize T) 0x10000
/-- The least SASTR of a launch (R404). -/
def leastStride (T S : Nat) : Nat := roundUp (spOff T + S + S / 128) 0x10000

/-- The saved thread of a name. -/
def Dev.savedOf (d : Dev) (r : TRef) : Option Saved := d.saved.find? fun s => s.ref = r
/-- Bytes of a saved thread's area; what does not translate reads as a free value. -/
def Dev.areaRead (d : Dev) (s : Saved) (off n : Nat) : List Byte :=
  match d.engRange s.asid (s.area + BitVec.ofNat 64 off) n false with
  | .ok ps => ps.flatMap fun p => d.bytes p.1 p.2
  | _ => (List.range n).map fun i => Config.freeByte (d.free + i)
/-- Bytes written over physical ranges one after another. -/
def Dev.writeRanges (d : Dev) (ps : List (Nat × Nat)) (bs : List Byte) (pois : Bool) : Dev :=
  (ps.foldl (fun (acc : Dev × List Byte) p => (acc.1.write p.1 (acc.2.take p.2) pois, acc.2.drop p.2)) (d, bs)).1
/-- Write bytes of a saved thread's area; what does not translate is not written. -/
def Dev.areaWrite (d : Dev) (s : Saved) (off : Nat) (bs : List Byte) (pois : Bool) : Dev :=
  match d.engRange s.asid (s.area + BitVec.ofNat 64 off) bs.length true with
  | .ok ps => d.writeRanges ps bs pois
  | _ => d
/-- T of a saved image. -/
def Dev.areaT (d : Dev) (s : Saved) : Nat := min 4 (bitsOf (leNat (d.areaRead s 4 4)) 5 3)
/-- The physical ranges of bytes of a saved thread's area whose offset depends on T, which the image's header holds. -/
def Dev.areaRange (d : Dev) (s : Saved) (off : Nat → Nat) (n : Nat) (write : Bool) : RangeR :=
  match d.engRange s.asid s.area 8 false with
  | .ok _ => d.engRange s.asid (s.area + BitVec.ofNat 64 (off (d.areaT s))) n write
  | r => r
/-- The physical ranges of a range of a saved thread's scratchpad. -/
def Dev.imageRange (d : Dev) (s : Saved) (off n : Nat) (write : Bool) : RangeR := d.areaRange s (fun T => spOff T + off) n write
/-- A step on a saved thread's area: it waits when the area's page is not in place or its home is a stopped die (R391), and is not made where the area does not translate. -/
def Mach.onArea (m : Mach) (s : Saved) (off : Nat → Nat) (n : Nat) (k : LaterK) (f : Dev → List (Nat × Nat) → Dev) : Mach :=
  match m.dev.areaRange s off n true with
  | .ok ps => if ps.any fun p => m.dev.stops p.1 p.2 then m.modD fun d => d.putLater none s.asid k else m.modD fun d => f d ps
  | .absent a => m.modD fun d => (d.waitPage s.asid a).putLater none s.asid k
  | .fault _ => m
/-- The size of a saved thread's scratchpad (R130). -/
def Saved.spad (s : Saved) : Nat :=
  let n := (s.kern.pool[1]).toNat - (s.kern.pool[0]).toNat
  if s.shared then n / 2 else n

/-! ### The local side of an engine (R133, R135) -/

/-- The place a live thread stands on. -/
def Mach.placeOf (m : Mach) (r : TRef) : Option Place :=
  if m.thr0.live && m.thr0.ref = r then some .p0 else if m.thr1.live && m.thr1.ref = r then some .p1 else none

/-- An engine's read of a thread's scratchpad, on the core or in its image. A thread that has left both has none: the value is free. -/
def Mach.engRead (m : Mach) (r : TRef) (off n : Nat) : List Byte × Bool × Mach :=
  match m.placeOf r with
  | some pl =>
    let m := ((m.at_ pl).probeSpad (unitsOf off n 16)).at_ m.cur
    let t := (m.at_ pl).t
    (Mem.readN t.spad off n, t.spadPoisoned off n, m)
  | none => match m.dev.savedOf r with
    | some s =>
      let ps := match m.dev.imageRange s off n false with | .ok ps => ps | _ => []
      let m := ps.foldl (fun (m : Mach) p => m.probeHome p.1 p.2) m
      let pois := ps.any fun p => m.dev.poisoned p.1 p.2
      (m.dev.areaRead s (spOff (m.dev.areaT s) + off) n, pois, m)
    | none => ((List.range n).map fun i => Config.freeByte (m.dev.free + i), false, m.modD fun d => { d with free := d.free + n })

/-- An engine's write into a thread's scratchpad or its image. -/
def Mach.engWrite (m : Mach) (r : TRef) (off : Nat) (bs : List Byte) (pois : Bool) : Mach :=
  match m.placeOf r with
  | some _ => m.modRef r fun t => t.putSpad off bs pois
  | none => match m.dev.savedOf r with
    | some s => m.onArea s (fun T => spOff T + off) bs.length (.image r off bs pois) fun d ps => d.writeRanges ps bs pois
    | none => m

/-- Set the full-empty bit of granules, in the scratchpad or in its image. -/
def Mach.engFull (m : Mach) (r : TRef) (gs : List Nat) : Mach :=
  match m.placeOf r with
  | some _ => m.modRef r fun t => t.setFull gs
  | none => match m.dev.savedOf r with
    | some s => gs.foldl (fun m g => m.onArea s (fun T => spOff T + s.spad + g / 8) 1 (.full r [g]) fun d ps =>
        ps.foldl (fun d p => d.write p.1 [d.byte p.1 ||| BitVec.ofNat 8 (2 ^ (g % 8))] false) d) m
    | none => m

/-- Bytes with the full-empty bits of every granule they touch (R133). -/
def Mach.engPut (m : Mach) (r : TRef) (off : Nat) (bs : List Byte) (pois : Bool) : Mach :=
  (m.engWrite r off bs pois).engFull r (unitsOf off bs.length 16)

/-- Set status bits of a thread that an engine works for, live or saved (R108, R138, R285). -/
def Mach.engStat (m : Mach) (r : TRef) (bits : BitVec 32) : Mach :=
  if bits = 0 then m
  else match m.placeOf r with
  | some _ => m.modRef r fun t => { t with stat := t.stat ||| bits }
  | none => match m.dev.savedOf r with
    | some s => m.onArea s (fun T => secOff T 7 + 12) 4 (.stat r bits) fun d ps =>
        d.writeRanges ps (leBytes 4 (BitVec.ofNat 32 (leNat (ps.flatMap fun p => d.bytes p.1 p.2)) ||| bits).toNat) false
    | none => m


end Sys2Proof.Machine
end

