-- ==== Sys2Proof/Machine/Order.lean ====
section
/-! DEFINITION. The outbound order (R160–R162, R166, R294, Table 8-4): which home operations order, drain and acquire, the bytes each acts on, and
what an access must wait for. -/

namespace Sys2Proof.Machine

/-! ### Kinds of home operations (Table 8-4) -/

/-- An operation of chapter 12 at home: those of one thread perform in issue order (R294). -/
def HopOp.isAm : HopOp → Bool
  | .atom _ _ _ _ _ _ _ => true
  | .hinit _ => true | .hoffer _ _ => true | .htake _ _ _ _ _ => true
  | .balloc _ _ _ _ => true | .bfree _ _ _ => true
  | .msarm _ _ _ _ => true | .msarv _ _ _ => true | .msbind _ _ _ => true
  | _ => false
/-- An operation that holds later accesses and commands until it performs (Table 8-4). -/
def HopOp.orders : HopOp → Bool
  | .drain _ _ _ => true
  | .fence _ _ _ _ => true
  | .atom _ _ _ _ _ ord _ => ord ≠ 0
  | .msarv _ _ _ => true
  | .launch _ _ => true
  | .consume => true
  | _ => false
/-- An operation that drains before it performs: an explicit or implied drain, or an SC fence. -/
def HopOp.drains : HopOp → Bool
  | .drain _ _ _ => true
  | .fence sc _ _ _ => sc
  | .atom _ _ _ _ _ ord _ => ord = 2 || ord = 3
  | .msarv _ _ _ => true
  | .launch _ _ => true
  | _ => false
/-- An operation that acquires (Table 8-4). -/
def HopOp.acquires : HopOp → Bool
  | .fence _ _ _ _ => true
  | .atom _ _ _ _ _ ord _ => ord = 1 || ord = 3
  | .consume => true
  | _ => false
/-- The scope, in the order die, device, fabric, of the drain an operation makes. -/
def HopOp.drainScope : HopOp → Nat
  | .drain s _ _ => s
  | .fence _ s _ _ => s
  | .atom _ _ _ _ _ _ s => s
  | .msarv _ _ e => e
  | .launch _ _ => 1
  | _ => 0
/-- A write that returns nothing. -/
def HopOp.writeOnly : HopOp → Bool
  | .writeBack _ _ _ => true
  | .store _ => true
  | _ => false
/-- An entry of the place's engine queue: an ordering command (R272). -/
def HopOp.queued : HopOp → Bool
  | .drain _ _ _ => true
  | .fence _ _ _ _ => true
  | _ => false

/-- Earlier in program order, or in one A-cycle the primary stream's operation of chapter 12 before the secondary's (R294). -/
def Hop.before (a b : Hop) : Bool :=
  a.time < b.time || (a.time = b.time && a.op.isAm && b.op.isAm && (if a.sec = b.sec then a.seq < b.seq else b.sec))

/-! ### The bytes of an operation -/

/-- The live heap of an address. -/
def Dev.heap? (d : Dev) (pa : Nat) : Option Heap := d.heaps.find? fun k => k.pa = pa
/-- The rows of a pool's bitmap. -/
def Dev.poolRows (d : Dev) (pa : Nat) : Nat := min (d.num (pa + 8) 4) 90112
/-- The size of the object whose header a home operation names. -/
def Dev.objSize (d : Dev) (pa : Nat) (o : HopOp) : Nat :=
  match o with
  | .atom _ size _ _ _ _ _ => size
  | .hinit cap => 64 + 8 * cap
  | .hoffer _ _ | .htake _ _ _ _ _ => 64 + 8 * (match d.heap? pa with | some k => k.cap | none => 0)
  | .balloc _ _ _ _ | .bfree _ _ _ => 64 + 16 * d.poolRows pa
  | .msarm _ _ _ _ | .msarv _ _ _ | .msbind _ _ _ | .ntreq => 16
  | .monitor _ size _ => size
  | .skjoin _ | .skleave | .launch _ _ => 64
  | .writeBack _ _ _ => 128
  | .store bs => bs.length
  | .drain _ _ _ | .fence _ _ _ _ | .consume => 0
/-- The physical ranges of a home operation of a space; a write-back's address is physical. -/
def Dev.hopRange (d : Dev) (asid : BitVec 16) (h : Hop) : List (Nat × Nat) :=
  match h.op with
  | .writeBack _ _ _ => [(h.dva.toNat, 128)]
  | o => match d.xlate asid h.dva false with
    | .ok pa _ _ => (match d.engRange asid h.dva (d.objSize pa o) false with | .ok ps => ps | _ => [(pa, min 64 (d.objSize pa o))])
    | _ => []
/-- A byte range meets one of several. -/
def meet (a n : Nat) (rs : List (Nat × Nat)) : Bool := rs.any fun r => a < r.1 + r.2 && r.1 < a + n
/-- Two sequences of byte ranges meet. -/
def meets (as rs : List (Nat × Nat)) : Bool := as.any fun a => meet a.1 a.2 rs

/-- A remote access of the acting thread to physical bytes must still wait for earlier home operations: for one that orders (R162), or
for one that meets its bytes (R166). `before` says which are earlier. -/
def Mach.heldBy (m : Mach) (before : Hop → Bool) (rs : List (Nat × Nat)) : Bool :=
  m.t.hops.any fun h => before h && (h.op.orders || meets rs (m.dev.hopRange m.t.asid h))

/-- The bytes that an unbound landing of the acting thread still has to read: physical ranges, those that translate. -/
def Mach.landRanges (m : Mach) (l : Landing) : List (Nat × Nat) :=
  let at_ := fun (a : Word) (n : Nat) => match m.coreRange a n false with | .ok ps => ps | _ => []
  match l.src with
  | .scalar a n _ => at_ a n
  | .l1 a n _ => at_ a n
  | .vec a tg => at_ a 256 ++ tg.flatMap fun t => at_ t 256
  | .table a n => at_ a (4 * n)
  | .cluster _ _ => []
  | .home => []
/-- A remote read of the acting thread that its program issued earlier and that is not bound reads some of the bytes (R166). -/
def Mach.unboundOn (m : Mach) (before : Landing → Bool) (rs : List (Nat × Nat)) : Bool :=
  m.t.land.any fun l => l.data.isNone && l.src ≠ .home && before l && meets (m.landRanges l) rs

/-- A write-back of a line that holds stores of a thread stands in the other place's order: a drain of that thread up to a cycle waits for it
(Table 8-4). -/
def Mach.strayed (m : Mach) (r : TRef) (cyc : Nat) : Bool :=
  [m.thr0, m.thr1].any fun t => t.ref ≠ r && t.hops.any fun h =>
    match h.op with | .writeBack _ _ own => own.contains r && h.cyc ≤ cyc | _ => false

/-! ### Ordering operations as they perform -/

/-- What an operation of the acting thread does beside its own effect: a drain has the invalidations acknowledged of the copies that the thread's
writes, or for an SC fence the writes it has read, have left behind (Table 8-4), and no later read uses a copy left behind (R167, R170). -/
def Mach.ordered (m : Mach) (o : HopOp) : Mach :=
  let r := m.t.ref
  let sc := match o with | .fence true _ _ _ => true | _ => false
  let m := if o.drains && 1 ≤ o.drainScope then
      m.modD fun d => d.dropCopies fun c => c.wr.contains r || (sc && c.rd.contains r)
    else m
  if o.drains || o.acquires then m.modD fun d => d.shun r m.core.die else m

end Sys2Proof.Machine
end

