-- ==== Sys2Proof/Machine/Quant.lean ====
section
/-! DEFINITION. What quantisation, compression and reduction make of bytes: conversions under FMT.RMODE (R104–R108), MX blocks (R100), exchange
blocks (R98, R285), compressed blocks (R138, R283), and the results of collectives (R288). -/

namespace Sys2Proof.Machine

/-! ### Conversions (R104–R108) -/

/-- FMT.RMODE (Table 5-6). -/
def Thr.rmode (t : Thr) : Nat := fld t.fmt 19 18
/-- FMT.SATE4. -/
def Thr.sate4 (t : Thr) : Bool := bit t.fmt 21
/-- The mode of one element of linear index `lin` (R105). -/
def Thr.mode (t : Thr) (lin : Word) : RMode :=
  match t.rmode with
  | 1 => .rz
  | 2 => .sr (noise32 t.seed (fld t.fmt 63 48) t.nrc lin / 256)
  | _ => .rne
/-- Convert a block of elements by `f`, `none` for one that is skipped, under FMT.RMODE (R104–R106). -/
def Thr.convertBy (t : Thr) (f : RMode → Fp → CvtR) (lin : Nat → Word) (xs : List (Option Fp)) : List (Option CvtR) :=
  if t.rmode = 3 then efRun (f .rne) Fp.zero xs
  else xs.zipIdx.map fun e => e.1.map fun x => f (t.mode (lin e.2)) x
/-- Convert a block of elements to a target of Table 5-8. -/
def Thr.convert (t : Thr) (k : CvtT) (lin : Nat → Word) (xs : List (Option Fp)) : List (Option CvtR) :=
  t.convertBy (cvt k t.sate4) lin xs
/-- The status of a conversion (R108). -/
def cvtStatus (rs : List (Option CvtR)) : Bool × Bool :=
  (rs.any (fun r => match r with | some r => r.nan | none => false), rs.any (fun r => match r with | some r => r.sat | none => false))

/-! ### MX blocks (R100) -/

/-- An MX element target: its floating format, or MXINT8. -/
inductive MxT where
  | flt (f : FFmt) (wd emax : Nat)
  | i8

/-- Bits per packed element. -/
def MxT.wd : MxT → Nat | .flt _ w _ => w | .i8 => 8
/-- emax_elem (R100 step 3). -/
def MxT.emax : MxT → Nat | .flt _ _ e => e | .i8 => 0
/-- Element conversion of x / 2^X (for MXINT8 times 2^6): overflow and infinity saturate, but an infinite E5M2 element stays (R100
steps 4 and 5). -/
def MxT.conv (t : MxT) (mode : RMode) (x : Fp) : CvtR :=
  match t with
  | .flt f _ _ =>
    let max_ := fun (n : Bool) => (⟨f.sgn n + f.maxCode, true, false, true, f.dec (f.sgn n + f.maxCode)⟩ : CvtR)
    match x with
    | .nan => ⟨f.qnan, false, false, true, .nan⟩
    | .inf n => if f = e5m2 then ⟨f.infCode n, false, false, true, .inf n⟩ else max_ n
    | .fin n m e =>
      if m = 0 then ⟨f.sgn n, false, false, false, .fin n 0 0⟩
      else match f.roundMag mode m e false with
        | some k => ⟨f.sgn n + k, false, false, false, f.dec (f.sgn n + k)⟩
        | none => max_ n
  | .i8 =>
    let out := fun (v : Int) (sat : Bool) => (⟨(v % 256).toNat, sat, false, sat, Fp.ofInt v⟩ : CvtR)
    match x with
    | .nan => out 0 false
    | .inf n => out (if n then -127 else 127) true
    | .fin n m e =>
      let q : Int := roundAt mode m e 0 false
      let v := if n then -q else q
      if v < -127 then out (-127) true else if 127 < v then out 127 true else out v false
/-- The element of a block whose scale is NaN (R100 step 1). -/
def MxT.nanCode : MxT → Nat | .flt f _ _ => f.qnan | .i8 => 0

/-- The largest finite magnitude of a list, as a value; zero when there is none. -/
def maxFinite (xs : List Fp) : Fp :=
  xs.foldl (fun a x => match x with | .fin _ m e => if a.lt (.fin false m e) then .fin false m e else a | _ => a) Fp.zero

/-- MX quantisation of a block (R100): the scale byte, the codes and whether anything saturated. -/
def Thr.mxBlock (t : Thr) (k : MxT) (lin : Nat → Word) (xs : List Fp) : Nat × List Nat × Bool :=
  if xs.any Fp.isNan then (0xFF, xs.map fun _ => k.nanCode, false)
  else
    let X : Int := match maxFinite xs with
      | .fin _ m e => if m = 0 then -127 else max (-127) (min 127 (floorLog2 m e - k.emax))
      | _ => -127
    let sh : Int := match k with | .i8 => 6 - X | _ => -X
    let rs := t.convertBy k.conv lin (xs.map fun x => some (x.scale sh))
    ((X + 127).toNat, rs.map fun r => match r with | some r => r.code | none => 0, (cvtStatus rs).2)

/-! ### Exchange rows (R98, R285) -/

/-- The bytes of an exchanged row (R98, R285). -/
def xrowBytes (ne : Nat) : Nat := ne / 128 * 132

/-- The exchange blocks of a row of FP32 or BF16 elements, and whether any element saturated (R98). -/
def exchangeBlocks (b16 : Bool) (ne : Nat) (bs : List Byte) : List Byte × Bool :=
  let a := bs.toArray
  let w := if b16 then 2 else 4
  let at_ := fun (i : Nat) =>
    let x := leNat ((List.range w).map fun k => a.getD (w * i + k) 0)
    if b16 then bf16.dec x else f32.dec x
  (List.range (ne / 128)).foldl (fun acc q =>
    let (e, cs, sat) := Thr.zero.mxBlock (.flt e4m3 8 8) (fun _ => 0) ((List.range 128).map fun i => at_ (128 * q + i))
    (acc.1 ++ cs.map (fun x => BitVec.ofNat 8 x) ++ [BitVec.ofNat 8 e, 0, 0, 0], acc.2 || sat)) ([], false)

/-- The poisoned exchange blocks of a row of `ne` elements of `w` bytes: those whose elements carry poison (R370). -/
def rowBad (ne w : Nat) (bad : List (Nat × Nat)) : List (Nat × Nat) :=
  ((List.range (ne / 128)).filter fun q => bad.any fun b => b.1 < 128 * w * (q + 1) && 128 * w * q < b.1 + b.2).map fun q => (132 * q, 132)

/-! ### Compression (R138, R283) -/

/-- The compressed block of 256 bytes: mask, then the non-zero bytes. -/
def packed (bs : List Byte) : List Byte :=
  let a := bs.toArray
  (List.range 32).map (fun i => BitVec.ofNat 8 ((List.range 8).foldl (fun x j => x + if a.getD (8 * i + j) 0 ≠ 0 then 2 ^ j else 0) 0)) ++
  bs.filter (· ≠ 0)
/-- Zero bytes up to a length. -/
def padTo (bs : List Byte) (n : Nat) : List Byte := bs ++ List.replicate (n - bs.length) 0
/-- The block of a mask and its bytes; bytes that the stored block does not hold are zero (R283). -/
def unpacked (bs : List Byte) : List Byte :=
  let a := bs.toArray
  ((List.range 256).foldl (fun (acc : List Byte × Nat) i =>
    if bit (a.getD (i / 8) 0) (i % 8) then (acc.1 ++ [a.getD (32 + acc.2) 0], acc.2 + 1) else (acc.1 ++ [0], acc.2)) ([], 0)).1
/-- The marker of an overflow entry. -/
def marker (i : Nat) : List Byte := List.replicate 32 0xFF ++ leBytes 4 i

/-! ### Reductions (R288) -/

/-- The selected one of two FP32 operands, a NaN canonical (R216). -/
def selF32 (isMin : Bool) (a b : Lane) : Lane := rnd (if pickFirst isMin (fp a) (fp b) then fp a else fp b)
/-- `fmin` and `fmax` of elements. -/
def selFp (isMin : Bool) (a b : Fp) : Fp := if pickFirst isMin a b then a else b

/-- The slices of SBUF and of RBUF of a collective over `p` participants (R288). -/
def collSlices (op p : Nat) : Nat × Nat := match op with | 0 => (1, 1) | 1 => (1, p) | 2 => (p, 1) | _ => (p, p)

/-- One step of a reduction on a 32-bit word (R288). -/
def reduceWord (red dt : Nat) (a b : Lane) : Lane :=
  let half16 := fun (f : Fp → Fp → Fp) =>
    let g := fun (k : Nat) => bf16.rne (f (bf16.dec (fld a (k + 15) k)) (bf16.dec (fld b (k + 15) k)))
    BitVec.ofNat 32 (g 0 + 65536 * g 16)
  match dt, red with
  | 0, 0 => fadd32 a b
  | 0, 1 => selF32 true a b
  | 0, _ => selF32 false a b
  | 1, 0 => half16 Fp.add
  | 1, 1 => half16 (selFp true)
  | 1, _ => half16 (selFp false)
  | _, 0 => a + b
  | _, 1 => if b.slt a then b else a
  | _, _ => if a.slt b then b else a
/-- The words of bytes, and back. -/
def wordsOf (bs : List Byte) : List Lane :=
  let a := bs.toArray
  (List.range (bs.length / 4)).map fun i => BitVec.ofNat 32 (leNat ((List.range 4).map fun k => a.getD (4 * i + k) 0))
/-- The bytes of words. -/
def bytesOfWords (ws : List Lane) : List Byte := ws.flatMap fun w => leBytes 4 w.toNat
/-- The left fold of slices in rank order. -/
def reduceSlices (red dt : Nat) : List (List Lane) → List Lane
  | [] => []
  | x :: xs => xs.foldl (fun acc y => List.zipWith (reduceWord red dt) acc y) x

/-- The result of rank `r` from every participant's send buffer, as slices of `nb` bytes with their poison (R288, R370). -/
def collResult (op red dt nb r : Nat) (bufs : List (List Byte × List (Nat × Nat))) : List (List Byte × Bool) :=
  let slice := fun (s : Nat) (b : List Byte × List (Nat × Nat)) =>
    ((b.1.drop (s * nb)).take nb, b.2.any fun x => x.1 < (s + 1) * nb && s * nb < x.1 + x.2)
  let fold := fun (s : Nat) =>
    let xs := bufs.map (slice s)
    (bytesOfWords (reduceSlices red dt (xs.map fun x => wordsOf x.1)), xs.any fun x => x.2)
  match op with
  | 0 => [fold 0]
  | 1 => bufs.map (slice 0)
  | 2 => [fold r]
  | _ => bufs.map (slice r)

end Sys2Proof.Machine
end

