-- ==== Sys2Proof/Machine/Moving.lean ====
section
/-! DEFINITION. Moving bytes between memory, scratchpad and cluster SRAM with their poison (R369, R370), what the segments of a command move
(R279–R282), and cancelling commands (R377, R378). -/

namespace Sys2Proof.Machine

/-- The number of segments that a command's segments events move. -/
def CmdK.segs : CmdK → Nat
  | .copy _ _ _ _ cnt _ _ => (cnt.foldl (· * ·) 1 + 4095) / 4096
  | .gath rows _ _ _ _ => rows.length
  | .scat rows _ _ _ => rows.length
  | .kvg rows _ _ _ _ => rows.length
  | .kvgLate blk _ => leNat ((blk.drop 0x24).take 4)
  | .cmpx _ _ _ n _ => n
  | .xchg _ rows _ _ _ _ _ _ => rows.length
  | .prefh _ n _ => n
  | .migr _ n _ => n
  | _ => 1
/-! ### Moving bytes with their poison (R369, R370) -/

/-- One end of a move. -/
inductive MoveSide where
  | mem (dva : Word)
  | spad (off : Nat)
  | cs (off : Nat)
  | imm (bs : List Byte)
  deriving DecidableEq, Repr

/-- Sub-ranges, as offset and length, of bytes that carry poison. -/
abbrev Bad := List (Nat × Nat)

/-- The poisoned sub-ranges of physical ranges, as offsets in their sequence. -/
def Dev.badOf (d : Dev) (ps : List (Nat × Nat)) : Bad :=
  (ps.foldl (fun (acc : Bad × Nat) p =>
    (acc.1 ++ ((pieces p.1 p.2 64).filter fun q => d.poison.contains (q.1 / 64)).map (fun q => (acc.2 + (q.1 - p.1), q.2)),
     acc.2 + p.2)) ([], 0)).1
/-- The poisoned sub-ranges of a scratchpad range or of its image. -/
def Mach.engBad (m : Mach) (r : TRef) (off n : Nat) : Bad :=
  match m.placeOf r with
  | some pl =>
    let t := (m.at_ pl).t
    ((pieces off n 16).filter fun q => t.spadPoison.contains (q.1 / 16)).map fun q => (q.1 - off, q.2)
  | none => match m.dev.savedOf r with
    | some s => match m.dev.imageRange s off n false with
      | .ok ps => m.dev.badOf ps
      | _ => []
    | none => []

/-- Poison the units that a physical range touches. -/
def Dev.poisonPa (d : Dev) (pa n : Nat) : Dev := { d with poison := (unitsOf pa n 64).foldl (fun l u => insertNat u l) d.poison }
/-- Poison the granules that a scratchpad range touches, or the units of its image. -/
def Mach.poisonSpad (m : Mach) (r : TRef) (off n : Nat) : Mach :=
  match m.placeOf r with
  | some _ => m.modRef r fun t => { t with spadPoison := (unitsOf off n 16).foldl (fun l u => insertNat u l) t.spadPoison }
  | none => match m.dev.savedOf r with
    | some s => match m.dev.imageRange s off n true with
      | .ok ps => m.modD fun d => ps.foldl (fun d p => d.poisonPa p.1 p.2) d
      | .absent _ => m.modD fun d => d.putLater none s.asid (.spoil r off n)
      | .fault _ => m
    | none => m
/-- Poison the granules that a cluster range touches. -/
def Dev.poisonCs (d : Dev) (cl off n : Nat) : Dev :=
  { d with csPoison := d.csPoison ++ ((unitsOf off n 16).map fun u => (cl, u)).filter (fun e => !d.csPoison.contains e) }

/-- What one side of a move meets: a page of memory, or of a saved thread's area, that does not translate or is not in place (R38, R153). -/
def Mach.sideRange (m : Mach) (c : Cmd) (x : MoveSide) (n : Nat) (write : Bool) : RangeR :=
  match x with
  | .mem a => m.dev.engRange c.asid a n write
  | .spad off => (match m.placeOf c.own, m.dev.savedOf c.own with
    | none, some s => m.dev.imageRange s off n write
    | _, _ => .ok [])
  | _ => .ok []
/-- What the sides of moves meet: the first page that stops them. -/
def Mach.movesRange (m : Mach) (c : Cmd) (mv : List (MoveSide × MoveSide × Nat)) : RangeR :=
  mv.foldl (fun acc x =>
    match acc with
    | .ok _ => (match m.sideRange c x.1 x.2.2 false with
      | .ok _ => m.sideRange c x.2.1 x.2.2 true
      | r => r)
    | r => r) (.ok [])
/-- A memory side of moves is homed on a stopped die (R391). -/
def Mach.sidesStop (m : Mach) (c : Cmd) (mv : List (MoveSide × MoveSide × Nat)) : Bool :=
  let on := fun (x : MoveSide) (n : Nat) (write : Bool) =>
    match m.sideRange c x n write with | .ok ps => ps.any fun p => m.dev.stops p.1 p.2 | _ => false
  mv.any fun x => on x.1 x.2.2 false || on x.2.1 x.2.2 true

/-- Read one side. -/
def Mach.readSide (m : Mach) (c : Cmd) (s : MoveSide) (n : Nat) : List Byte × Bad × Mach :=
  match s with
  | .imm bs => (bs, [], m)
  | .spad off =>
    let (bs, _, m) := m.engRead c.own off n
    (bs, m.engBad c.own off n, m)
  | .cs off =>
    let m := m.probeCs m.core.cluster off n
    (Mem.readN (nth m.dev.csram m.core.cluster) off n,
     ((pieces off n 16).filter fun q => m.dev.csPoison.contains (m.core.cluster, q.1 / 16)).map fun q => (q.1 - off, q.2), m)
  | .mem dva => match m.dev.engRange c.asid dva n false with
    | .ok ps =>
      let (bs, _, m) := m.readParts c.own ps
      (bs, m.dev.badOf ps, m)
    | _ => ([], [], m)

/-- Write one side, then poison what the bad bytes touch. -/
def Mach.writeSide (m : Mach) (c : Cmd) (s : MoveSide) (bs : List Byte) (bad : Bad) : Mach :=
  match s with
  | .imm _ => m
  | .spad off => bad.foldl (fun m b => m.poisonSpad c.own (off + b.1) b.2) (m.engWrite c.own off bs false)
  | .cs off => m.modD fun d => bad.foldl (fun d b => d.poisonCs m.core.cluster (off + b.1) b.2) (d.putCs m.core.cluster off bs false)
  | .mem dva =>
    match m.dev.engRange c.asid dva bs.length true with
    | .ok ps =>
      let m := m.writeParts c.own ps bs false false
      bad.foldl (fun m b => match m.dev.engRange c.asid (dva + BitVec.ofNat 64 b.1) b.2 true with
        | .ok qs => m.modD fun d => qs.foldl (fun d q => d.poisonPa q.1 q.2) d
        | _ => m) m
    | _ => m

/-- Make moves in order. -/
def Mach.doMoves (m : Mach) (c : Cmd) (mv : List (MoveSide × MoveSide × Nat)) : Mach :=
  mv.foldl (fun m x => let (bs, bad, m) := m.readSide c x.1 x.2.2; m.writeSide c x.2.1 bs bad) m

/-! ### Patterns (R148, R272, R274) -/

/-- The bytes a pattern of runs of `len` bytes touches: the offset of the lowest from the base, and how many bytes lie between the
lowest and the highest. -/
def span (dims : List (Nat × Int)) (len : Nat) : Int × Nat :=
  let lo := dims.foldl (fun a d => a + min 0 ((d.1 - 1 : Int) * d.2)) (0 : Int)
  let hi := dims.foldl (fun a d => a + max 0 ((d.1 - 1 : Int) * d.2)) (len : Int)
  (lo, (hi - lo).toNat)
/-- The device virtual base of a pattern that lies within one window entry. -/
def Thr.winSpan (t : Thr) (base : Word) (dims : List (Nat × Int)) (len : Nat) (rd w : Bool) : Option Word :=
  let (lo, n) := span dims len
  let a := (base.toNat : Int) + lo
  if a < 0 || (2 ^ 48 : Int) ≤ a then none
  else (t.win? (BitVec.ofNat 64 a.toNat) n rd w).map fun dva => advance dva (-lo)
/-- The pattern's dimensions. -/
def Spool.dims (s : Spool) : List (Nat × Int) := (List.range 6).map fun d => (s.cnt d, (s.f8 (0xB0 + 8 * d)).toInt)
/-- The device virtual address of vector `n` of a pattern, through its window entry. -/
def Spool.dva (s : Spool) (t : Thr) (n : Nat) : Option Word :=
  (t.winSpan (s.f8 0x88) s.dims 256 (!s.dir) s.dir).map fun base => base + (s.addr n - s.f8 0x88)


/-! ### Segments of copies and gathers (R279–R282) -/

/-- The displacement of a run of a copy: digits of the run's number under the counts of dimensions 1 and up. -/
def runDisp : List Nat → List Int → Nat → Int
  | n :: ns, s :: ss, q => (q % max n 1 : Nat) * s + runDisp ns ss (q / max n 1)
  | _, _, _ => 0
/-- A side of a copy. -/
def copySide (kind : Nat) (base : Word) (d : Int) : MoveSide :=
  match kind with
  | 0 => .mem (advance base d)
  | 1 => .spad ((base.toNat : Int) + d).toNat
  | _ => .cs ((base.toNat : Int) + d).toNat

/-- A coordinate record (v, 0, 0, 0) as bytes (R281). -/
def recBytes (v : Nat) : List Byte := leBytes 4 v ++ List.replicate 12 0
/-- A vacant record as bytes. -/
def vacantBytes : List Byte := (List.replicate 4 (leBytes 4 0x80000000)).flatten
/-- A gathered row with its record. -/
def gatherRow (row : Option Word × Nat) (r loc lstr n : Nat) (ro : Option Nat) : List (MoveSide × MoveSide × Nat) :=
  (match row.1 with | some a => [(.mem a, .spad (loc + r * lstr), n)] | none => []) ++
  (match ro with
    | some o => [(.imm (match row.1 with | some _ => recBytes row.2 | none => vacantBytes), .spad (o + 16 * r), 16)]
    | none => [])

/-- What a segment moves; of a block that is compressed or expanded, its two ends with the bytes that it writes. -/
def CmdK.moves (k : CmdK) (seg : Nat) : List (MoveSide × MoveSide × Nat) :=
  match k with
  | .cmpx exp so co _ size =>
    let s := MoveSide.spad (so + 256 * seg)
    let z := MoveSide.cs (co + size * seg)
    if exp then [(z, s, 256)] else [(s, z, size)]
  | .copy sk dk src dst cnt ss ds =>
    let total := cnt.foldl (· * ·) 1
    let n0 := max (cnt.headD 1) 1
    (pieces (4096 * seg) (min 4096 (total - 4096 * seg)) n0).map fun p =>
      let o : Int := (p.1 % n0 : Nat)
      (copySide sk src (o + runDisp cnt.tail ss (p.1 / n0)), copySide dk dst (o + runDisp cnt.tail ds (p.1 / n0)), p.2)
  | .gath rows loc lstr n ro => match rows[seg]? with | some x => gatherRow x seg loc lstr n ro | none => []
  | .kvg rows loc lstr n ro => match rows[seg]? with | some x => gatherRow x seg loc lstr n ro | none => []
  | .scat rows loc lstr n => match rows[seg]? with | some (some a) => [(.spad (loc + seg * lstr), .mem a, n)] | _ => []
  | _ => []

/-- The granules of the scratchpad that moves write. -/
def granulesOf (mv : List (MoveSide × MoveSide × Nat)) : List Nat :=
  mv.foldl (fun l x => match x.2.1 with
    | .spad off => (unitsOf off x.2.2 16).foldl (fun l u => insertNat u l) l
    | _ => l) []

/-- One side of a move, `k` bytes on. -/
def MoveSide.shift (x : MoveSide) (k : Nat) : MoveSide :=
  match x with
  | .mem a => .mem (a + BitVec.ofNat 64 k) | .spad o => .spad (o + k) | .cs o => .cs (o + k) | .imm bs => .imm (bs.drop k)
/-- Where a side stands against the granules. -/
def MoveSide.base : MoveSide → Nat | .mem a => a.toNat | .spad o => o | .cs o => o | .imm _ => 0
/-- Moves granule by granule of the destination: the pieces that land on their own (R165). -/
def grainsOf (mv : List (MoveSide × MoveSide × Nat)) : List (MoveSide × MoveSide × Nat) :=
  mv.flatMap fun x =>
    let b := x.2.1.base
    (pieces b x.2.2 16).map fun p => (x.1.shift (p.1 - b), x.2.1.shift (p.1 - b), p.2)
/-- What is left of moves of a command some of whose granules have landed, recorded under a number. -/
def Cmd.leftOf (c : Cmd) (n : Nat) (mv : List (MoveSide × MoveSide × Nat)) : List (MoveSide × MoveSide × Nat) :=
  if !c.early.any (fun e => e.1 = n) then mv
  else (grainsOf mv).zipIdx.filterMap fun x => if c.early.contains (n, x.2) then none else some x.1
/-- What is left of a segment some of whose granules have landed. -/
def Cmd.left (c : Cmd) (seg : Nat) : List (MoveSide × MoveSide × Nat) := c.leftOf seg (c.kind.moves seg)
/-- The granules of `ps` among moves that have not landed yet: their pieces, and the command once they have. -/
def Cmd.takeEarly (c : Cmd) (n : Nat) (mv : List (MoveSide × MoveSide × Nat)) (ps : List Nat) : List (MoveSide × MoveSide × Nat) × Cmd :=
  let grains := grainsOf mv
  let new := (ps.filter fun k => k < grains.length && !c.early.contains (n, k)).eraseDups
  (new.filterMap fun k => grains[k]?, { c with early := c.early ++ new.map fun k => (n, k) })

/-! ### Signals of a command (R273) -/

/-- The owner of a command's steps. -/
def Cmd.owner (c : Cmd) : Owner := some (c.own, c.seq, c.time)
/-- The owner of a home operation's steps. -/
def Hop.owner (h : Hop) (r : TRef) : Owner := some (r, h.seq, h.time)
/-- Poison a command's milestone. -/
def Mach.poisonCmd (m : Mach) (c : Cmd) (cause : Nat) : Mach :=
  match c.sig.ms with | some a => m.msPoisonV c.owner c.asid a cause | none => m
/-- The flag of a command. -/
def Mach.flagCmd (m : Mach) (c : Cmd) : Mach :=
  match c.sig.flag with | some f => m.flagAfter c.owner c.asid c.own f | none => m
/-- An exchange with another device. -/
def CmdK.abroad : CmdK → Bool
  | .xchg _ _ _ ddev _ _ _ _ => ddev ≠ 0xFFFFFFFF && ddev % 4096 ≠ Config.deviceNo % 4096
  | _ => false

/-! ### Blocks (R138, R283) -/

/-- The block of a segment of `cmpx` as its destination takes it, and whether it carries poison; `.error` with what was read, of one that lands only as
a whole: a compression that needs an overflow entry, or an expansion whose marker names none. -/
def Mach.cmpBlock (m : Mach) (c : Cmd) (seg : Nat) : Except (List Byte × Bool) (List Byte × Bool) × Mach :=
  match c.kind with
  | .cmpx true _ co _ size =>
    let (bs, bad, m) := m.readSide c (.cs (co + size * seg)) size
    let poisoned := !bad.isEmpty
    (if bs.take 32 = List.replicate 32 0xFF then
      match (nth m.dev.ovf m.core.cluster).find? fun e => e.1 = leNat ((bs.drop 32).take 4) with
      | some e => .ok (e.2, poisoned)
      | none => .error (bs, poisoned)
    else .ok (unpacked bs, poisoned), m)
  | .cmpx false so _ _ size =>
    let (bs, bad, m) := m.readSide c (.spad (so + 256 * seg)) 256
    let p := packed bs
    (if p.length ≤ size then .ok (padTo p size, !bad.isEmpty) else .error (bs, !bad.isEmpty), m)
  | _ => (.error ([], false), m)
/-- The bytes of a block at a piece of its destination, which begins at `base`. -/
def blockPart (bs : List Byte) (base : Nat) (x : MoveSide × MoveSide × Nat) : List Byte := (bs.drop (x.2.1.base - base)).take x.2.2
/-- Where the destination of a segment's only move begins. -/
def CmdK.blockBase (k : CmdK) (seg : Nat) : Nat := match k.moves seg with | [x] => x.2.1.base | _ => 0
/-- Pieces of a block land: poison spreads over a whole block. -/
def Mach.putBlock (m : Mach) (c : Cmd) (seg : Nat) (bs : List Byte × Bool) (mv : List (MoveSide × MoveSide × Nat)) : Mach :=
  (mv.foldl (fun m x => m.writeSide c x.2.1 (blockPart bs.1 (c.kind.blockBase seg) x) (if bs.2 then [(0, x.2.2)] else [])) m).engFull c.own (granulesOf mv)

/-! ### What segments in motion write (R377, R378) -/

/-- Bytes that a command is about to write over a range of cluster SRAM, memory or scratchpad, with those that carry poison. -/
structure Landed where
  cl : Nat
  dst : MoveSide
  bs : List Byte
  bad : Bad

/-- Moves as what they are about to write. -/
def Mach.movesLand (m : Mach) (c : Cmd) (mv : List (MoveSide × MoveSide × Nat)) : List Landed × Mach :=
  match m.movesRange c mv with
  | .ok _ => mv.foldl (fun acc x =>
      let (bs, bad, m) := acc.2.readSide c x.1 x.2.2
      (acc.1 ++ [⟨m.core.cluster, x.2.1, bs, bad⟩], m)) ([], m)
  | _ => ([], m)
/-- The vector of a spool's pattern that a slot takes or gives. -/
def Mach.spoolMove (m : Mach) (x : Spool) (n : BitVec 32) : List (MoveSide × MoveSide × Nat) :=
  if x.handle || (x.dir && x.skip.contains n.toNat) then []
  else match x.dva m.t n.toNat with
    | some a => if x.dir then [(.spad (x.slotOff n), .mem a, 256)] else [(.mem a, .spad (x.slotOff n), 256)]
    | none => []
/-- What the segments of a started command that are in motion are about to write. -/
def Mach.inMotion (m : Mach) (c : Cmd) : List Landed × Mach :=
  let open_ := (List.range c.kind.segs).filter fun k => !c.done.contains k
  if !c.started then ([], m)
  else match c.kind with
  | .copy _ _ _ _ _ _ _ | .gath _ _ _ _ _ | .scat _ _ _ _ | .kvg _ _ _ _ _ =>
    open_.foldl (fun acc k => let (l, m) := acc.2.movesLand c (c.left k); (acc.1 ++ l, m)) ([], m)
  | .cmpx _ _ _ _ _ => open_.foldl (fun acc k =>
      match acc.2.movesRange c (c.kind.moves k) with
      | .ok _ => (match acc.2.cmpBlock c k with
        | (.ok (bs, bad), m) => (acc.1 ++ (c.left k).map fun x =>
            ⟨m.core.cluster, x.2.1, blockPart bs (c.kind.blockBase k) x, if bad then [(0, x.2.2)] else []⟩, m)
        | (.error _, m) => (acc.1, m))
      | _ => acc) ([], m)
  | .xchg b16 rows ne _ dcl doff dstr _ =>
    if c.kind.abroad then ([], m)
    else (open_.filter fun k => !c.ans.any fun e => e.1 = k).foldl (fun acc k =>
      match c.rows.find? fun e => e.1 = k with
      | some e => (acc.1 ++ [⟨dcl, .cs (doff + k * dstr), e.2.1, e.2.2⟩], acc.2)
      | none =>
        let w := if b16 then 2 else 4
        let src := MoveSide.mem (rows.getD k 0)
        match acc.2.movesRange c [(src, .cs 0, ne * w)] with
        | .ok _ =>
          let (bs, bad, m) := acc.2.readSide c src (ne * w)
          (acc.1 ++ [⟨dcl, .cs (doff + k * dstr), (exchangeBlocks b16 ne bs).1, rowBad ne w bad⟩], m)
        | _ => acc) ([], m)
  | .coll op red dt _ _ rb nb => (match m.dev.insts.find? fun i => i.cmds.any fun e => e.2 = c.id with
    | none => ([], m)
    | some i =>
      let ns := (collSlices op i.p).1 * nb
      let all := i.parts.map fun r =>
        match i.far.find? fun e => e.1 = r with
        | some e => some (Sum.inl (e.2.1, if e.2.2 then [(0, ns)] else ([] : Bad)))
        | none => match (i.cmds.find? fun e => e.1 = r).bind fun e => m.dev.cmds.find? fun x => x.id = e.2 with
          | some x => (match x.kind with | .coll _ _ _ _ sb _ _ => some (Sum.inr (x, sb)) | _ => none)
          | none => none
      if i.poisoned || all.any Option.isNone then ([], m)
      else
        let (bufs, m) := (all.filterMap id).foldl (fun (acc : List (List Byte × Bad) × Mach) x =>
          match x with
          | .inl b => (acc.1 ++ [b], acc.2)
          | .inr (x, sb) => let (bs, bad, m) := acc.2.readSide x (.mem sb) ns; (acc.1 ++ [(bs, bad)], m)) (([] : List (List Byte × Bad)), m)
        let out := collResult op red dt nb (i.parts.idxOf c.own) bufs
        ([⟨m.core.cluster, .mem rb, out.flatMap fun x => x.1, (out.zipIdx.filter fun x => x.1.2).map fun x => (x.2 * nb, nb)⟩], m))
  | .wind sp =>
    let x := nth m.t.spools sp.val
    if (m.placeOf c.own).isNone || x.pos ≠ c.seq then ([], m)
    else
      let ns := if x.dir then (List.range x.filled).map fun k => x.rpos + BitVec.ofNat 32 k
        else (List.range (min (x.nslot - x.filled) (x.total - x.next.toNat))).map fun k => x.next + BitVec.ofNat 32 k
      ns.foldl (fun acc n => let (l, m) := acc.2.movesLand c (c.leftOf n.toNat (acc.2.spoolMove x n)); (acc.1 ++ l, m)) ([], m)
  | .unwindSp _ x =>
    if (m.placeOf c.own).isNone then ([], m)
    else ((List.range x.filled).map fun k => x.rpos + BitVec.ofNat 32 k).foldl (fun acc n =>
      let (l, m) := acc.2.movesLand c (acc.2.spoolMove x n); (acc.1 ++ l, m)) ([], m)
  | _ => ([], m)

/-- Each byte that a cancelled segment would have written holds its old value or the command's, and its poison with it; the granules of the
scratchpad that it has filled are full, which ones is open (R377, R378). -/
def Mach.mixLanded (m : Mach) (c : Cmd) (x : Landed) : Mach :=
  let n := x.bs.length
  match m.sideRange c x.dst n true with
  | .ok _ =>
    let there := { m with core := { m.core with num := 8 * x.cl + m.core.num % 8 } }
    let (old, bad, _) := there.readSide c x.dst n
    let f := m.dev.free
    let m := m.modD fun d => { d with free := d.free + n + n / 16 + 1 }
    let new := fun (i : Nat) => Config.freeChoice (f + i) % 2 = 0
    let a := x.bs.toArray
    let b := old.toArray
    let bs := (List.range n).map fun i => if new i then a.getD i 0 else b.getD i 0
    let within := fun (l : Bad) (i : Nat) => l.any fun r => r.1 ≤ i && i < r.1 + r.2
    let bad := ((List.range n).filter fun i => if new i then within x.bad i else within bad i).map fun i => (i, 1)
    match x.dst with
    | .cs off => m.modD fun d => bad.foldl (fun d b => d.poisonCs x.cl (off + b.1) b.2) (d.putCs x.cl off bs false)
    | .spad off => (m.writeSide c x.dst bs bad).engFull c.own
        (((unitsOf off n 16).zipIdx.filter fun g => Config.freeChoice (f + n + g.2) % 2 = 0).map fun g => g.1)
    | _ => m.writeSide c x.dst bs bad
  | _ => m
/-- The segments of a started command that are in motion stop. -/
def Mach.mixCmd (m : Mach) (c : Cmd) : Mach :=
  let (ls, m) := m.inMotion c
  ls.foldl (fun m x => m.mixLanded c x) m

/-! ### Cancelling commands (R378) -/

/-- The milestone at the destination that an exchange on this device counts down. -/
def CmdK.dms : CmdK → Option Word
  | .xchg b r n d cl o s dms => if dms = 0 || (CmdK.xchg b r n d cl o s dms).abroad then none else some dms
  | _ => none
/-- Cancel a command: the milestones it counts down complete poisoned with CANCEL, its flag is set; a collective that counted it is poisoned. -/
def Mach.cancel (m : Mach) (c : Cmd) : Mach :=
  let m := m.mixCmd c
  let m := m.modD fun d =>
    { d with
      cmds := d.cmds.filter fun x => x.id ≠ c.id
      retryAt := d.retryAt.filter fun e => e.1 ≠ c.id
      insts := d.insts.map fun i =>
        if i.cmds.any fun e => e.2 = c.id then
          { i with parts := i.parts.filter (· ≠ c.own), cmds := i.cmds.filter (fun e => e.2 ≠ c.id), poisoned := true } else i }
  let m := m.modC fun k => { k with layby := k.layby.filter fun e => e.cmd ≠ c.id }
  let m := m.modRef c.own fun t => { t with land := t.land.filter fun l => l.dst ≠ .table c.id }
  let m := m.poisonCmd c 8
  let m := match c.kind.dms with | some a => m.msPoisonV c.owner c.asid a 8 | none => m
  m.flagCmd c
/-- Cancel a queued drain or fence. -/
def Mach.cancelOrder (m : Mach) (h : Hop) : Mach :=
  let r := m.t.ref
  let asid := m.t.asid
  let out := fun (m : Mach) (f : Option (Fin 32)) (ms : Option (Word × Bool)) =>
    let m := m.modT fun t => { t with hops := t.hops.erase h }
    let m := match ms with | some (a, _) => m.msPoisonV (h.owner r) asid a 8 | none => m
    match f with | some f => m.flagAfter (h.owner r) asid r f | none => m
  match h.op with
  | .drain _ f ms => out m f ms
  | .fence _ _ f ms => out m f ms
  | _ => m
/-- The commands of a region: those issued after its queue position (R375). -/
def Mach.cancelSince (m : Mach) (pos : Nat) : Mach :=
  let r := m.t.ref
  let m := (m.dev.cmds.filter fun c => c.own = r && pos ≤ c.seq).foldl (fun m c => m.cancel c) m
  (m.t.hops.filter fun h => pos ≤ h.seq).foldl (fun m h => m.cancelOrder h) m

end Sys2Proof.Machine
end

