-- ==== Sys2Proof/Machine/Bundle.lean ====
section
/-! DEFINITION. A bundle from its first move to its boundary: the bundle in progress, what it comes to (R337, R338), its step-2
writes at the boundary (R73, R188), taking a trap for it (R339, R340), its stall (R87, R190), and the A-cycle that passes (R17, R26). -/

namespace Sys2Proof.Machine

/-- The bundle of the acting stream as it starts. -/
def Mach.start (m : Mach) : Issue where
  now := m
  trap := none
  priv := none
  stall := none
  freeze := false
  waitFor := []
  setF := 0
  clrF := 0
  setS := 0
  clrS := 0
  jump := none
  wroteS63 := false
  isWait := false
  flagG := []
  wayp := false
  dualSet := none
  halt := none
  brk := none
  abort := none
  eaten := []
  popped := []
  pushed := []

/-- What a bundle comes to. -/
inductive Verdict where
  | go
  | trap (r : TrapRec)
  | stall (h : Hold)
  | freeze
  deriving DecidableEq, Repr

/-- Privilege checks come before stalls, operation checks after them (R337, R338); a bundle that would issue may find the core
frozen instead. -/
def Issue.verdict (b : Issue) : Verdict :=
  match b.priv with
  | some r => .trap r
  | none => match b.stall with
    | some h => .stall h
    | none => match b.trap with
      | some r => .trap r
      | none => if b.freeze then .freeze else .go

/-! ### The boundary after a bundle -/

/-- The acting stream goes on: to a taken branch's target after its gap, else to the next bundle (R180, R181); its `dual` window
counts the bundle (R122). -/
def Issue.commitStream (b : Issue) : Mach :=
  let time := b.now.t.time
  b.now.modSt fun x =>
    let x := { x with hold := .none, tau := none, drem := match b.dualSet with | some n => n | none => x.drem - 1 }
    match b.jump with
    | some (pc, g) => { x with pc := fetchAt pc, gap := time + 1 + g }
    | none => { x with pc := x.pc + 1, gap := 0 }

/-- A `secgo` that waited for the secondary's bundle takes effect; one that found it stopped by that bundle is dropped (R200). -/
def Thr.doRestart (t : Thr) : Thr :=
  match t.restart with
  | none => t
  | some pc =>
    if t.sec.stopped then { t with restart := none }
    else { t with restart := none, sec := { t.sec with pc := fetchAt pc, gap := 0, hold := .none, tau := none } }

/-- A waypoint is reached (R35): a halt-together request halts the thread (R47), which comes before a pre-emption, as any debug halt of the same
waypoint does (R50); `brk` says that the bundle it stands before has a breakpoint. A standing pre-emption request, or a `launchw`, stops the
thread for its save (R37, R199, R315). -/
def Thr.waypoint (t : Thr) (milepost : Nat) (brk : Bool) : Thr :=
  if t.status ≠ .running then t
  else if t.halted ≠ none then { t with wayp := 0 }
  else if t.haltReq then { t with wayp := 0, halted := some .peer, haltReq := false }
  else if (t.preq || t.park) && !brk then { t with wayp := 0, status := .saving, saveFrom := milepost }
  else { t with wayp := 0 }
/-- The acting stream stands before a bundle with a breakpoint of its launch that has not halted it yet (R45, R339). -/
def Mach.streamBreak (m : Mach) : Bool :=
  !m.st.stopped && m.dev.dbg.attached.contains m.t.ref.launch && m.dev.dbg.bps.contains (m.t.ref.launch, m.st.pc.toNat) &&
    !m.dev.dbg.skip.contains (m.cur, m.t.ref, m.st.pc.toNat)
/-- A stream of the acting thread stands before such a bundle. -/
def Mach.breakNext (m : Mach) : Bool := m.streamBreak || (m.t.paired && ((m.at_ .p0).streamBreak || (m.at_ .p1).streamBreak))
/-- The acting thread reaches a waypoint. -/
def Mach.atWaypoint (m : Mach) : Mach :=
  let brk := m.breakNext
  m.modT fun t => t.waypoint m.dev.milepost brk

/-- The boundary after a bundle that executes: FLAGS and STAT, of which a status event of this A-cycle stays (R188, R108), `halt` (R194), `crabort` (R204). -/
def Issue.commit (b : Issue) : Mach :=
  let m := b.commitStream
  let m := m.modT fun t =>
    { t.withFlags (stepBits t.flags b.setF b.clrF) with stat := stepBits t.stat b.setS b.clrS ||| t.statNow, statNow := 0 }
  let m := match b.abort with
    | some id => m.modT fun t => { t with unw := t.unw ++ [⟨0x85, id, none, 0, t.time⟩] }
    | none => m
  match b.halt with
  | some code => if m.isSec then m.modSt Strm.stop else m.modT fun t => t.startEnd code none
  | none => m

/-- `brkp` halts the thread at the boundary after its bundle when a debugger is attached (R211). -/
def Issue.breakAfter (b : Issue) (m : Mach) : Mach :=
  match b.brk with
  | some tag => if m.dev.dbg.attached.contains m.t.ref.launch then m.modT fun t => { t with halted := some (.brkp tag) } else m
  | none => m

/-! ### Traps and stalls of a bundle -/

/-- A trap word is delivered to the acting thread: the commands of the region whose handler is entered are cancelled (R340, R376). -/
def Mach.deliverTrap (m : Mach) (word addr : Word) (attached : Bool) : Mach :=
  let m := match m.t.regions with | g :: _ => if attached then m else m.cancelSince g.pos | [] => m
  m.takeTrap word addr m.t.time attached
/-- The acting stream's bundle traps (R339–R342): nothing of the bundle remains. -/
def Mach.trapped (m : Mach) (r : TrapRec) : Mach :=
  m.deliverTrap (trapWord r.cause r.slot r.frm m.isSec r.id r.code) (bundleAddr m.st.pc m.isSec) (m.dev.dbg.attached.contains m.t.ref.launch)

/-- The stall is a waypoint: an unsatisfied wait bundle, or a launch that waits for room (R35). -/
def Hold.isWaypoint : Hold → Bool
  | .waiting _ => true
  | .full => true
  | _ => false

/-- The acting stream's bundle waits whole. τ is the time at which the bundle would have issued had no result interlock held it; it stands until the
bundle issues (R87). -/
def Mach.stalled (m : Mach) (h : Hold) : Mach :=
  m.modSt fun x => { x with hold := h, tau := if h = .interlock then some (x.tau.getD m.t.time) else x.tau }

/-! ### The A-cycle (R17, R19, R21, R26) -/

/-- Thread time passes while the thread is placed, not halted and not being saved; the waypoint counter with it (R26, R352). -/
def Thr.tick (t : Thr) : Thr :=
  let t := { t with statNow := 0 }
  match t.status with
  | .running => if t.halted = none then { t with time := t.time + 1, wayp := t.wayp + 1 } else t
  | .ending _ _ => if t.halted = none then { t with time := t.time + 1 } else t
  | _ => t

/-- The milepost counter counts reference cycles, less one that the time service holds, more one that it adds (R17, R19). -/
def Dev.mileposts (d : Dev) (n : Nat) : Dev :=
  { d with milepost := d.milepost + n - (if d.mpHold then 1 else 0) + (if d.mpMore then 1 else 0), mpHold := false, mpMore := false }
/-- One A-cycle of a die in reference cycles: 4,000 MHz over the die's arithmetic clock, the part of a reference cycle that earlier ones left over, which is
counted in parts of the clock it was left by, carried on (R17, R21). -/
def Dev.clock (d : Dev) (die : Nat) : Dev :=
  let f := max (nth d.pwr die).aclk.toNat 1
  let acc := d.mpFrac * f / max d.mpClk 1 + 4000
  { d.mileposts (acc / f) with mpFrac := acc % f, mpClk := f, acyc := d.acyc + 1 }

/-- The core's A-cycle passes: thread time of both places, the core's own count, the milepost counter. -/
def Mach.tick (m : Mach) : Mach :=
  { m with
    thr0 := m.thr0.tick
    thr1 := m.thr1.tick
    core := { m.core with cyc := m.core.cyc + 1 }
    dev := m.dev.clock m.core.die }

/-- An A-cycle in which the core is frozen (R139): only the milepost counter and the occupancy of `ls` (R208) run on. -/
def Mach.frozenCycle (m : Mach) : Mach :=
  { m with
    core := { m.core with frozen := true, lsFree := if m.core.cyc < m.core.lsFree then m.core.lsFree - 1 else m.core.lsFree }
    dev := m.dev.clock m.core.die }

/-- The end of the cycle in which the acting stream's bundle came to its verdict, and the waypoint after it. -/
def Issue.finish (b : Issue) (pre : Mach) : Mach :=
  match b.verdict with
  | .freeze => (pre.modD fun d => b.waitFor.foldl (fun d a => d.waitPage pre.t.asid a) d).frozenCycle
  | .trap r => (pre.trapped r).tick
  | .stall h =>
    let m := (pre.stalled h).tick
    if h.isWaypoint && !m.isSec then m.atWaypoint else m
  | .go =>
    let m := b.commit
    let m := b.breakAfter (if m.isSec then m.modT Thr.doRestart else m).tick
    if b.wayp && !m.isSec then m.atWaypoint else m

/-! ### Meanings of slots and of the device's steps -/

/-- A slot's meaning: within a bundle it adds to the bundle in progress; alone it is a bundle of its own, from its checks to its
boundary. -/
def slot (f : Mach → Issue → Issue) (s : State) : Host.Outcome State Fault Refusal :=
  match s.issue with
  | some b => .next { s with issue := some (f s.m b) }
  | none => .next { s with m := (f s.m s.m.start).finish s.m }

/-- A step of the device: whole and indivisible (chapter 95). -/
def event (f : Mach → Mach) (s : State) : Host.Outcome State Fault Refusal := .next { s with m := f s.m }

end Sys2Proof.Machine
end

