-- ==== Sys2Proof/Machine/Control.lean ====
section
/-! DEFINITION. Control (chapter 09): branches and calls, loops, flags and waits, halt and trap, prefix and FMT, next-tile requests,
the secondary stream, skeins and containment regions. -/

namespace Sys2Proof.Machine

/-- A trigger of `seq` with its operand count. -/
def seqOp (g : Grd) (src : Src) (nops : Nat) (op : Ctx → Issue → Issue) (s : State) : Host.Outcome State Fault Refusal :=
  slot (fun pre b => trigger pre b g src .seq nops op) s

/-- A bundle index lies in the section of a stream (R67). -/
def Thr.inSection (t : Thr) (sec : Bool) (x : Word) : Bool :=
  if sec then t.kern.nprim.toNat ≤ x.toNat && x.toNat < t.kern.nprim.toNat + t.kern.nsec.toNat
  else x.toNat < t.kern.nprim.toNat

/-- A taken branch (R180, R181): the next bundle issues at i + 3. -/
def Issue.branch (b : Issue) (target : Word) : Issue := { b with jump := some (target, 2) }
/-- The link of a call (R180, R183); a move of the bundle to s63 remains over it. -/
def Issue.linkS63 (b : Issue) (pre : Mach) : Issue :=
  if b.wroteS63 then b else b.modT fun t => { t with s := t.s.set 63 (linkOf pre.st.loops.length pre.st.pc) }

/-! ### Branches and calls (R180–R183) -/

/-- BR (R180). -/
def execBr (g : Grd) (src : Src) (s : State) : Host.Outcome State Fault Refusal :=
  seqOp g src 1 (fun c b => b.branch c.v.word) s
/-- BRC (R180): taken when o1 is not 0. -/
def execBrc (g : Grd) (src : Src) (s : State) : Host.Outcome State Fault Refusal :=
  seqOp g src 2 (fun c b => if b.sl .seq 0 = 0 then b else b.branch c.v.word) s
/-- BRX (R180). -/
def execBrx (g : Grd) (src : Src) (s : State) : Host.Outcome State Fault Refusal :=
  seqOp g src 1 (fun c b => b.branch (c.pre.st.pc + c.v.word)) s
/-- CALL (R180). -/
def execCall (g : Grd) (src : Src) (s : State) : Host.Outcome State Fault Refusal :=
  seqOp g src 1 (fun c b => (b.linkS63 c.pre).branch c.v.word) s
/-- CALLX (R180). -/
def execCallx (g : Grd) (src : Src) (s : State) : Host.Outcome State Fault Refusal :=
  seqOp g src 1 (fun c b => (b.linkS63 c.pre).branch (c.pre.st.pc + c.v.word)) s
/-- RET (R183): loop levels the callee left open are popped. -/
def execRet (g : Grd) (src : Src) (s : State) : Host.Outcome State Fault Refusal :=
  seqOp g src 1 (fun c b =>
    let v := c.v.word
    let d := fld v 58 56
    if c.pre.st.loops.length < d then b.trapAt c.slot 0x0E
    else (b.modSt fun x => { x with loops := x.loops.take d }).branch (zx v 56)) s

/-! ### Hardware loops (R34, R184–R186) -/

/-- LOOP (R184). -/
def execLoop (g : Grd) (src : Src) (s : State) : Host.Outcome State Fault Refusal :=
  seqOp g src 2 (fun c b =>
    let e := c.v.word
    let count := (b.sl .seq 0).setWidth 32
    let st := c.pre.st
    if e.toNat < st.pc.toNat + 1 || !c.pre.t.inSection c.pre.isSec e then b.trapAt c.slot 0x0D
    else if count = 0 then b.branch (e + 1)
    else if 6 ≤ st.loops.length then b.trapAt c.slot 0x0C
    else b.modSt fun x => { x with loops := x.loops ++ [⟨0, count, st.pc + 1, e⟩] }) s
/-- LEND (R185): the boundary after it is a waypoint. -/
def execLend (g : Grd) (src : Src) (s : State) : Host.Outcome State Fault Refusal :=
  seqOp g src 1 (fun c b =>
    let st := c.pre.st
    match st.loops.getLast? with
    | none => b.trapAt c.slot 0x0D
    | some l =>
      if c.v.word.toNat + 1 ≠ st.loops.length || st.pc ≠ l.stop then b.trapAt c.slot 0x0D
      else
        let b := { b with wayp := true }
        if l.idx.toNat + 1 < l.cnt.toNat then
          { b.modSt fun x => { x with loops := x.loops.dropLast ++ [{ l with idx := l.idx + 1 }] } with jump := some (l.start, 0) }
        else b.modSt fun x => { x with loops := x.loops.dropLast }) s
/-- LBRK (R186). -/
def execLbrk (g : Grd) (src : Src) (s : State) : Host.Outcome State Fault Refusal :=
  seqOp g src 1 (fun c b =>
    match c.pre.st.loops[c.v.word.toNat]? with
    | none => b.trapAt c.slot 0x0D
    | some l => (b.modSt fun x => { x with loops := x.loops.take c.v.word.toNat }).branch (l.stop + 1)) s

/-! ### Flags and waiting (R187–R192) -/

/-- FSET (R187). -/
def execFset (g : Grd) (src : Src) (s : State) : Host.Outcome State Fault Refusal :=
  seqOp g src 1 (fun c b => b.setFlags (c.v.word.setWidth 32)) s
/-- FCLR (R187). -/
def execFclr (g : Grd) (src : Src) (s : State) : Host.Outcome State Fault Refusal :=
  seqOp g src 1 (fun c b => b.clrFlags (c.v.word.setWidth 32)) s

/-- A flag guard holds (R190). -/
def flagHolds (flags : BitVec 32) (e : Nat × Nat × Bool) : Bool := bit flags e.2.1 != e.2.2
/-- A wait bundle is ready (R190): its flag-guarded slots, FLAGS, the wait value. -/
def waitReady (gs : List (Nat × Nat × Bool)) (flags : BitVec 32) (v : Word) : Bool :=
  if bit v 8 then gs.isEmpty || gs.any (flagHolds flags) else gs.all (flagHolds flags)
/-- The flags a wait bundle consumes as it issues (R190). -/
def waitConsumes (gs : List (Nat × Nat × Bool)) (flags : BitVec 32) (v : Word) : BitVec 32 :=
  gs.foldl (fun acc e =>
    if flagHolds flags e && !e.2.2 && !bit v (e.1 - 1) then acc ||| BitVec.ofNat 32 (2 ^ e.2.1) else acc) 0
/-- Queue a home operation of the acting thread in its outbound order (R162). -/
def Issue.hop (b : Issue) (dva : Word) (op : HopOp) : Issue :=
  let sec := b.now.isSec
  let cyc := b.now.core.cyc
  b.modT fun t => { t with seq := t.seq + 1, hops := t.hops ++ [⟨t.seq, t.time, cyc, sec, dva, op⟩] }
/-- An acquiring event in a bundle (Table 8-4): it holds later accesses until every earlier remote read is bound; with none outstanding it has
performed. -/
def Issue.consume (b : Issue) (pre : Mach) : Issue :=
  let t := pre.t
  if t.hops.any (fun h => h.time < t.time && !h.op.writeOnly) || t.land.any (fun l => l.issued < t.time && l.data.isNone) then b.hop 0 .consume
  else b.modD fun d => d.shun t.ref pre.core.die

/-- WAIT (R189, R190): an unready bundle stalls; a ready one consumes its flags, each an acquiring event. -/
def execWait (g : Grd) (src : Src) (s : State) : Host.Outcome State Fault Refusal :=
  seqOp g src 1 (fun c b =>
    let v := c.v.word
    if !waitReady b.flagG c.pre.t.flags v then b.stallBy (.waiting [])
    else
      let k := waitConsumes b.flagG c.pre.t.flags v
      let b := b.clrFlags k
      if k = 0 then b else b.consume c.pre) s

/-- WAITA (R192): a monitor on an aligned word of one window entry that allows reads. -/
def execWaita (g : Grd) (src : Src) (s : State) : Host.Outcome State Fault Refusal :=
  seqOp g src 3 (fun c b =>
    let a := b.sl .seq 0
    let v := c.v.word
    let size := if bit v 8 then 8 else 4
    if a.toNat % size ≠ 0 then b.trapAt c.slot 0x07
    else match c.pre.t.win? a size true false with
      | none => b.trapAt c.slot 0x08
      | some dva => b.hop dva (.monitor (Fin.ofNat 32 (fld v 4 0)) size (zx (b.sl .seq 1) (8 * size)))) s

/-! ### Halt, trap, prefix, FMT (R194–R197) -/

/-- HALT (R194): ends the thread, or stops the secondary stream, at the bundle's boundary. -/
def execHalt (g : Grd) (src : Src) (s : State) : Host.Outcome State Fault Refusal :=
  seqOp g src 1 (fun c b => { b with halt := some (c.v.word.setWidth 8) }) s
/-- TRAP (R195): cause SWTRAP with code v[15:0]. -/
def execTrap (g : Grd) (src : Src) (s : State) : Host.Outcome State Fault Refusal :=
  seqOp g src 1 (fun c b => b.trapWith c.slot 0x13 0 false (fld c.v.word 15 0)) s
/-- DUAL (R196, R122). -/
def execDual (g : Grd) (src : Src) (s : State) : Host.Outcome State Fault Refusal :=
  seqOp g src 1 (fun c b =>
    let n := c.v.word.toNat
    if n = 0 || 64 < n then b.trapAt c.slot 0x06
    else if c.pre.t.T = 0 then b
    else { b with dualSet := some n }) s
/-- The fields of FMT (Table 5-6). -/
def fmtMask : Word := 0xFFFF000000EF01FF
/-- FMTW (R197): acts on operations issued at i + 4 and later. -/
def execFmtw (g : Grd) (src : Src) (s : State) : Host.Outcome State Fault Refusal :=
  seqOp g src 1 (fun c b => b.modT fun t => { t with fmtq := t.fmtq ++ [(t.time + 4, c.v.word &&& fmtMask)] }) s
/-- TSCALE as the register holds it. -/
def Thr.tscaleReg (t : Thr) : Lane := match t.tscaleq.getLast? with | some e => e.2 | none => t.tscale

/-! ### Next-tile requests (R42, R198) -/

/-- The destination is an entry of the landing buffer; an L1 miss and a block table's read take none (R363, log 35). -/
def LandDst.buffered : LandDst → Bool | .lsr => false | .table _ => false | _ => true
/-- The landings of a stream that take entries of the landing buffer. -/
def Thr.landings (t : Thr) (sec : Bool) : Nat := (t.land.filter fun l => l.sec = sec && l.dst.buffered).length
/-- The bundle waits while its stream has 16 landings outstanding (R363), whatever its checks would find (R337). -/
def Issue.room (b : Issue) : Issue := if 16 ≤ b.now.t.landings b.now.isSec then b.stallBy .other else b
/-- Record a landing of the acting stream, or hold its bundle when 16 are outstanding (R363). -/
def Issue.addLanding (b : Issue) (dst : LandDst) (due : Nat) (mask : BitVec 64) (src : LandSrc) : Issue :=
  let sec := b.now.isSec
  if 16 ≤ b.now.t.landings sec then b.stallBy .other
  else
    let now := b.now.dev.acyc
    b.modT fun t => { t with land := t.land ++ [⟨dst, due, mask, src, t.seq, t.time, sec, none, none, now, false, []⟩] }

/-- NTREQ (R42, R198): the next w register in the rotation, at i + 48; a fifth request outstanding stalls. -/
def execNtreq (g : Grd) (src : Src) (s : State) : Host.Outcome State Fault Refusal :=
  seqOp g src 1 (fun c b =>
    let a := c.v.word
    let t := b.now.t
    let b := b.room
    if 4 ≤ t.wout then b.stallBy .other
    else if a.toNat % 16 ≠ 0 then b.trapAt c.slot 0x07
    else match c.pre.t.win? a 16 true true with
      | none => b.trapAt c.slot 0x08
      | some dva =>
        let b := (b.addLanding (.w (Fin.ofNat 4 t.wrot)) (t.time + 48) allLanes .home).hop dva .ntreq
        b.modT fun t => { t with wrot := (t.wrot + 1) % 4, wout := t.wout + 1 }) s

/-! ### The secondary stream (R200) -/

/-- SECGO (R200): restarts the secondary at once when it is stopped, else after its current bundle. -/
def execSecgo (g : Grd) (src : Src) (s : State) : Host.Outcome State Fault Refusal :=
  seqOp g src 1 (fun c b =>
    if c.pre.isSec || !c.pre.t.paired then b.trapAt c.slot 0x06
    else b.modT fun t =>
      if t.sec.stopped then { t with sec := { t.sec with pc := fetchAt c.v.word, gap := 0, hold := .none, tau := none } }
      else { t with restart := some c.v.word }) s
/-- SECSTOP (R200): stops the secondary at its bundle boundary. -/
def execSecstop (g : Grd) (src : Src) (s : State) : Host.Outcome State Fault Refusal :=
  seqOp g src 0 (fun c b =>
    if !c.pre.t.paired then b.trapAt c.slot 0x06
    else b.modT fun t => { t with sec := t.sec.stop, restart := none }) s

/-! ### Skeins (R201–R203) -/

/-- The membership slot that holds an object. -/
def Thr.memberAt (t : Thr) (obj : Word) : Option Nat :=
  (List.range 8).find? fun i => match nth t.skeins i with | some k => k.obj = obj | none => false
/-- The lowest free membership slot. -/
def Thr.freeMember (t : Thr) : Option Nat := (List.range 8).find? fun i => nth t.skeins i = none

/-- SKJOIN (R201, R202). -/
def execSkjoin (g : Grd) (src : Src) (s : State) : Host.Outcome State Fault Refusal :=
  seqOp g src 2 (fun c b =>
    let a := c.v.word
    let t := b.now.t
    if a.toNat % 64 ≠ 0 then b.trapAt c.slot 0x07
    else match c.pre.t.win? a 64 true true with
      | none => b.trapAt c.slot 0x08
      | some dva =>
        if 2 ^ 38 ≤ dva.toNat then b.trapAt c.slot 0x06
        else if (t.memberAt dva).isSome then b
        else match t.freeMember with
          | none => b.trapAt c.slot 0x0F
          | some i =>
            (b.modT fun t => { t with skeins := setNth t.skeins i (some ⟨BitVec.ofNat 32 (fld dva 37 6), dva⟩) }).hop dva
              (.skjoin (bit (b.sl .seq 0) 0))) s
/-- SKLEAVE (R203): a leave by a thread that is no member does nothing. -/
def execSkleave (g : Grd) (src : Src) (s : State) : Host.Outcome State Fault Refusal :=
  seqOp g src 1 (fun c b =>
    match c.pre.t.win? c.v.word 64 true true with
    | none => b.trapAt c.slot 0x08
    | some dva =>
      match b.now.t.memberAt dva with
      | none => b
      | some i => (b.modT fun t => { t with skeins := setNth t.skeins i none }).hop dva .skleave) s

/-- Another member of a skein, by its slot, is a thread of another device, one saved on this device, or one of another core (R160): the object's own
list says so, wherever its page stands; `none` when the object is not live. -/
def Dev.skeinAt (d : Dev) (asid : BitVec 16) (obj : Word) : Option SkObj :=
  match d.leafAt asid obj with
  | some (p, bits) => d.skeins.find? fun o => o.pa = fld (BitVec.ofNat 64 (d.num p 8)) 47 8 * 256 + obj.toNat % 2 ^ bits
  | none => none
/-- The place, in the order of R160, of a scope for device locations: 0 die, 1 device, 2 fabric. Skein scope resolves against where the members of
the skein that `skid` reads run: on this core, on this device, where a saved member counts (DESIGN CHOICE), or on another device. -/
def Mach.effScope (m : Mach) (code : Nat) : Nat :=
  match code with
  | 2 => match m.t.skeins.toList.findSome? id with
    | none => 0
    | some k => match m.dev.skeinAt m.t.asid k.obj with
      | some o => if o.members.any fun r => r.far.isSome then 2 else if o.members.all fun r => (m.thrOf r).isSome then 0 else 1
      | none => 0
  | 6 => 1
  | 7 => 2
  | _ => 0

/-! ### Containment regions (R204, R375) -/

/-- CROPEN (R204): it takes a place in the outbound order, so that what is issued after it belongs to the region. -/
def execCropen (g : Grd) (src : Src) (s : State) : Host.Outcome State Fault Refusal :=
  seqOp g src 2 (fun c b =>
    let h := b.sl .seq 0
    let sec := c.pre.isSec
    if 4 ≤ c.pre.t.regions.length then b.trapAt c.slot 0x10
    else if !c.pre.t.inSection sec h then b.trapAt c.slot 0x06
    else b.modT fun t =>
      { t with seq := t.seq + 1, regions := ⟨h, c.v.word.setWidth 16, sec, c.pre.st.loops.length, t.seq + 1⟩ :: t.regions }) s
/-- The thread has engine commands since a queue position that have not made their completion signals (R204). -/
def Mach.cmdsSince (m : Mach) (pos : Nat) : Bool :=
  m.dev.cmds.any (fun k => k.own = m.t.ref && pos ≤ k.seq) ||
  m.t.hops.any (fun h => pos ≤ h.seq && h.op.queued) || m.dev.later.any fun x => x.own = some m.t.ref && pos ≤ x.seq
/-- CRCLOSE (R204): the bundle waits for the region's commands. -/
def execCrclose (g : Grd) (src : Src) (s : State) : Host.Outcome State Fault Refusal :=
  seqOp g src 1 (fun c b =>
    match c.pre.t.regions with
    | [] => b.trapAt c.slot 0x11
    | r :: rest =>
      if r.id ≠ c.v.word.setWidth 16 then b.trapAt c.slot 0x11
      else if c.pre.cmdsSince r.pos then b.stallBy .other
      else b.modT fun t => { t with regions := rest }) s
/-- CRABORT (R204): unwinds to the handler of the open region with that id, with cause ABORT. -/
def execCrabort (g : Grd) (src : Src) (s : State) : Host.Outcome State Fault Refusal :=
  seqOp g src 1 (fun c b =>
    let id := c.v.word.setWidth 16
    if c.pre.t.regions.any (fun r => r.id = id) then { b with abort := some id.toNat } else b.trapAt c.slot 0x11) s

end Sys2Proof.Machine
end

