-- ==== Sys2Proof/Machine/ScalarMem.lean ====
section
/-! DEFINITION. Scalar memory (R136, R137, R207–R210): the unit `ls` and its L1 cache. -/

namespace Sys2Proof.Machine

/-! ### L1 (R129, R136, R137) -/

/-- The lines L1 holds: POOLB2 − POOLB1 bytes, eight cores' worth when fused (R137). -/
def Mach.l1Lines (m : Mach) : Nat :=
  ((m.core.poolb[2]).toNat - (m.core.poolb[1]).toNat) / 128 * (if m.t.fusedl1 then 8 else 1)
/-- The sets of the 8-way cache. -/
def Mach.l1Sets (m : Mach) : Nat := max (m.l1Lines / 8) 1
/-- A line whose fill is outstanding (R207). -/
def L1Line.filling (l : L1Line) : Bool := l.have_ ≠ BitVec.allOnes 128
/-- The line of a physical line number. -/
def Core.line (c : Core) (n : Nat) : Option L1Line := c.l1.find? fun l => l.line = n
/-- Replace a line. -/
def Core.setLine (c : Core) (x : L1Line) : Core := { c with l1 := c.l1.map fun l => if l.line = x.line then x else l }
/-- Some bytes of a line's data. -/
def L1Line.bytes (l : L1Line) (o n : Nat) : List Byte := (List.range n).map fun i => nth l.data (o + i)
/-- Some byte of the line's half that holds offset `o` came poisoned. -/
def L1Line.bad (l : L1Line) (o : Nat) : Bool := bit l.poison (o / 64 % 2)
/-- Store bytes of a thread into a line. -/
def L1Line.put (l : L1Line) (r : TRef) (o : Nat) (bs : List Byte) : L1Line :=
  { l with
    own := addRef r l.own
    data := (List.range bs.length).foldl (fun d i => setNth d (o + i) (bs.getD i 0)) l.data
    have_ := l.have_ ||| BitVec.ofNat 128 ((2 ^ bs.length - 1) * 2 ^ o)
    dirty := true }

/-- A line with no byte yet, whose fill is outstanding, allocated for a thread at a thread time. -/
def L1Line.empty (n : Nat) (r : TRef) (time : Nat) : L1Line := ⟨n, Vector.replicate 128 0, 0, false, 0, [], r, time⟩
/-- Queue a home operation of a thread (R162). -/
def Thr.hop (t : Thr) (cyc : Nat) (sec : Bool) (addr : Word) (op : HopOp) : Thr :=
  { t with seq := t.seq + 1, hops := t.hops ++ [⟨t.seq, t.time, cyc, sec, addr, op⟩] }

/-- The write-back of a dirty line: a remote write event of the threads whose stores it holds (Table 8-1). -/
def Thr.writeBack (t : Thr) (cyc : Nat) (sec : Bool) (l : L1Line) : Thr :=
  t.hop cyc sec (BitVec.ofNat 64 (l.line * 128)) (.writeBack l.data.toList l.poison l.own)

/-- A dirty line is written back at once: the bytes it holds. -/
def Dev.flushLine (d : Dev) (l : L1Line) : Dev :=
  let at_ := 128 * l.line
  let half := fun (d : Dev) (k : Nat) =>
    if l.filling then (List.range 64).foldl (fun (d : Dev) i =>
      if bit l.have_ (64 * k + i) then d.write (at_ + 64 * k + i) [nth l.data (64 * k + i)] false else d) d
    else d.write (at_ + 64 * k) (l.bytes (64 * k) 64) (bit l.poison k)
  l.own.foldl (fun (d : Dev) r => d.didWrite r at_ 128) (half (half d 0) 1)
/-- The dirty lines among some are written back at once. -/
def Mach.flushLines (m : Mach) (ls : List L1Line) : Mach :=
  (ls.filter fun l => l.dirty).foldl (fun (m : Mach) l => m.modD fun d => d.flushLine l) m

/-- Make room for a line: a free way of its set, or a victim of the device's choice among the set's full lines, written back when
dirty (R136). `none` when every way of the set waits for its fill. -/
def Mach.l1Room (m : Mach) (line : Nat) : Option Mach :=
  let inSet := m.core.l1.filter fun l => l.line % m.l1Sets = line % m.l1Sets
  if inSet.length < 8 then some m
  else
    let vs := inSet.filter fun l => !l.filling
    match vs[Config.freeChoice m.dev.free % max vs.length 1]? with
    | none => none
    | some v =>
      let sec := m.isSec
      let m := m.modC fun c => { c with l1 := c.l1.filter fun l => l.line ≠ v.line }
      let m := m.modD fun d => { d with free := d.free + 1 }
      let cyc := m.core.cyc
      some (if v.dirty then m.modT fun t => t.writeBack cyc sec v else m)

/-! ### Loads and stores (R207) -/

/-- A trigger of `ls`: one issued while an `invr` or `wbr` occupies the unit freezes the core (R208). -/
def lsOp (g : Grd) (src : Src) (nops : Nat) (op : Ctx → Issue → Issue) (s : State) : Host.Outcome State Fault Refusal :=
  slot (fun pre b => trigger pre b g src .ls nops fun c b =>
    let b := op c b
    if c.pre.core.cyc < c.pre.core.lsFree then { b with freeze := true } else b) s

/-- A loaded value, extended to 64 bits. -/
def extend (size : Nat) (sgn : Bool) (bs : List Byte) : Word := if sgn then sx (wordOf bs) (8 * size) else zx (wordOf bs) (8 * size)

/-- A scalar in lanes 0 and 1 of a vector value, as a landing carries it. -/
def vvalOfScalar (w : Word) : VVal :=
  ⟨Vec.build fun i => if i = 0 then w.setWidth 32 else if i = 1 then (w >>> 32).setWidth 32 else 0, MapD.none, [], false⟩
/-- The scalar a landing carries. -/
def VVal.scalar (v : VVal) : Word := (v.l 1) ++ (v.l 0)

/-- Put a landing of `ls.r` beside the 16 of the landing buffer (R363 does not count it), with its data when it has it. -/
def Issue.lsLanding (b : Issue) (src : LandSrc) (data : Option VVal) (poison : Option Word) : Issue :=
  let sec := b.now.isSec
  let now := b.now.dev.acyc
  b.modT fun t => { t with land := t.land ++ [⟨.lsr, t.time + t.lat 2, allLanes, src, t.seq, t.time, sec, data, poison, now, false, []⟩] }

/-- `ld` (R207): a hit in L1 and in the first-level translation buffer answers at LAT[2]; any other load lands then or freezes. -/
def loadOp (size : Nat) (sgn : Bool) (g : Grd) (src : Src) (s : State) : Host.Outcome State Fault Refusal :=
  lsOp g src 1 (fun c b =>
    let a := c.v.word
    let m := c.pre
    if a.toNat % size ≠ 0 then b.trapAt c.slot 0x07
    else match m.t.win? a size true false with
      | none => b.trapAt c.slot 0x08
      | some dva =>
        if m.l1Lines = 0 then b.lsLanding (.scalar dva size sgn) none none
        else match tlbHit m.core.tlb m.t.asid dva.toNat with
          | none => b.lsLanding (.l1 dva size sgn) none none
          | some e => match m.dev.leaf e.pte e.bits dva.toNat false m.t.priv with
            | .ok pa _ _ =>
              match m.core.line (pa / 128) with
              | some l =>
                if l.filling then b.lsLanding (.l1 dva size sgn) none none
                else
                  let v := extend size sgn (l.bytes (pa % 128) size)
                  if l.bad (pa % 128) then b.lsLanding (.l1 dva size sgn) (some (vvalOfScalar v)) (some (BitVec.ofNat 64 (pa / 64 * 64)))
                  else b.resultS .lsr 2 v
              | none => b.lsLanding (.l1 dva size sgn) none none
            | _ => b.lsLanding (.l1 dva size sgn) none none) s

/-- A translation fault of a core access that will be reported (R358). -/
def Issue.xfault (b : Issue) (dva : Word) : Issue := b.modT fun t => { t with xfaults := t.xfaults ++ [⟨dva, none⟩] }

/-- The source of a load through L1. -/
def LandSrc.isL1 : LandSrc → Bool
  | .l1 _ _ _ => true
  | _ => false
/-- A load that waits is passed over by `n` bytes stored at `pa`: of each it is to find what the line holds, or what the line's fill brings. `p` is the
load's own address and `k` its width. -/
def Landing.passed (l : Landing) (p k pa n : Nat) (x : Option L1Line) : Landing :=
  let old := fun (a : Nat) => x.bind fun x => if bit x.have_ (a % 128) then some (nth x.data (a % 128)) else none
  let new := (List.range k).filter fun i => pa ≤ p + i && p + i < pa + n && !l.seen.any fun e => e.1 = i
  { l with seen := l.seen ++ new.map fun i => (i, old (p + i)) }
/-- A store of the acting thread passes over its loads that wait (R166). -/
def Mach.passLoads (m : Mach) (pa n : Nat) : Mach :=
  m.modT fun t => { t with land := t.land.map fun l =>
    if l.data.isSome || !l.src.isL1 then l
    else match m.landRanges l with
      | [(p, k)] => if p < pa + n && pa < p + k then l.passed p k pa n (m.core.line (pa / 128)) else l
      | _ => l }

/-- `st` (R207): into the L1 copy; a miss allocates the line and does not stall, a ninth outstanding miss freezes the core. A page
that is not resident freezes it too (R153). -/
def storeOp (size : Nat) (g : Grd) (src : Src) (s : State) : Host.Outcome State Fault Refusal :=
  lsOp g src 2 (fun c b =>
    let a := b.sl .ls 0
    let m := c.pre
    let bs := leBytes size c.v.word.toNat
    if a.toNat % size ≠ 0 then b.trapAt c.slot 0x07
    else match m.t.win? a size false true with
      | none => b.trapAt c.slot 0x08
      | some dva =>
        if m.l1Lines = 0 then b.hop dva (.store bs)
        else match m.xlate m.t.asid dva true m.t.priv with
          | .fault => b.xfault dva
          | .absent => { b with freeze := true, waitFor := [dva] }
          | .ok pa pte bits =>
            if inMgmt pa then b.hop dva (.store bs)
            else
              let b := { b with now := (b.now.cacheXlate m.t.asid dva (.ok pa pte bits)).passLoads pa size }
              match m.core.line (pa / 128) with
              | some l => b.modC fun k => k.setLine (l.put m.t.ref (pa % 128) bs)
              | none =>
                if 8 ≤ (m.core.l1.filter fun l => l.filling && l.dirty).length then { b with freeze := true }
                else match b.now.l1Room (pa / 128) with
                  | none => { b with freeze := true }
                  | some now =>
                    { b with now := now.modC fun k => { k with l1 := k.l1 ++ [(L1Line.empty (pa / 128) m.t.ref m.t.time).put m.t.ref (pa % 128) bs] } }) s

/-- LD_I8 (R207). -/
def execLdI8 (g : Grd) (src : Src) (s : State) : Host.Outcome State Fault Refusal := loadOp 1 true g src s
/-- LD_N8 (R207). -/
def execLdN8 (g : Grd) (src : Src) (s : State) : Host.Outcome State Fault Refusal := loadOp 1 false g src s
/-- LD_I16 (R207). -/
def execLdI16 (g : Grd) (src : Src) (s : State) : Host.Outcome State Fault Refusal := loadOp 2 true g src s
/-- LD_N16 (R207). -/
def execLdN16 (g : Grd) (src : Src) (s : State) : Host.Outcome State Fault Refusal := loadOp 2 false g src s
/-- LD_I32 (R207). -/
def execLdI32 (g : Grd) (src : Src) (s : State) : Host.Outcome State Fault Refusal := loadOp 4 true g src s
/-- LD_N32 (R207). -/
def execLdN32 (g : Grd) (src : Src) (s : State) : Host.Outcome State Fault Refusal := loadOp 4 false g src s
/-- LD_I64 (R207). -/
def execLdI64 (g : Grd) (src : Src) (s : State) : Host.Outcome State Fault Refusal := loadOp 8 true g src s
/-- ST_N8 (R207). -/
def execStN8 (g : Grd) (src : Src) (s : State) : Host.Outcome State Fault Refusal := storeOp 1 g src s
/-- ST_N16 (R207). -/
def execStN16 (g : Grd) (src : Src) (s : State) : Host.Outcome State Fault Refusal := storeOp 2 g src s
/-- ST_N32 (R207). -/
def execStN32 (g : Grd) (src : Src) (s : State) : Host.Outcome State Fault Refusal := storeOp 4 g src s
/-- ST_N64 (R207). -/
def execStN64 (g : Grd) (src : Src) (s : State) : Host.Outcome State Fault Refusal := storeOp 8 g src s

/-! ### Cache operations (R208, R209) -/

/-- The physical ranges of `n` bytes of kernel addresses: page by page through the window and the page tables; a page with no
translation has no line. `none` when a page has no window entry; which permission an operation on lines needs is not stated, and it needs none (DESIGN
CHOICE). -/
def Mach.linesOf (m : Mach) (a : Word) (n : Nat) : Option (List (Nat × Nat)) :=
  (unitsOf a.toNat n 0x10000).foldlM (fun acc u =>
    let lo := max a.toNat (u * 0x10000)
    let hi := min (a.toNat + n) (u * 0x10000 + 0x10000)
    match m.t.win? (BitVec.ofNat 64 lo) (hi - lo) false false with
    | none => none
    | some dva =>
      match m.xlate m.t.asid dva false m.t.priv with
      | .ok pa _ _ => some (acc ++ [(pa, pa + (hi - lo))])
      | _ => match m.xlate m.t.asid dva true m.t.priv with
        | .ok pa _ _ => some (acc ++ [(pa, pa + (hi - lo))])
        | _ => some acc) []
/-- A line overlaps one of the ranges. -/
def L1Line.covered (l : L1Line) (rs : List (Nat × Nat)) : Bool := rs.any fun r => l.line * 128 < r.2 && r.1 < l.line * 128 + 128

/-- `invr` and `wbr` (R208): write back the dirty lines covered, then keep or invalidate them; `ls` is occupied one A-cycle per
line. A covered line whose fill is outstanding freezes the core first. -/
def cacheOp (inval : Bool) (g : Grd) (src : Src) (s : State) : Host.Outcome State Fault Refusal :=
  lsOp g src 2 (fun c b =>
    let a := b.sl .ls 0
    let n := c.v.word.toNat
    if 2 ^ 24 < n then b.trapAt c.slot 0x06
    else match c.pre.linesOf a n with
      | none => b.trapAt c.slot 0x08
      | some rs =>
        let ls := c.pre.core.l1.filter fun l => l.covered rs
        if ls.any L1Line.filling then { b with freeze := true }
        else
          let sec := c.pre.isSec
          let cyc := c.pre.core.cyc
          let b := (ls.filter fun l => l.dirty).foldl (fun b l => b.modT fun t => t.writeBack cyc sec l) b
          b.modC fun k => { k with
            lsFree := k.cyc + ls.length
            l1 := if inval then k.l1.filter fun l => !l.covered rs
              else k.l1.map fun l => if l.covered rs then { l with dirty := false, own := [] } else l }) s
/-- INVR (R208). -/
def execInvr (g : Grd) (src : Src) (s : State) : Host.Outcome State Fault Refusal := cacheOp true g src s
/-- WBR (R208). -/
def execWbr (g : Grd) (src : Src) (s : State) : Host.Outcome State Fault Refusal := cacheOp false g src s

/-- PREFL (R209): starts the fill of an absent line; it never traps and never freezes. One whose set has no way free of an outstanding fill is
dropped (DESIGN CHOICE). -/
def execPrefl (g : Grd) (src : Src) (s : State) : Host.Outcome State Fault Refusal :=
  slot (fun pre b => trigger pre b g src .ls 1 fun c b =>
    let m := c.pre
    if m.l1Lines = 0 then b
    else match m.t.win? c.v.word 1 true false with
      | none => b
      | some dva => match m.xlate m.t.asid dva false m.t.priv with
        | .ok pa pte bits =>
          if inMgmt pa || (m.core.line (pa / 128)).isSome then b
          else match (b.now.cacheXlate m.t.asid dva (.ok pa pte bits)).l1Room (pa / 128) with
            | none => b
            | some now => { b with now := now.modC fun k =>
                { k with l1 := k.l1 ++ [L1Line.empty (pa / 128) m.t.ref m.t.time] } }
        | _ => b) s

/-! ### Landing loads (R210) -/

/-- LDL (R210): a remote read that lands in sN at i + D and bypasses L1. -/
def execLdl (g : Grd) (src : Src) (s : State) : Host.Outcome State Fault Refusal :=
  lsOp g src 2 (fun c b =>
    let a := b.sl .ls 0
    let v := c.v.word
    let size := 2 ^ fld v 19 18
    let b := b.room
    if a.toNat % size ≠ 0 then b.trapAt c.slot 0x07
    else match c.pre.t.win? a size true false with
      | none => b.trapAt c.slot 0x08
      | some dva =>
        if fld v 11 0 = 0 then b.trapAt c.slot 0x06
        else b.addLanding (.s (Fin.ofNat 64 (fld v 17 12))) (b.now.t.time + fld v 11 0) allLanes (.scalar dva size (bit v 20))) s

end Sys2Proof.Machine
end

