-- ==== Sys2Proof/Machine/Product.lean ====
section
/-! DEFINITION. The arithmetic of the squaring array (R93, R251–R256): element images and exponents, cells, special states,
rounding 1. Everything before rounding 1 is exact integer arithmetic, but for the two alignments that R251 names. -/

namespace Sys2Proof.Machine

/-! ### Elements (Tables 5-4, 5-7) -/

/-- What the edge units flag of an element (R254). -/
inductive ECls where
  | zero
  | fin (neg : Bool)
  | inf (neg : Bool)
  | nan
  deriving DecidableEq, Repr

/-- The flags of an element's input value. -/
def ECls.of : Fp → ECls
  | .nan => .nan
  | .inf n => .inf n
  | .fin n m _ => if m = 0 then .zero else .fin n

/-- The floating format of an operand code (Table 5-7), if it is one. -/
def opFlt (fmt : Nat) : Option FFmt :=
  match fmt with
  | 0 => some bf16 | 1 => some f16 | 2 => some e4m3 | 3 => some e5m2 | 4 => some e2m3 | 5 => some e3m2 | 6 => some e2m1
  | _ => none
/-- The codes 0 to 6 are floating formats. -/
def opFloating (fmt : Nat) : Bool := fmt < 7
/-- F of Table 5-4; `mx` says that INT8 is MXINT8. -/
def opF (fmt : Nat) (mx : Bool) : Nat :=
  match fmt with
  | 2 => 9 | 3 => 16 | 4 => 3 | 5 => 4 | 6 => 1 | 7 => if mx then 6 else 0 | 11 => 11 | _ => 0
/-- KC of a format's K: 0 is 64, 1 is 128, 2 is 256. -/
def opKc (fmt : Nat) : Nat := if fmt < 2 then 0 else if fmt < 6 || fmt = 7 || fmt = 8 then 1 else 2
/-- K of a KC field. -/
def kcCols (kc : Nat) : Nat := match kc with | 0 => 64 | 1 => 128 | _ => 256

/-- A two's complement number of `w` bits. -/
def sgnOf (w x : Nat) : Int := if x < 2 ^ (w - 1) then x else (x : Int) - 2 ^ w
/-- The codes of a row (R240, R92). -/
def rowCodes (fmt : Nat) (row : Vector Byte 128) : List Nat :=
  let bs := row.toList.map BitVec.toNat
  match opKc fmt with
  | 0 => (List.range 64).map fun k => (nth row (2 * k)).toNat + 256 * (nth row (2 * k + 1)).toNat
  | 1 => bs.map fun x => if fmt = 4 || fmt = 5 then x % 64 else x
  | _ => bs.flatMap fun x => [x % 16, x / 16]
/-- The value of a code of a floating format; for an integer format, MXINT8 and q4k, the code's integer (the level of q4k). -/
def codeVal (fmt x : Nat) : Fp :=
  match opFlt fmt with
  | some f => f.dec x
  | none => Fp.ofInt (match fmt with | 7 => sgnOf 8 x | 9 => sgnOf 4 x | 11 => q4kLevel x | _ => (x : Int))

/-! ### Rows of A and columns of B (R251) -/

/-- A row of A or a column of B: images, exponent of an image, alignment exponent, flags. -/
structure Side where
  img : List Int
  exp : Int
  al : Int
  cls : List ECls

/-- A magnitude times 2^k, rounded to an integer by RNE, with the sign. -/
def rneInt (x : Fp) (k : Int) : Int :=
  match x with
  | .fin n m e => let q : Int := roundAt .rne m (e + k) 0 false; if n then -q else q
  | _ => 0
/-- The image of Table 5-4: a floating value × 2^F, or the integer of an integer format, MXINT8 or q4k itself (R93). -/
def imageOf (fmt : Nat) (x : Fp) : Int := rneInt x (if opFloating fmt then (opF fmt false : Int) else 0)
/-- The largest of a list, or `d`. -/
def maxOr (d : Int) (l : List Int) : Int := match l with | [] => d | x :: xs => xs.foldl max x

/-- Images and exponents of a row (R251). `sc` gives each element's scale exponent, `none` for a scale of 0xFF, when the row is
scaled. -/
def sideOf (fmt : Nat) (xs : List Fp) (scaled : Bool) (sc : List (Option Int)) : Side :=
  match opKc fmt with
  | 0 =>
    let emin : Int := if fmt = 0 then -126 else -14
    let ea := maxOr emin (xs.filterMap fun x => match x with
      | .fin _ m e => if m = 0 then none else some (max (floorLog2 m e) emin)
      | _ => none)
    ⟨xs.map fun x => rneInt x (14 - ea), ea - 14, ea, xs.map ECls.of⟩
  | _ =>
    let F : Int := opF fmt scaled
    if scaled then
      let xref := maxOr 0 (sc.filterMap id)
      ⟨(xs.zip sc).map fun e => match e.2 with
          | none => 0
          | some X => let q : Int := roundAt .rne (imageOf fmt e.1).natAbs (X - xref + 18) 0 false
                      if imageOf fmt e.1 < 0 then -q else q,
        xref - 18 - F, 0, (xs.zip sc).map fun e => match e.2 with | none => .nan | some _ => ECls.of e.1⟩
    else ⟨xs.map (imageOf fmt), -F, 0, xs.map ECls.of⟩

/-- The scale exponents of a row's elements (R99, R245). -/
def OTile.scaleExps (t : OTile) (r : Nat) : List (Option Int) :=
  (List.range (kcCols t.kc.toNat)).map fun k =>
    e8m0 (nth (nth t.scales r) (if t.scl = 2 then 0 else k / 32)).toNat

/-- Shadow `k` of an operand tile; a missing one is zero bits. -/
def OTile.shadow (t : OTile) (k : Nat) : ORows := t.sh.getD k OTile.zero.rows
/-- Shadow `k` of an accumulator tile. -/
def ATile.shadow (t : ATile) (k : Nat) : ARows := t.sh.getD k ATile.zero.rows

/-- The 96 rows of an operand: of one tile, or of a pair whose rows follow each other (R256). `rows` gives the bits that a pass
reads of each tile. -/
def sidesOf (fmt : Nat) (scaled : Bool) (ts : List (OTile × ORows)) : Vector Side 96 :=
  Vector.ofFn fun r =>
    sideOf fmt (ts.flatMap fun t => (rowCodes fmt (nth t.2 r.val)).map (codeVal fmt)) scaled
      (if scaled then ts.flatMap fun t => t.1.scaleExps r.val else [])

/-! ### Cells (R252, R254) -/

/-- The special state of a product (R254). -/
def Sp.mul : ECls → ECls → Sp
  | .nan, _ => .nan
  | _, .nan => .nan
  | .inf _, .zero => .nan
  | .zero, .inf _ => .nan
  | .inf a, .inf b => .inf (a != b)
  | .inf a, .fin b => .inf (a != b)
  | .fin a, .inf b => .inf (a != b)
  | _, _ => .none
/-- States across k (R254). -/
def Sp.add : Sp → Sp → Sp
  | .nan, _ => .nan
  | _, .nan => .nan
  | .none, y => y
  | x, .none => x
  | .inf a, .inf b => if a = b then .inf a else .nan

/-- The sum of squares of sums, less both corrections, halved: the exact sum of products (R252). -/
def squareP (ps : List (Int × Int)) : Int :=
  let S := ps.foldl (fun s p => s + (p.1 + p.2) ^ 2) 0
  let Ra := ps.foldl (fun s p => s + p.1 ^ 2) 0
  let Cb := ps.foldl (fun s p => s + p.2 ^ 2) 0
  (S - Ra - Cb) / 2

/-- The q4k scales of a row: q0 to q3 and S256 (R95, R245). -/
def OTile.q4k (t : OTile) (r : Nat) : List Nat × Fp :=
  let bs := (nth t.scales r).toList
  ((bs.take 4).map BitVec.toNat, f32.dec (leNat (bs.drop 4)))

/-- P of a cell: of one scaling block, or for q4k the block sums weighted by q_b (R252). -/
def cellP (q : Option (List Nat)) (ps : List (Int × Int)) : Int :=
  match q with
  | none => squareP ps
  | some qs => (List.range 4).foldl (fun s b => s + (qs.getD b 0 : Int) * squareP ((ps.drop (64 * b)).take 64)) 0

/-- Rounding 1 (R103 step 4): an exact zero is +0; a special state replaces P. -/
def round1 (p : Int) (e : Int) (s256 : Option Fp) (sp : Sp) : Lane :=
  match sp with
  | .nan => 0x7FC00000
  | .inf n => BitVec.ofNat 32 (f32.infCode n)
  | .none =>
    let x := (Fp.ofInt p).scale e
    match (match s256 with | none => x | some s => x.mul s) with
    | .fin n m e => if m = 0 then 0 else rnd (.fin n m e)
    | y => rnd y

/-- A pass of an array operation: cell sums and special states. `sel` gives, per row of A, the logical index of each stored
element (R256); dense operations have none. -/
structure Pass where
  p : Vector (Vector Int 96) 96
  sp : Vector (Vector Sp 96) 96
  e : Vector (Vector Int 96) 96

/-- The elements of a column that row `i` meets: all of them, or those its metadata selects (R256). -/
def pickBy {α : Type} (sel : Option (Nat → List Nat)) (d : α) (l : List α) (i : Nat) : List α :=
  match sel with
  | none => l
  | some f => let r := l.toArray; (f i).map fun k => r.getD k d

/-- The products of a pass. -/
def passOf (a b : Vector Side 96) (sel : Option (Nat → List Nat)) (q : Option (Nat → List Nat)) : Pass :=
  ⟨Vector.ofFn fun i => Vector.ofFn fun j =>
      cellP (q.map fun f => f i.val) ((nth a i.val).img.zip (pickBy sel 0 (nth b j.val).img i.val)),
   Vector.ofFn fun i => Vector.ofFn fun j =>
      ((nth a i.val).cls.zip (pickBy sel .zero (nth b j.val).cls i.val)).foldl (fun s c => s.add (Sp.mul c.1 c.2)) .none,
   Vector.ofFn fun i => Vector.ofFn fun j => (nth a i.val).exp + (nth b j.val).exp⟩

/-- Rounding 1 of every cell of a pass; q4k's block scales carry a factor 2^−8 each (R103). -/
def Pass.round (w : Pass) (s256 : Option (Nat → Fp)) : Vector (Vector Int 96) 96 :=
  Vector.ofFn fun i => Vector.ofFn fun j =>
    (round1 (nth (nth w.p i.val) j.val) (nth (nth w.e i.val) j.val - (if s256.isSome then 8 else 0))
      (s256.map fun f => f i.val) (nth (nth w.sp i.val) j.val)).toNat

/-- Correction register Ra or Cb of a row: the sum of squares of its images (R252). -/
def Side.sq (s : Side) : BitVec 112 := BitVec.ofInt 112 (s.img.foldl (fun a x => a + x ^ 2) 0)

/-! ### Rounding 2 (R253) -/

/-- The INT32 saturation of an exact sum, and whether it saturated. -/
def satI32 (x : Int) : Lane × Bool :=
  if x < -(2 ^ 31) then (0x80000000, true) else if 2 ^ 31 - 1 < x then (0x7FFFFFFF, true) else (BitVec.ofInt 32 x, false)
/-- One accumulator element after a pass, and whether it saturated. -/
def accumEl (isInt zero : Bool) (acc : Lane) (p : Int) : Lane × Bool :=
  if isInt then satI32 (if zero then p else acc.toInt + p)
  else if zero then (BitVec.ofInt 32 p, false) else (fadd32 acc (BitVec.ofInt 32 p), false)
/-- An accumulator's rows after a pass. -/
def accumRows (isInt zero : Bool) (acc : ARows) (v : Vector (Vector Int 96) 96) : ARows × Bool :=
  let r := fun (i j : Nat) => accumEl isInt zero (nth (nth acc i) j) (nth (nth v i) j)
  (Vector.ofFn fun i => Vector.ofFn fun j => (r i.val j.val).1,
   (List.range 96).any fun i => (List.range 96).any fun j => isInt && (r i j).2)

/-- The passes of an operation applied to an accumulator in order; under ZERO the first pass into each of its parts replaces it. The
status row and the map stay. -/
def ATile.applyPasses (t : ATile) (T : Nat) (zero : Bool) (ps : List AccPass) : ATile × Bool :=
  let step := fun (acc : ATile × Bool × List (Option Nat)) (p : AccPass) =>
    let (t, sat, seen) := acc
    let z := zero && !seen.contains p.shadow
    match p.shadow with
    | none => let (r, s) := accumRows p.isInt z t.rows p.vals; ({ t with rows := r }, sat || s, p.shadow :: seen)
    | some k =>
      let (r, s) := accumRows p.isInt z (t.shadow k) p.vals
      ({ t with sh := (List.range (max T (k + 1))).map fun i => if i = k then r else t.shadow i }, sat || s, p.shadow :: seen)
  let (t, sat, _) := ps.foldl step (t, false, [])
  (t, sat)

end Sys2Proof.Machine
end

