-- ==== Sys2Proof/Machine/Transc.lean ====
section
/-! DEFINITION. The special functions of R231 and their tangents of R125, correctly rounded: each value is enclosed between two
integers over a power of two, at a precision that is raised until both ends round to one FP32 number. -/

namespace Sys2Proof.Machine

/-! ### Enclosures -/

/-- An enclosure: a value between `lo · 2^exp` and `hi · 2^exp`. -/
structure Enc where
  lo : Int
  hi : Int
  exp : Int
  deriving DecidableEq, Repr

/-- The quotient rounded up. -/
def cdiv (a b : Int) : Int := -((-a) / b)
/-- The smallest of four. -/
def min4 (a b c d : Int) : Int := min (min a b) (min c d)
/-- The largest of four. -/
def max4 (a b c d : Int) : Int := max (max a b) (max c d)

/-- A fixed-point interval at precision `P`: a value between `lo / 2^P` and `hi / 2^P`. -/
structure Iv where
  lo : Int
  hi : Int

/-- The interval of one integer. -/
def Iv.int (P : Nat) (x : Int) : Iv := ⟨x * 2 ^ P, x * 2 ^ P⟩
/-- Sum. -/
def Iv.add (a b : Iv) : Iv := ⟨a.lo + b.lo, a.hi + b.hi⟩
/-- Difference. -/
def Iv.sub (a b : Iv) : Iv := ⟨a.lo - b.hi, a.hi - b.lo⟩
/-- Product, rounded outward. -/
def Iv.mul (P : Nat) (a b : Iv) : Iv :=
  let lo := min4 (a.lo * b.lo) (a.lo * b.hi) (a.hi * b.lo) (a.hi * b.hi)
  let hi := max4 (a.lo * b.lo) (a.lo * b.hi) (a.hi * b.lo) (a.hi * b.hi)
  ⟨lo / 2 ^ P, cdiv hi (2 ^ P)⟩
/-- Product with an integer. -/
def Iv.muli (a : Iv) (k : Int) : Iv := if 0 ≤ k then ⟨a.lo * k, a.hi * k⟩ else ⟨a.hi * k, a.lo * k⟩
/-- Quotient by a positive integer, rounded outward. -/
def Iv.divi (a : Iv) (k : Nat) : Iv := ⟨a.lo / (k : Int), cdiv a.hi k⟩
/-- Quotient by a positive interval, rounded outward. -/
def Iv.div (P : Nat) (a b : Iv) : Iv :=
  ⟨min ((a.lo * 2 ^ P) / b.lo) ((a.lo * 2 ^ P) / b.hi), max (cdiv (a.hi * 2 ^ P) b.lo) (cdiv (a.hi * 2 ^ P) b.hi)⟩
/-- The interval widened by the magnitude of another on both sides. -/
def Iv.widen (a t : Iv) : Iv :=
  let w := max t.hi.natAbs t.lo.natAbs
  ⟨a.lo - w - 1, a.hi + w + 1⟩
/-- The interval at a lower precision. -/
def Iv.shift (a : Iv) (k : Nat) : Iv := ⟨a.lo / 2 ^ k, cdiv a.hi (2 ^ k)⟩
/-- The negated interval. -/
def Iv.neg (a : Iv) : Iv := ⟨-a.hi, -a.lo⟩

/-- `x · 2^e` as an interval at precision `P`. -/
def Iv.dy (P : Nat) (x : Int) (e : Int) : Iv :=
  let k := e + P
  if 0 ≤ k then ⟨x * 2 ^ k.toNat, x * 2 ^ k.toNat⟩ else ⟨x / 2 ^ (-k).toNat, cdiv x (2 ^ (-k).toNat)⟩

/-- The sum of a series: `term` is the current term, `next i term` the one after index `i`; the last term bounds the rest. -/
def series (next : Nat → Iv → Iv) : Nat → Nat → Iv → Iv → Iv
  | 0, _, term, acc => acc.widen term
  | n + 1, i, term, acc => series next n (i + 1) (next i term) (acc.add term)

/-- e^r for |r| ≤ 1. -/
def ivExp (P : Nat) (r : Iv) : Iv :=
  series (fun i t => (t.mul P r).divi (i + 1)) (P / 3 + 16) 0 (Iv.int P 1) ⟨0, 0⟩
/-- atanh(1/k)-like sum of t^(2i+1)/(2i+1) for |t| ≤ 1/3. -/
def ivAtanh (P : Nat) (t : Iv) : Iv :=
  let t2 := t.mul P t
  let rec go : Nat → Nat → Iv → Iv → Iv
    | 0, _, p, acc => acc.widen p
    | n + 1, i, p, acc => go n (i + 1) (p.mul P t2) (acc.add (p.divi (2 * i + 1)))
  go (P / 3 + 4) 0 t ⟨0, 0⟩
/-- atan(1/k). -/
def ivAtanInv (P : Nat) (k : Nat) : Iv :=
  let rec go : Nat → Nat → Iv → Iv → Iv
    | 0, _, p, acc => acc.widen p
    | n + 1, i, p, acc => go n (i + 1) (p.divi (k * k)) (if i % 2 = 0 then acc.add (p.divi (2 * i + 1)) else acc.sub (p.divi (2 * i + 1)))
  go (P / 4 + 4) 0 ((Iv.int P 1).divi k) ⟨0, 0⟩
/-- ln 2. -/
def ivLn2 (P : Nat) : Iv := (ivAtanh P ((Iv.int P 1).divi 3)).muli 2
/-- π. -/
def ivPi (P : Nat) : Iv := ((ivAtanInv P 5).muli 16).sub ((ivAtanInv P 239).muli 4)

/-- Integer square root, bit by bit from bit `k`. -/
def isqrtGo (n : Nat) : Nat → Nat → Nat
  | 0, r => r
  | k + 1, r => let c := r + 2 ^ k; isqrtGo n k (if c * c ≤ n then c else r)
/-- The integer square root. -/
def isqrt (n : Nat) : Nat := isqrtGo n (Nat.log2 n / 2 + 1) 0

/-- e^x for an interval x: `2^k` times an interval. -/
def ivExpK (P : Nat) (x : Iv) : Iv × Int :=
  let l := ivLn2 P
  let k := x.lo / max l.lo 1
  (ivExp P (x.sub (l.muli k)), k)

/-- sin and cos of |r| ≤ 1 by their series. -/
def ivSin (P : Nat) (r : Iv) : Iv :=
  let r2 := r.mul P r
  series (fun i t => ((t.mul P r2).divi ((2 * i + 2) * (2 * i + 3))).neg) (P / 4 + 8) 0 r ⟨0, 0⟩
/-- cos of |r| ≤ 1. -/
def ivCos (P : Nat) (r : Iv) : Iv :=
  let r2 := r.mul P r
  series (fun i t => ((t.mul P r2).divi ((2 * i + 1) * (2 * i + 2))).neg) (P / 4 + 8) 0 (Iv.int P 1) ⟨0, 0⟩

/-- sin (or cos) of `x · 2^e`, with exact argument reduction by multiples of π/2. -/
def ivTrig (P : Nat) (cos : Bool) (x : Int) (e : Int) : Iv :=
  let Q := P + 160 + e.toNat
  let h := (ivPi Q).divi 2
  let v := Iv.dy Q x e
  let k := (2 * v.lo + h.lo) / (2 * max h.lo 1)
  let r := (v.sub (h.muli k)).shift (Q - P)
  let q := (k + (if cos then 1 else 0)) % 4
  if q = 0 then ivSin P r else if q = 1 then ivCos P r else if q = 2 then (ivSin P r).neg else (ivCos P r).neg

/-! ### Rounding an enclosure -/

/-- Round `x · 2^e` to FP32 by RNE. -/
def rndInt (x : Int) (e : Int) : Lane := rnd (.fin (x < 0) x.natAbs e)

/-- The FP32 number both ends round to, if there is one and the ends have one sign. -/
def Enc.round? (v : Enc) : Option Lane :=
  if v.lo < 0 && 0 ≤ v.hi then none
  else
    let a := rndInt v.lo v.exp
    if a = rndInt v.hi v.exp then some a else none

/-- Raise the precision until the enclosure rounds to one number. -/
def ziv (f : Nat → Enc) : List Nat → Lane
  | [] => 0x7FC00000
  | P :: Ps => match (f P).round? with
    | some a => a
    | none => ziv f Ps

/-- The precisions tried. -/
def precs : List Nat := [320, 640, 1280, 2560]

/-- An interval as an enclosure. -/
def Iv.enc (P : Nat) (v : Iv) : Enc := ⟨v.lo, v.hi, -(P : Int)⟩

/-! ### The functions (Table 10-7) -/

/-- The signed mantissa of a finite value. -/
def sgnMant (n : Bool) (m : Nat) : Int := if n then -(m : Int) else m

/-- |x · 2^e| is at least `k`. -/
def magGe (m : Nat) (e : Int) (k : Nat) : Bool := !(Fp.fin false m e).lt (.fin false k 0)

/-- `exp`. -/
def fExp (a : Fp) : Lane :=
  match a with
  | .nan => 0x7FC00000
  | .inf true => 0
  | .inf false => 0x7F800000
  | .fin n m e =>
    if m = 0 then 0x3F800000
    else if magGe m e 200 then (if n then 0 else 0x7F800000)
    else ziv (fun P => let (v, k) := ivExpK P (Iv.dy P (sgnMant n m) e); ⟨v.lo, v.hi, k - P⟩) precs

/-- `exp2`. -/
def fExp2 (a : Fp) : Lane :=
  match a with
  | .nan => 0x7FC00000
  | .inf true => 0
  | .inf false => 0x7F800000
  | .fin n m e =>
    if m = 0 then 0x3F800000
    else if magGe m e 200 then (if n then 0 else 0x7F800000)
    else
      let x := Iv.dy 200 (sgnMant n m) e
      if x.lo % 2 ^ 200 = 0 then rnd (.fin false 1 (x.lo / 2 ^ 200))
      else ziv (fun P =>
        let x := Iv.dy P (sgnMant n m) e
        let k := x.lo / 2 ^ P
        let v := ivExp P ((x.sub (Iv.int P k)).mul P (ivLn2 P))
        ⟨v.lo, v.hi, k - P⟩) precs

/-- The logarithm of a positive value as an interval: the mantissa is brought near 1 first. -/
def ivLog (P : Nat) (m : Nat) (e : Int) : Iv :=
  let k := Nat.log2 m
  let k := if 3 * 2 ^ k < 2 * m then k + 1 else k
  let num := Iv.dy P ((m : Int) - 2 ^ k) 0
  let den := Iv.dy P ((m : Int) + 2 ^ k) 0
  (((ivAtanh P (num.div P den)).muli 2)).add ((ivLn2 P).muli (e + k))

/-- `log`. -/
def fLog (a : Fp) : Lane :=
  match a with
  | .nan => 0x7FC00000
  | .inf true => 0x7FC00000
  | .inf false => 0x7F800000
  | .fin n m e =>
    if m = 0 then 0xFF800000
    else if n then 0x7FC00000
    else if (Fp.fin false m e).eq (.fin false 1 0) then 0
    else ziv (fun P => (ivLog P m e).enc P) precs

/-- `rcp`. -/
def fRcp (a : Fp) : Lane := fdiv32 (.fin false 1 0) a

/-- `rsqrt`. -/
def fRsqrt (a : Fp) : Lane :=
  match a with
  | .nan => 0x7FC00000
  | .inf true => 0x7FC00000
  | .inf false => 0
  | .fin n m e =>
    if m = 0 then BitVec.ofNat 32 (f32.infCode n)
    else if n then 0x7FC00000
    else
      let (m, e) := if e % 2 = 0 then (m, e) else (2 * m, e - 1)
      let y := isqrt (2 ^ 256 / m)
      match f32.roundMag .rne y (-128 - e / 2) (y * y * m ≠ 2 ^ 256) with
      | some c => BitVec.ofNat 32 c
      | none => 0x7F800000

/-- `tanh`. -/
def fTanh (a : Fp) : Lane :=
  match a with
  | .nan => 0x7FC00000
  | .inf n => if n then 0xBF800000 else 0x3F800000
  | .fin n m e =>
    if m = 0 then BitVec.ofNat 32 (f32.sgn n)
    else if magGe m e 64 then (if n then 0xBF800000 else 0x3F800000)
    else ziv (fun P =>
      let (v, k) := ivExpK P (Iv.dy P (2 * m) e)
      let y := Iv.mk (v.lo * 2 ^ k.toNat) (v.hi * 2 ^ k.toNat)
      let t := (y.sub (Iv.int P 1)).div P (y.add (Iv.int P 1))
      (if n then t.neg else t).enc P) precs

/-- `sigm`. -/
def fSigm (a : Fp) : Lane :=
  match a with
  | .nan => 0x7FC00000
  | .inf true => 0
  | .inf false => 0x3F800000
  | .fin n m e =>
    if magGe m e 200 then (if n then 0 else 0x3F800000)
    else ziv (fun P =>
      let (v, k) := ivExpK P (Iv.dy P (-(sgnMant n m)) e)
      let y := Iv.dy P v.lo (k - P)
      let z := Iv.dy P v.hi (k - P)
      ((Iv.int P 1).div P ((Iv.int P 1).add ⟨y.lo, z.hi⟩)).enc P) precs

/-- `sin` and `cos`. -/
def fTrig (cos : Bool) (a : Fp) : Lane :=
  match a with
  | .nan => 0x7FC00000
  | .inf _ => 0x7FC00000
  | .fin n m e =>
    if m = 0 then (if cos then 0x3F800000 else BitVec.ofNat 32 (f32.sgn n))
    else ziv (fun P => (ivTrig P cos (sgnMant n m) e).enc P) precs

/-- The factor 2/√π. -/
def ivTwoRtPi (P : Nat) : Iv :=
  let p := ivPi P
  let r := Iv.mk (isqrt (p.lo.toNat * 2 ^ P)) (isqrt (p.hi.toNat * 2 ^ P) + 1)
  (Iv.int P 2).div P r

/-- `erf`: 2/√π · e^(−x²) times the sum of 2^n x^(2n+1) / (2n+1)!!, all of whose terms are positive. -/
def fErf (a : Fp) : Lane :=
  match a with
  | .nan => 0x7FC00000
  | .inf n => if n then 0xBF800000 else 0x3F800000
  | .fin n m e =>
    if m = 0 then BitVec.ofNat 32 (f32.sgn n)
    else if magGe m e 8 then (if n then 0xBF800000 else 0x3F800000)
    else ziv (fun P =>
      let x := Iv.dy P m e
      let x2 := x.mul P x
      let s := series (fun i t => ((t.mul P x2).muli 2).divi (2 * i + 3)) (P + 300) 0 x ⟨0, 0⟩
      let (v, k) := ivExpK P x2.neg
      let ex := Iv.mk (v.lo / 2 ^ (-k).toNat) (cdiv v.hi (2 ^ (-k).toNat))
      let y := ((ivTwoRtPi P).mul P ex).mul P s
      (if n then y.neg else y).enc P) precs

/-- The special functions in id order (Table 10-7). -/
inductive SFun where
  | exp | exp2 | log | rcp | rsqrt | tanh | sigm | sin | cos | erf
  deriving DecidableEq, Repr

/-- The correctly rounded value of a special function. -/
def SFun.val (f : SFun) (a : Fp) : Lane :=
  match f with
  | .exp => fExp a | .exp2 => fExp2 a | .log => fLog a | .rcp => fRcp a | .rsqrt => fRsqrt a
  | .tanh => fTanh a | .sigm => fSigm a | .sin => fTrig false a | .cos => fTrig true a | .erf => fErf a

/-! ### Tangents (Table 6-7) -/

/-- An exact value times an irrational factor given by enclosures of a positive or negative number, rounded once. -/
def mulEnc (t : Fp) (f : Nat → Enc) : Lane :=
  match t with
  | .nan => 0x7FC00000
  | .inf n => BitVec.ofNat 32 (f32.infCode (n != ((f 320).hi < 0)))
  | .fin n m e =>
    if m = 0 then BitVec.ofNat 32 (f32.sgn (n != ((f 320).hi < 0)))
    else ziv (fun P =>
      let v := f P
      if n then ⟨-(v.hi * m), -(v.lo * m), v.exp + e⟩ else ⟨v.lo * m, v.hi * m, v.exp + e⟩) precs

/-- The tangent of a special function: `t` the tangent of `a`, `y` the delivered result (R125). -/
def SFun.tan (f : SFun) (t a y : Fp) : Lane :=
  let one : Fp := .fin false 1 0
  match f with
  | .exp => rnd (t.mul y)
  | .exp2 => mulEnc (t.mul y) fun P => (ivLn2 P).enc P
  | .log => fdiv32 t a
  | .rcp => rnd (((t.mul y).mul y).negate)
  | .rsqrt => rnd ((((t.mul y).mul y).mul y).negate.scale (-1))
  | .tanh => rnd (t.mul (one.sub (y.mul y)))
  | .sigm => rnd ((t.mul y).mul (one.sub y))
  | .sin =>
    match a with
    | .fin n m e => if m = 0 then rnd t else mulEnc t fun P => (ivTrig P true (sgnMant n m) e).enc P
    | _ => 0x7FC00000
  | .cos =>
    match a with
    | .fin n m e =>
      if m = 0 then rnd ((t.mul a).negate) else mulEnc t fun P => (ivTrig P false (sgnMant n m) e).neg.enc P
    | _ => 0x7FC00000
  | .erf =>
    match a with
    | .nan => 0x7FC00000
    | .inf _ => rnd (t.mul Fp.zero)
    | .fin _ m e =>
      if magGe m e 64 then rnd (match t with | .fin n k _ => .fin n (if k = 0 then 0 else 1) (-1000) | x => x)
      else mulEnc t fun P =>
        let (v, k) := ivExpK P (Iv.dy P (-((m * m : Nat) : Int)) (2 * e))
        let w := v.mul P (ivTwoRtPi P)
        ⟨w.lo, w.hi, k - P⟩

end Sys2Proof.Machine
end

