-- ==== Sys2Proof/Machine/Vector.lean ====
section
/-! DEFINITION. Vector arithmetic (R213–R221): floating, integer, predicate operations and compare-and-swap of the function units,
and the special functions (R231). -/

namespace Sys2Proof.Machine

/-! ### Frames -/

/-- A trigger of a function unit with its operand count. -/
def faOp (g : Grd) (src : Src) (nops : Nat) (op : Ctx → Issue → Issue) (s : State) : Host.Outcome State Fault Refusal :=
  slot (fun pre b => trigger pre b g src (faUnit g.slot.val) nops op) s

/-- Put a vector result on its way: values, map, and in a dual bundle tangents, else +0 (R123, R124). -/
def Issue.emit (b : Issue) (c : Ctx) (p : VPort) (cls : Nat) (m : MapD) (f : Nat → Lane) (tg : Nat → Nat → Lane) : Issue :=
  b.resultV p cls c.mask ⟨Vec.build f, m, if c.pre.dual then mkTg c.pre.t.T tg else [], false⟩

/-- +0 tangents. -/
def noTg : Nat → Nat → Lane := fun _ _ => 0

/-- The common map of value operands, noting MAPLOST (R118). -/
def Issue.common (b : Issue) (ms : List MapD) : MapD × Issue :=
  let r := commonMap ms
  (r.1, b.lost r.2)

/-- Exact FP32 of a tangent lane, then the formula, rounded once (R124). -/
def tgOf (v : VVal) (k l : Nat) : Fp := fp (v.tgl k l)

/-! ### FP32 elementwise (R216, R218) -/

/-- An elementwise operation of two operands: value and tangent of a lane from the two latches. -/
def ew2 (cls : Nat) (f : Lane → Lane → Lane) (tg : VVal → VVal → Nat → Nat → Lane) (g : Grd) (src : Src) (s : State) :
    Host.Outcome State Fault Refusal :=
  faOp g src 2 (fun c b =>
    let x := b.vl c.u 0
    let y := b.vl c.u 1
    let (m, b) := b.common [x.map, y.map]
    b.emit c (portR c.u) cls m (fun l => f (x.l l) (y.l l)) (tg x y)) s
/-- An elementwise operation of one operand. -/
def ew1 (cls : Nat) (f : Lane → Lane) (tg : VVal → Nat → Nat → Lane) (g : Grd) (src : Src) (s : State) :
    Host.Outcome State Fault Refusal :=
  faOp g src 1 (fun c b =>
    let x := b.vl c.u 0
    b.emit c (portR c.u) cls x.map (fun l => f (x.l l)) (tg x)) s

/-- A tangent of an operand as a dual operation delivers it: rounded once to FP32, so that of a NaN no payload remains (R91, R124). -/
def VVal.tgr (v : VVal) (k l : Nat) : Lane := rnd (tgOf v k l)
/-- The tangent of the selected operand. -/
def selTg (isMin : Bool) (x y : VVal) (k l : Nat) : Lane :=
  if pickFirst isMin (fp (x.l l)) (fp (y.l l)) then x.tgr k l else y.tgr k l
/-- ta·b + a·tb. -/
def mulTg (a b ta tb : Fp) : Fp := (ta.mul b).add (a.mul tb)

/-! ### The 16-bit forms (R214) -/

/-- Element `e` of a latch, as a 16-bit format's code: a latch last written by a scalar source is the FP32 value of its bits
[31:0], rounded to the format. -/
def elem16 (f : FFmt) (v : VVal) (e : Nat) : Nat :=
  if v.fromS then f.rne (fp (v.l 0)) else fld (v.l (e / 2)) (16 * (e % 2) + 15) (16 * (e % 2))
/-- The value of element `e`. -/
def val16 (f : FFmt) (v : VVal) (e : Nat) : Fp := f.dec (elem16 f v e)
/-- The tangent `k` of element `e`: BF16 in its element's half of the shadow lane (R124). -/
def tg16 (v : VVal) (k e : Nat) : Fp :=
  if v.fromS then Fp.zero else bf16.dec (fld (v.tgl k (e / 2)) (16 * (e % 2) + 15) (16 * (e % 2)))
/-- A lane of two halves. -/
def pack16 (f : Nat → Nat) (l : Nat) : Lane := BitVec.ofNat 32 (f (2 * l) % 65536 + 65536 * (f (2 * l + 1) % 65536))

/-- A 16-bit elementwise operation of two operands: exact value and exact tangent of an element, each rounded once. -/
def ew16 (f : FFmt) (cls : Nat) (v : Fp → Fp → Fp) (tg : Fp → Fp → Fp → Fp → Fp) (g : Grd) (src : Src) (s : State) :
    Host.Outcome State Fault Refusal :=
  faOp g src 2 (fun c b =>
    let x := b.vl c.u 0
    let y := b.vl c.u 1
    let (m, b) := b.common [x.map, y.map]
    b.emit c (portR c.u) cls m (pack16 fun e => f.rne (v (val16 f x e) (val16 f y e)))
      (fun k => pack16 fun e => bf16.rne (tg (val16 f x e) (val16 f y e) (tg16 x k e) (tg16 y k e)))) s
/-- The three-operand `fma` in a 16-bit format. -/
def fma16 (f : FFmt) (g : Grd) (src : Src) (s : State) : Host.Outcome State Fault Refusal :=
  faOp g src 3 (fun c b =>
    let x := b.vl c.u 0
    let y := b.vl c.u 1
    let z := b.vl c.u 2
    let (m, b) := b.common [x.map, y.map, z.map]
    b.emit c (portR c.u) 4 m (pack16 fun e => f.rne (((val16 f x e).mul (val16 f y e)).add (val16 f z e)))
      (fun k => pack16 fun e =>
        bf16.rne ((mulTg (val16 f x e) (val16 f y e) (tg16 x k e) (tg16 y k e)).add (tg16 z k e)))) s

/-! ### Floating arithmetic (Table 10-1) -/

/-- FADD_F32 (R216). -/
def execFaddF32 (g : Grd) (src : Src) (s : State) : Host.Outcome State Fault Refusal :=
  ew2 3 fadd32 (fun x y k l => rnd ((tgOf x k l).add (tgOf y k l))) g src s
/-- FADD_BF16 (R216). -/
def execFaddBf16 (g : Grd) (src : Src) (s : State) : Host.Outcome State Fault Refusal :=
  ew16 bf16 3 Fp.add (fun _ _ ta tb => ta.add tb) g src s
/-- FADD_F16 (R216). -/
def execFaddF16 (g : Grd) (src : Src) (s : State) : Host.Outcome State Fault Refusal :=
  ew16 f16 3 Fp.add (fun _ _ ta tb => ta.add tb) g src s
/-- FSUB_F32 (R216). -/
def execFsubF32 (g : Grd) (src : Src) (s : State) : Host.Outcome State Fault Refusal :=
  ew2 3 (fun a b => rnd ((fp a).sub (fp b))) (fun x y k l => rnd ((tgOf x k l).sub (tgOf y k l))) g src s
/-- FSUB_BF16 (R216). -/
def execFsubBf16 (g : Grd) (src : Src) (s : State) : Host.Outcome State Fault Refusal :=
  ew16 bf16 3 Fp.sub (fun _ _ ta tb => ta.sub tb) g src s
/-- FSUB_F16 (R216). -/
def execFsubF16 (g : Grd) (src : Src) (s : State) : Host.Outcome State Fault Refusal :=
  ew16 f16 3 Fp.sub (fun _ _ ta tb => ta.sub tb) g src s
/-- FMUL_F32 (R216). -/
def execFmulF32 (g : Grd) (src : Src) (s : State) : Host.Outcome State Fault Refusal :=
  ew2 4 fmul32 (fun x y k l => rnd (mulTg (fp (x.l l)) (fp (y.l l)) (tgOf x k l) (tgOf y k l))) g src s
/-- FMUL_BF16 (R216). -/
def execFmulBf16 (g : Grd) (src : Src) (s : State) : Host.Outcome State Fault Refusal := ew16 bf16 4 Fp.mul mulTg g src s
/-- FMUL_F16 (R216). -/
def execFmulF16 (g : Grd) (src : Src) (s : State) : Host.Outcome State Fault Refusal := ew16 f16 4 Fp.mul mulTg g src s
/-- FMA_F32 (R216): a·b + c, exact and rounded once. -/
def execFmaF32 (g : Grd) (src : Src) (s : State) : Host.Outcome State Fault Refusal :=
  faOp g src 3 (fun c b =>
    let x := b.vl c.u 0
    let y := b.vl c.u 1
    let z := b.vl c.u 2
    let (m, b) := b.common [x.map, y.map, z.map]
    b.emit c (portR c.u) 4 m (fun l => rnd (((fp (x.l l)).mul (fp (y.l l))).add (fp (z.l l))))
      (fun k l => rnd ((mulTg (fp (x.l l)) (fp (y.l l)) (tgOf x k l) (tgOf y k l)).add (tgOf z k l)))) s
/-- FMA_BF16 (R216). -/
def execFmaBf16 (g : Grd) (src : Src) (s : State) : Host.Outcome State Fault Refusal := fma16 bf16 g src s
/-- FMA_F16 (R216). -/
def execFmaF16 (g : Grd) (src : Src) (s : State) : Host.Outcome State Fault Refusal := fma16 f16 g src s
/-- FMIN_F32 (R216). -/
def execFminF32 (g : Grd) (src : Src) (s : State) : Host.Outcome State Fault Refusal := ew2 3 (selF32 true) (selTg true) g src s
/-- The 16-bit `fmin` and `fmax`. -/
def sel16 (f : FFmt) (isMin : Bool) (g : Grd) (src : Src) (s : State) : Host.Outcome State Fault Refusal :=
  ew16 f 3 (selFp isMin) (fun a b ta tb => if pickFirst isMin a b then ta else tb) g src s
/-- FMIN_BF16 (R216). -/
def execFminBf16 (g : Grd) (src : Src) (s : State) : Host.Outcome State Fault Refusal := sel16 bf16 true g src s
/-- FMIN_F16 (R216). -/
def execFminF16 (g : Grd) (src : Src) (s : State) : Host.Outcome State Fault Refusal := sel16 f16 true g src s
/-- FMAX_F32 (R216). -/
def execFmaxF32 (g : Grd) (src : Src) (s : State) : Host.Outcome State Fault Refusal := ew2 3 (selF32 false) (selTg false) g src s
/-- FMAX_BF16 (R216). -/
def execFmaxBf16 (g : Grd) (src : Src) (s : State) : Host.Outcome State Fault Refusal := sel16 bf16 false g src s
/-- FMAX_F16 (R216). -/
def execFmaxF16 (g : Grd) (src : Src) (s : State) : Host.Outcome State Fault Refusal := sel16 f16 false g src s

/-! ### One operand (R217) -/

/-- FABS_F32 (R217): the tangent is sign(a)·ta, with +ta at ±0. -/
def execFabsF32 (g : Grd) (src : Src) (s : State) : Host.Outcome State Fault Refusal :=
  ew1 3 (fun a => rnd (fp a).abs)
    (fun x k l =>
      let a := fp (x.l l)
      rnd (if a.isNan then .nan else if a.neg && !a.isZero then (tgOf x k l).negate else tgOf x k l)) g src s
/-- FNEG_F32 (R217). -/
def execFnegF32 (g : Grd) (src : Src) (s : State) : Host.Outcome State Fault Refusal :=
  ew1 3 (fun a => rnd (fp a).negate) (fun x k l => rnd (tgOf x k l).negate) g src s
/-- The integral value nearest to a finite value, by RNE, keeping the sign. -/
def integral (x : Fp) : Fp := match x with | .fin n m e => .fin n (roundAt .rne m e 0 false) 0 | y => y
/-- FRND_F32 (R217). -/
def execFrndF32 (g : Grd) (src : Src) (s : State) : Host.Outcome State Fault Refusal :=
  ew1 3 (fun a => rnd (integral (fp a))) (fun _ => noTg) g src s

/-! ### Floating compares (R218) -/

/-- FCMPEQ_F32 (R218). -/
def execFcmpeqF32 (g : Grd) (src : Src) (s : State) : Host.Outcome State Fault Refusal :=
  ew2 3 (fun a b => b2l ((fp a).eq (fp b))) (fun _ _ => noTg) g src s
/-- FCMPLT_F32 (R218). -/
def execFcmpltF32 (g : Grd) (src : Src) (s : State) : Host.Outcome State Fault Refusal :=
  ew2 3 (fun a b => b2l ((fp a).lt (fp b))) (fun _ _ => noTg) g src s
/-- FCMPLE_F32 (R218). -/
def execFcmpleF32 (g : Grd) (src : Src) (s : State) : Host.Outcome State Fault Refusal :=
  ew2 3 (fun a b => b2l ((fp a).lt (fp b) || (fp a).eq (fp b))) (fun _ _ => noTg) g src s
/-- FCMPUN_F32 (R218). -/
def execFcmpunF32 (g : Grd) (src : Src) (s : State) : Host.Outcome State Fault Refusal :=
  ew2 3 (fun a b => b2l ((fp a).isNan || (fp b).isNan)) (fun _ _ => noTg) g src s

/-! ### Integer and bitwise (Table 10-3) -/

/-- An integer, bitwise or predicate operation: +0 tangents (Table 6-6). -/
def ewI (cls : Nat) (f : Lane → Lane → Lane) (g : Grd) (src : Src) (s : State) : Host.Outcome State Fault Refusal :=
  ew2 cls f (fun _ _ => noTg) g src s

/-- VADD (R219). -/
def execVadd (g : Grd) (src : Src) (s : State) : Host.Outcome State Fault Refusal := ewI 3 (fun a b => a + b) g src s
/-- VSUB (R219). -/
def execVsub (g : Grd) (src : Src) (s : State) : Host.Outcome State Fault Refusal := ewI 3 (fun a b => a - b) g src s
/-- VMUL (R219). -/
def execVmul (g : Grd) (src : Src) (s : State) : Host.Outcome State Fault Refusal := ewI 4 (fun a b => a * b) g src s
/-- VMIN_I32 (R219). -/
def execVminI32 (g : Grd) (src : Src) (s : State) : Host.Outcome State Fault Refusal :=
  ewI 3 (fun a b => if b.slt a then b else a) g src s
/-- VMIN_N32 (R219). -/
def execVminN32 (g : Grd) (src : Src) (s : State) : Host.Outcome State Fault Refusal :=
  ewI 3 (fun a b => if b.ult a then b else a) g src s
/-- VMAX_I32 (R219). -/
def execVmaxI32 (g : Grd) (src : Src) (s : State) : Host.Outcome State Fault Refusal :=
  ewI 3 (fun a b => if a.slt b then b else a) g src s
/-- VMAX_N32 (R219). -/
def execVmaxN32 (g : Grd) (src : Src) (s : State) : Host.Outcome State Fault Refusal :=
  ewI 3 (fun a b => if a.ult b then b else a) g src s
/-- VAND (R219). -/
def execVand (g : Grd) (src : Src) (s : State) : Host.Outcome State Fault Refusal := ewI 3 (fun a b => a &&& b) g src s
/-- VOR (R219). -/
def execVor (g : Grd) (src : Src) (s : State) : Host.Outcome State Fault Refusal := ewI 3 (fun a b => a ||| b) g src s
/-- VXOR (R219). -/
def execVxor (g : Grd) (src : Src) (s : State) : Host.Outcome State Fault Refusal := ewI 3 (fun a b => a ^^^ b) g src s
/-- VSHL (R219). -/
def execVshl (g : Grd) (src : Src) (s : State) : Host.Outcome State Fault Refusal :=
  ewI 3 (fun a b => a <<< (b.toNat % 32)) g src s
/-- VSHR_N32 (R219). -/
def execVshrN32 (g : Grd) (src : Src) (s : State) : Host.Outcome State Fault Refusal :=
  ewI 3 (fun a b => a >>> (b.toNat % 32)) g src s
/-- VSHR_I32 (R219). -/
def execVshrI32 (g : Grd) (src : Src) (s : State) : Host.Outcome State Fault Refusal :=
  ewI 3 (fun a b => a.sshiftRight (b.toNat % 32)) g src s
/-- VCMPEQ (R219). -/
def execVcmpeq (g : Grd) (src : Src) (s : State) : Host.Outcome State Fault Refusal := ewI 3 (fun a b => b2l (a = b)) g src s
/-- VCMPLT_I32 (R219). -/
def execVcmpltI32 (g : Grd) (src : Src) (s : State) : Host.Outcome State Fault Refusal := ewI 3 (fun a b => b2l (a.slt b)) g src s
/-- VCMPLT_N32 (R219). -/
def execVcmpltN32 (g : Grd) (src : Src) (s : State) : Host.Outcome State Fault Refusal := ewI 3 (fun a b => b2l (a.ult b)) g src s
/-- VSEL (R219): the value operands are a and b. -/
def execVsel (g : Grd) (src : Src) (s : State) : Host.Outcome State Fault Refusal :=
  faOp g src 3 (fun c b =>
    let x := b.vl c.u 0
    let y := b.vl c.u 1
    let z := b.vl c.u 2
    let (m, b) := b.common [x.map, y.map]
    b.emit c (portR c.u) 3 m (fun l => if z.l l ≠ 0 then x.l l else y.l l)
      (fun k l => if z.l l ≠ 0 then x.tgr k l else y.tgr k l)) s

/-! ### Predicates and broadcast (Table 10-4) -/

/-- QAND (R220). -/
def execQand (g : Grd) (src : Src) (s : State) : Host.Outcome State Fault Refusal :=
  ewI 3 (fun a b => b2l (a ≠ 0 && b ≠ 0)) g src s
/-- QOR (R220). -/
def execQor (g : Grd) (src : Src) (s : State) : Host.Outcome State Fault Refusal :=
  ewI 3 (fun a b => b2l (a ≠ 0 || b ≠ 0)) g src s
/-- QXOR (R220). -/
def execQxor (g : Grd) (src : Src) (s : State) : Host.Outcome State Fault Refusal :=
  ewI 3 (fun a b => b2l (decide (a ≠ 0) != decide (b ≠ 0))) g src s
/-- QANDN (R220). -/
def execQandn (g : Grd) (src : Src) (s : State) : Host.Outcome State Fault Refusal :=
  ewI 3 (fun a b => b2l (a ≠ 0 && b = 0)) g src s
/-- The non-zero lanes of a vector, rising. -/
def VVal.live (v : VVal) : List Nat := (List.range 64).filter fun l => v.l l ≠ 0
/-- QCNT (R220). -/
def execQcnt (g : Grd) (src : Src) (s : State) : Host.Outcome State Fault Refusal :=
  faOp g src 1 (fun c b =>
    b.emit c (portR c.u) 3 MapD.none (fun _ => BitVec.ofNat 32 (b.vl c.u 0).live.length) noTg) s
/-- QFFS (R220). -/
def execQffs (g : Grd) (src : Src) (s : State) : Host.Outcome State Fault Refusal :=
  faOp g src 1 (fun c b =>
    b.emit c (portR c.u) 3 MapD.none (fun _ => BitVec.ofNat 32 ((b.vl c.u 0).live.headD 64)) noTg) s
/-- VBCAST (R220): every lane takes lane k with its tangents. -/
def execVbcast (g : Grd) (src : Src) (s : State) : Host.Outcome State Fault Refusal :=
  faOp g src 2 (fun c b =>
    let x := b.vl c.u 0
    let k := fld ((b.vl c.u 1).l 0) 5 0
    b.emit c (portR c.u) 3 MapD.none (fun _ => x.l k) (fun t _ => x.tgl t k)) s

/-! ### Compare-and-swap (R221) -/

/-- `vcas`: `r` takes the greater, `rx` the lesser; equal operands go to `r` and `rx` in order. -/
def casOp (lt : Lane → Lane → Bool) (out : Lane → Lane) (g : Grd) (src : Src) (s : State) : Host.Outcome State Fault Refusal :=
  faOp g src 2 (fun c b =>
    let x := b.vl c.u 0
    let y := b.vl c.u 1
    let (m, b) := b.common [x.map, y.map]
    let sw := fun l => lt (x.l l) (y.l l)
    let b := b.emit c (portR c.u) 3 m (fun l => out (if sw l then y.l l else x.l l))
      (fun k l => if sw l then y.tgr k l else x.tgr k l)
    b.emit c (portRx c.u) 3 m (fun l => out (if sw l then x.l l else y.l l))
      (fun k l => if sw l then x.tgr k l else y.tgr k l)) s
/-- VCAS_F32 (R221). -/
def execVcasF32 (g : Grd) (src : Src) (s : State) : Host.Outcome State Fault Refusal :=
  casOp (fun a b => totalLt (fp a) (fp b)) (fun a => rnd (fp a)) g src s
/-- VCAS_I32 (R221). -/
def execVcasI32 (g : Grd) (src : Src) (s : State) : Host.Outcome State Fault Refusal := casOp BitVec.slt id g src s
/-- VCAS_N32 (R221). -/
def execVcasN32 (g : Grd) (src : Src) (s : State) : Host.Outcome State Fault Refusal := casOp BitVec.ult id g src s

/-! ### Special functions (R231) -/

/-- A trigger of the special-function unit: the correctly rounded value and the tangent of R125. -/
def sfOp (f : SFun) (g : Grd) (src : Src) (s : State) : Host.Outcome State Fault Refusal :=
  slot (fun pre b => trigger pre b g src (sfUnit g.slot.val) 1 fun c b =>
    let x := b.vl c.u 0
    b.emit c (portR c.u) 5 x.map (fun l => f.val (fp (x.l l)))
      (fun k l => f.tan (tgOf x k l) (fp (x.l l)) (fp (f.val (fp (x.l l)))))) s
/-- EXP (R231). -/
def execExp (g : Grd) (src : Src) (s : State) : Host.Outcome State Fault Refusal := sfOp .exp g src s
/-- EXP2 (R231). -/
def execExp2 (g : Grd) (src : Src) (s : State) : Host.Outcome State Fault Refusal := sfOp .exp2 g src s
/-- LOG (R231). -/
def execLog (g : Grd) (src : Src) (s : State) : Host.Outcome State Fault Refusal := sfOp .log g src s
/-- RCP (R231). -/
def execRcp (g : Grd) (src : Src) (s : State) : Host.Outcome State Fault Refusal := sfOp .rcp g src s
/-- RSQRT (R231). -/
def execRsqrt (g : Grd) (src : Src) (s : State) : Host.Outcome State Fault Refusal := sfOp .rsqrt g src s
/-- TANH (R231). -/
def execTanh (g : Grd) (src : Src) (s : State) : Host.Outcome State Fault Refusal := sfOp .tanh g src s
/-- SIGM (R231). -/
def execSigm (g : Grd) (src : Src) (s : State) : Host.Outcome State Fault Refusal := sfOp .sigm g src s
/-- SIN (R231). -/
def execSin (g : Grd) (src : Src) (s : State) : Host.Outcome State Fault Refusal := sfOp .sin g src s
/-- COS (R231). -/
def execCos (g : Grd) (src : Src) (s : State) : Host.Outcome State Fault Refusal := sfOp .cos g src s
/-- ERF (R231). -/
def execErf (g : Grd) (src : Src) (s : State) : Host.Outcome State Fault Refusal := sfOp .erf g src s

end Sys2Proof.Machine
end

