-- ==== Sys2Proof/Machine/VectorMap.lean ====
section
/-! DEFINITION. Vector operations across lanes and on maps (R222–R230): permutes, reductions, scans, compaction, conversions, the
coordinate-map operations and index-keyed noise. -/

namespace Sys2Proof.Machine

/-! ### INDEXED results (R113, R117, R120) -/

/-- The record of a lane: of an INDEXED map its side-store's, of an AFFINE map the share of each entry alone (R236), else vacant. -/
def MapD.recOf (m : MapD) (st : SStore) (l : Nat) : Rec :=
  match m.st with
  | .indexed => nth st l
  | .affine => Vector.ofFn fun k => if k.val < m.nmov.toNat then m.share l k.val else 0
  | _ => vacantRec

/-- An INDEXED map with the ranks, origin and extents of another and indexed entries of its dimensions (R113: CNT 0). -/
def MapD.indexed (m : MapD) (ix : Nat) : MapD :=
  { m with st := .indexed, ssix := BitVec.ofNat 4 ix, mov := Vector.ofFn fun k => ⟨(nth m.mov k).dim, 0, 0⟩ }

/-- Give a result an INDEXED map with new records in a side-store claimed by R120; with none free the map is OPAQUE and MAPLOST is
set. A lane without a record leaves that of the store. The records are written at issue, while the port still shows its old value (DESIGN CHOICE: R120 does
not say when). -/
def Issue.claim (b : Issue) (c : Ctx) (p : VPort) (base : MapD) (recs : Nat → Option Rec) : MapD × Issue :=
  let clu := unitClu c.u
  match b.now.t.claim clu b.now.isSec p (c.mask ≠ allLanes) with
  | none => (MapD.opaque_, b.lost true)
  | some i =>
    ({ base with st := .indexed, clu := clu, ssix := BitVec.ofNat 4 i },
     b.modT fun t => t.setStore clu i (Vector.ofFn fun l => (recs l.val).getD
       (nth (nth (match clu with | .a => t.ssA | .b => t.ssB) i) l.val)))

/-- The map of a result whose lane `l` takes the coordinates of the source lane `from_ l`, or is vacant. NONE and OPAQUE pass on
(R117). -/
def Issue.gathered (b : Issue) (c : Ctx) (p : VPort) (m : MapD) (from_ : Nat → Option Nat) : MapD × Issue :=
  match m.st with
  | .none => (m, b)
  | .opq => (m, b)
  | _ =>
    let st := c.pre.t.store m
    b.claim c p (m.indexed 0) fun l => some (match from_ l with | some i => m.recOf st i | none => vacantRec)

/-! ### Permutes and compaction (R222, R223, R226) -/

/-- Byte `j` of a lane. -/
def laneByte (x : Lane) (j : Nat) : Nat := fld x (8 * j + 7) (8 * j)

/-- VBPERM (R222). -/
def execVbperm (g : Grd) (src : Src) (s : State) : Host.Outcome State Fault Refusal :=
  faOp g src 2 (fun c b =>
    let a := b.vl c.u 0
    let x := b.vl c.u 1
    let pick := fun (l j : Nat) =>
      let k := laneByte (x.l l) j
      if 128 ≤ k then 0 else laneByte (a.l (8 * (l / 8) + k % 32 / 4)) (k % 4)
    b.emit c (portR c.u) 3 a.map
      (fun l => BitVec.ofNat 32 (pick l 0 + pick l 1 * 2 ^ 8 + pick l 2 * 2 ^ 16 + pick l 3 * 2 ^ 24))
      (fun t l =>
        let k := laneByte (x.l l) 0
        if 128 ≤ k then 0 else a.tgl t (8 * (l / 8) + k % 32 / 4))) s

/-- A result whose lanes come from chosen lanes of the data operand. -/
def Issue.pick (b : Issue) (c : Ctx) (a : VVal) (from_ : Nat → Option Nat) : Issue :=
  let (m, b) := b.gathered c (portR c.u) a.map from_
  b.emit c (portR c.u) 3 m (fun l => match from_ l with | some i => a.l i | none => 0)
    (fun k l => match from_ l with | some i => a.tgl k i | none => 0)

/-- VLPERM (R223). -/
def execVlperm (g : Grd) (src : Src) (s : State) : Host.Outcome State Fault Refusal :=
  faOp g src 2 (fun c b =>
    let x := b.vl c.u 1
    b.pick c (b.vl c.u 0) fun l => if bit (x.l l) 31 then none else some (fld (x.l l) 5 0)) s

/-- VCMPACT (R226): survivors move down; `rx` counts them. -/
def execVcmpact (g : Grd) (src : Src) (s : State) : Host.Outcome State Fault Refusal :=
  faOp g src 2 (fun c b =>
    let live := (b.vl c.u 1).live
    let b := b.pick c (b.vl c.u 0) fun l => live[l]?
    b.emit c (portRx c.u) 3 MapD.none (fun _ => BitVec.ofNat 32 live.length) noTg) s

/-! ### Reductions and scans (R224, R225) -/

/-- One level of the reduction tree: neighbours are combined, an absent input passes the other through. -/
def foldPairs {α : Type} (f : α → α → α) : List (Option α) → List (Option α)
  | x :: y :: r => (match x, y with | some a, some b => some (f a b) | some a, none => some a | none, z => z) :: foldPairs f r
  | r => r
/-- The fixed tree of six levels over 64 lanes. -/
def foldTree {α : Type} (f : α → α → α) (l : List (Option α)) : Option α :=
  match foldPairs f (foldPairs f (foldPairs f (foldPairs f (foldPairs f (foldPairs f l))))) with
  | [x] => x
  | _ => none

/-- The lowest lane of a list that no later one beats. -/
def bestLane (beats : Nat → Nat → Bool) : List Nat → Nat
  | [] => 0
  | l :: ls => ls.foldl (fun acc k => if beats k acc then k else acc) l

/-- `vred` (R224): `sum` adds values, `tsum` tangents; `beats min k acc` says that lane `k` replaces the selected lane `acc`. -/
def redOp (sum : Lane → Lane → Lane) (beats : Bool → Lane → Lane → Bool) (out : Lane → Lane) (g : Grd) (src : Src) (s : State) :
    Host.Outcome State Fault Refusal :=
  faOp g src 2 (fun c b =>
    let x := b.vl c.u 0
    let lanes := (List.range 64).filter fun l => c.mask.getLsbD l
    let on := fun (f : Nat → Lane) => (List.range 64).map fun l => if c.mask.getLsbD l then some (f l) else none
    let emit := fun (v : Lane) (t : Nat → Lane) => b.emit c (portR c.u) 4 MapD.none (fun _ => v) (fun k _ => t k)
    match fld ((b.vl c.u 1).l 0) 1 0 with
    | 0 => emit (out ((foldTree sum (on x.l)).getD 0)) fun k => rnd (fp ((foldTree fadd32 (on (x.tgl k))).getD 0))
    | 3 => b.trapAt c.slot 0x06
    | n =>
      let l := bestLane (fun k acc => beats (n = 1) (x.l k) (x.l acc)) lanes
      emit (out (x.l l)) fun k => x.tgr k l) s
/-- VRED_F32 (R224). -/
def execVredF32 (g : Grd) (src : Src) (s : State) : Host.Outcome State Fault Refusal :=
  redOp fadd32 (fun mn k acc => !pickFirst mn (fp acc) (fp k)) (fun a => rnd (fp a)) g src s
/-- VRED_I32 (R224). -/
def execVredI32 (g : Grd) (src : Src) (s : State) : Host.Outcome State Fault Refusal :=
  redOp (fun a b => a + b) (fun mn k acc => if mn then k.slt acc else acc.slt k) id g src s
/-- VRED_N32 (R224). -/
def execVredN32 (g : Grd) (src : Src) (s : State) : Host.Outcome State Fault Refusal :=
  redOp (fun a b => a + b) (fun mn k acc => if mn then k.ult acc else acc.ult k) id g src s

/-- The prefix sums of R225 over a list of summands, `none` for a lane that the guard excludes. -/
def scanRun (add : Lane → Lane → Lane) (excl : Bool) : Lane → List (Option Lane) → List Lane
  | _, [] => []
  | acc, x :: xs =>
    let acc' := match x with | some a => add acc a | none => acc
    (if excl then acc else acc') :: scanRun add excl acc' xs
/-- `vscan` (R225). -/
def scanOp (add : Lane → Lane → Lane) (tadd : Lane → Lane → Lane) (g : Grd) (src : Src) (s : State) :
    Host.Outcome State Fault Refusal :=
  faOp g src 2 (fun c b =>
    let x := b.vl c.u 0
    let excl := bit ((b.vl c.u 1).l 0) 0
    let run := fun (add : Lane → Lane → Lane) (f : Nat → Lane) =>
      scanRun add excl 0 ((List.range 64).map fun l => if c.mask.getLsbD l then some (f l) else none)
    let vs := run add x.l
    b.emit c (portR c.u) 4 x.map (fun l => vs.getD l 0) (fun k => let ts := run tadd (x.tgl k); fun l => ts.getD l 0)) s
/-- VSCAN_F32 (R225). -/
def execVscanF32 (g : Grd) (src : Src) (s : State) : Host.Outcome State Fault Refusal := scanOp fadd32 fadd32 g src s
/-- VSCAN_I32 (R225). -/
def execVscanI32 (g : Grd) (src : Src) (s : State) : Host.Outcome State Fault Refusal :=
  scanOp (fun a b => a + b) fadd32 g src s

/-! ### Conversions (R104–R108, R227) -/

/-- A vector conversion: one element per lane, unpacked. -/
def cvtOp (k : CvtT) (rd : Lane → Fp) (tg : VVal → Nat → Nat → Lane) (g : Grd) (src : Src) (s : State) :
    Host.Outcome State Fault Refusal :=
  faOp g src 1 (fun c b =>
    let x := b.vl c.u 0
    let st := c.pre.t.store x.map
    let rs := c.pre.t.convert k (x.map.lin st)
      ((List.range 64).map fun l => if c.mask.getLsbD l then some (rd (x.l l)) else none)
    let (nan, sat) := cvtStatus rs
    (b.status nan sat false).emit c (portR c.u) 3 x.map
      (fun l => match rs[l]? with | some (some r) => BitVec.ofNat 32 r.code | _ => 0) (tg x)) s
/-- VCVTF_I32 (R227). -/
def execVcvtfI32 (g : Grd) (src : Src) (s : State) : Host.Outcome State Fault Refusal :=
  cvtOp (.flt f32) (fun a => Fp.ofInt a.toInt) VVal.tgr g src s
/-- VCVTI_F32 (R227). -/
def execVcvtiF32 (g : Grd) (src : Src) (s : State) : Host.Outcome State Fault Refusal :=
  cvtOp (.int 32 true) fp (fun _ => noTg) g src s
/-- VCVT_BF16 (R227). -/
def execVcvtBf16 (g : Grd) (src : Src) (s : State) : Host.Outcome State Fault Refusal := cvtOp (.flt bf16) fp VVal.tgr g src s
/-- VCVT_F16 (R227). -/
def execVcvtF16 (g : Grd) (src : Src) (s : State) : Host.Outcome State Fault Refusal := cvtOp (.flt f16) fp VVal.tgr g src s

/-! ### Coordinate maps (R228, Table 10-6) -/

/-- A map operation's result: the data operand's values and tangents under another map. -/
def Issue.remap (b : Issue) (c : Ctx) (a : VVal) (m : MapD) : Issue := b.emit c (portR c.u) 3 m a.l a.tgl
/-- A map operation of two operands, data in o1. -/
def cmOp (op : Ctx → VVal → VVal → Issue → Issue) (g : Grd) (src : Src) (s : State) : Host.Outcome State Fault Refusal :=
  faOp g src 2 (fun c b => op c (b.vl c.u 0) (b.vl c.u 1) b) s

/-- CMSET (R228). -/
def execCmset (g : Grd) (src : Src) (s : State) : Host.Outcome State Fault Refusal :=
  cmOp (fun c a v b =>
    let m := mapOfLanes v.l
    if m.setOk 64 then b.remap c a m.held else b.trapAt c.slot 0x06) g src s
/-- CMAFF (R228). -/
def execCmaff (g : Grd) (src : Src) (s : State) : Host.Outcome State Fault Refusal :=
  cmOp (fun c a v b =>
    match a.map.st with
    | .affine =>
      let m := { a.map with mov := Vector.ofFn fun k => movOf (v.l k.val), nmov := BitVec.ofNat 3 (fld (v.l 4) 2 0) }
      if m.setOk 64 then b.remap c a m else b.trapAt c.slot 0x06
    | .opq => b.remap c a MapD.opaque_
    | _ => (b.lost true).remap c a MapD.opaque_) g src s
/-- A map whose entries j and k have exchanged their DIM fields. -/
def MapD.swapDims (m : MapD) (j k : Nat) : MapD :=
  let mj := nth m.mov j
  let mk := nth m.mov k
  { m with mov := setNth (setNth m.mov j { mj with dim := mk.dim }) k { mk with dim := mj.dim } }
/-- CMTRN (R228). -/
def execCmtrn (g : Grd) (src : Src) (s : State) : Host.Outcome State Fault Refusal :=
  cmOp (fun c a v b =>
    let j := fld (v.l 0) 1 0
    let k := fld (v.l 0) 3 2
    match a.map.st with
    | .none => b.remap c a a.map
    | .opq => b.remap c a a.map
    | _ =>
      if a.map.nmov.toNat ≤ j || a.map.nmov.toNat ≤ k then b.trapAt c.slot 0x06
      else b.remap c a (if j = k then a.map else a.map.swapDims j k)) g src s
/-- CMST (R228): never traps. -/
def execCmst (g : Grd) (src : Src) (s : State) : Host.Outcome State Fault Refusal :=
  faOp g src 1 (fun c b =>
    let m := (b.vl c.u 0).map
    (b.emit c (portR c.u) 3 MapD.none (fun _ => BitVec.ofNat 32 m.st.num) noTg).emit c (portRx c.u) 3 MapD.none
      (fun _ => m.hdr.setWidth 32) noTg) s
/-- CMSLC (R228). -/
def execCmslc (g : Grd) (src : Src) (s : State) : Host.Outcome State Fault Refusal :=
  cmOp (fun c a v b =>
    match a.map.st with
    | .none => b.remap c a a.map
    | .opq => b.remap c a a.map
    | _ => b.remap c a { a.map with org := Vector.ofFn fun d => nth a.map.org d + v.l d.val }) g src s
/-- CMIDX (R228): explicit coordinates in o2. -/
def execCmidx (g : Grd) (src : Src) (s : State) : Host.Outcome State Fault Refusal :=
  faOp g src 3 (fun c b =>
    let a := b.vl c.u 0
    let x := b.vl c.u 1
    let d := fld ((b.vl c.u 2).l 0) 3 0
    let base : MapD := match a.map.st with
      | .affine => a.map
      | .indexed => a.map
      | _ => { MapD.none with rank := 1 }
    if base.rank.toNat ≤ d then b.trapAt c.slot 0x06
    else
      let z : MovE := ⟨0, 0, 0⟩
      let m := { base with nmov := 1, mov := #v[⟨BitVec.ofNat 4 d, 0, 0⟩, z, z, z] }
      let (m, b) := b.claim c (portR c.u) m fun l => some (if x.l l = 0x80000000 then vacantRec else #v[x.l l, 0, 0, 0])
      b.remap c a m) s
/-- CMCLR (R228). -/
def execCmclr (g : Grd) (src : Src) (s : State) : Host.Outcome State Fault Refusal :=
  faOp g src 1 (fun c b => b.remap c (b.vl c.u 0) MapD.none) s

/-! ### Noise (R229, R230) -/

/-- `vknf`: SEED and NRC as they stand in step 1. -/
def knfOp (out : Nat → Lane) (g : Grd) (src : Src) (s : State) : Host.Outcome State Fault Refusal :=
  faOp g src 2 (fun c b =>
    let x := b.vl c.u 0
    let t := c.pre.t
    let st := t.store x.map
    let stream := fld ((b.vl c.u 1).l 0) 15 0
    b.emit c (portR c.u) 3 x.map (fun l => out (noise32 t.seed stream t.nrc (x.map.lin st l))) noTg) s
/-- VKNF_N32 (R229). -/
def execVknfN32 (g : Grd) (src : Src) (s : State) : Host.Outcome State Fault Refusal := knfOp (BitVec.ofNat 32) g src s
/-- VKNF_F32 (R229). -/
def execVknfF32 (g : Grd) (src : Src) (s : State) : Host.Outcome State Fault Refusal :=
  knfOp (fun x => rnd (.fin false (x / 256) (-24))) g src s
/-- NRCINC (R230): the increments of one A-cycle add up. -/
def execNrcinc (g : Grd) (src : Src) (s : State) : Host.Outcome State Fault Refusal :=
  faOp g src 1 (fun c b =>
    let n := BitVec.ofNat 16 (fld ((b.vl c.u 0).l 0) 15 0)
    b.modT fun t => { t with nrc := t.nrc + n }) s

end Sys2Proof.Machine
end

