-- ==== Sys2Proof/Machine/VMem.lean ====
section
/-! DEFINITION. Vector memory (R232–R238): scratchpad loads and stores in plain and descriptor form, full-empty forms, coordinate
records, and the landing load `vldl`. Scratchpad reads see the machine before the bundle, writes act in step 2 (R234). -/

namespace Sys2Proof.Machine

/-- A trigger of a vector memory unit with its operand count. -/
def vmOp (g : Grd) (src : Src) (nops : Nat) (op : Ctx → Issue → Issue) (s : State) : Host.Outcome State Fault Refusal :=
  slot (fun pre b => trigger pre b g src (vmUnit g.slot.val) nops op) s

/-! ### Control words and descriptors (Tables 10-8, 10-9) -/

/-- DESC. -/
def cwDesc (w : Lane) : Bool := bit w 31
/-- OFF. -/
def cwOff (w : Lane) : Nat := fld w 20 0

/-- An access descriptor as a latch holds it: MAPD, BASE, BSTR. -/
structure Desc where
  map : MapD
  base : Nat
  bstr : Nat → Int

/-- The descriptor in a latch. -/
def VVal.desc (v : VVal) : Desc := ⟨mapOfLanes v.l, (v.l 34).toNat, fun k => (v.l (35 + k)).toInt⟩

/-- The address of lane `l` in descriptor form (R233). -/
def Desc.addr (d : Desc) (off l : Nat) : Int :=
  (List.range (min d.map.nmov.toNat 4)).foldl (fun a k => a + d.bstr k * (d.map.digit l k : Int)) ((d.base + off : Nat) : Int)

/-- The lanes an access makes: those of the guard (R233). -/
def Ctx.lanes (c : Ctx) : List Nat := (List.range 64).filter fun l => c.mask.getLsbD l

/-- Where the lanes of an access lie: per lane its address, or the cause that stops the access. -/
def vmAddrs (w : Lane) (d : VVal) : Except Nat (Nat → Int) :=
  if cwDesc w then
    if d.desc.map.descOk then .ok (d.desc.addr (cwOff w)) else .error 0x06
  else if cwOff w % 16 ≠ 0 then .error 0x07
  else .ok fun l => ((cwOff w + 4 * l : Nat) : Int)

/-- The number of tangents an access moves: none when the bundle is not dual or TGSTR is 0 (R127, R238). -/
def Mach.tgMoves (m : Mach) : Nat := if m.dual && m.t.tgstr ≠ 0 then m.t.T else 0
/-- The displacement of copy `k` of an access: 0 for the primal, then its tangents (R127). -/
def Mach.tgDisp (m : Mach) (k : Nat) : Int := (k * m.t.tgstr.toNat : Nat)

/-- Lane address alignment and the scratchpad's end, for the primal and its tangents (R132, R233). -/
def Ctx.checkAddrs (c : Ctx) (f : Nat → Int) : Option Nat :=
  if c.lanes.any fun l => f l % 4 ≠ 0 then some 0x07
  else if c.lanes.any fun l => (List.range (c.pre.tgMoves + 1)).any fun k =>
      f l + c.pre.tgDisp k < 0 || (c.pre.spadSize : Int) < f l + c.pre.tgDisp k + 4 then some 0x08
  else none

/-- The scratchpad bytes an access touches, as word addresses: primal first, then each tangent. -/
def Ctx.words (c : Ctx) (f : Nat → Int) : List Nat :=
  (List.range (c.pre.tgMoves + 1)).flatMap fun k => c.lanes.map fun l => (f l + c.pre.tgDisp k).toNat

/-- The granules of word addresses. -/
def granules (ws : List Nat) : List Nat := ws.foldl (fun l w => insertNat (w / 16) l) []

/-- The values an access reads: lanes not accessed read as zero and are not written. -/
def Ctx.gather (c : Ctx) (f : Nat → Int) (k : Nat) : Vec :=
  Vec.build fun l => if c.mask.getLsbD l then BitVec.ofNat 32 (Mem.num c.pre.t.spad (f l + c.pre.tgDisp k).toNat 4) else 0

/-- Deliver a load (R234), or, when a granule it reads is poisoned, unwind when the value was due (R371). -/
def Issue.loaded (b : Issue) (c : Ctx) (ws : List Nat) (v : MapD × Issue → VVal × Issue) (m : Issue → MapD × Issue) : Issue :=
  let hit := c.pre.probeSpad (granules ws)
  let b := { b with now := b.now.probeSpad (granules ws) }
  match ws.find? fun w => hit.t.spadPoison.contains (w / 16) with
  | some w => b.modT fun t => { t with unw := t.unw ++ [⟨0x81, 0, none, BitVec.ofNat 64 w, t.time + t.lat 6⟩] }
  | none =>
    let (x, b) := v (m b)
    b.resultV (portR c.u) 6 c.mask x

/-- The vector an access reads, under a map. -/
def Ctx.loadVec (c : Ctx) (f : Nat → Int) (m : MapD) : VVal :=
  ⟨c.gather f 0, m, if c.pre.dual then (List.range c.pre.tgMoves).map fun k => c.gather f (k + 1) else [], false⟩

/-! ### Loads (R233–R235) -/

/-- Some granule that a full-empty load would read is empty (R235). -/
def Ctx.empties (c : Ctx) (f : Nat → Int) : Bool :=
  c.lanes.any fun l => (List.range (c.pre.tgMoves + 1)).any fun k =>
    let a := f l + c.pre.tgDisp k
    a % 4 = 0 && 0 ≤ a && a + 4 ≤ c.pre.spadSize && !c.pre.t.fe.contains (a.toNat / 16)

/-- `vld`, `vldf` and `vldfc`: `full` waits for full granules, `eat` clears them in step 2. -/
def vldOp (full eat : Bool) (g : Grd) (src : Src) (s : State) : Host.Outcome State Fault Refusal :=
  vmOp g src 2 (fun c b =>
    let d := b.vl c.u 0
    let w := (b.vl c.u 1).l 0
    match vmAddrs w d with
    | .error e => b.trapAt c.slot e
    | .ok f =>
      let ws := c.words f
      let b := if full && c.empties f then b.stallBy .other else b
      match c.checkAddrs f with
      | some e => b.trapAt c.slot e
      | none =>
        let b' := b.loaded c ws (fun p => (c.loadVec f p.1, p.2))
          fun b => (if cwDesc w then d.desc.map.held else MapD.none, b)
        if eat && !ws.any (fun a => (c.pre.probeSpad (granules ws)).t.spadPoison.contains (a / 16)) then
          { b'.modT (fun t => t.setEmpty (granules ws)) with eaten := b'.eaten ++ granules ws }
        else b') s
/-- VLD (R234). -/
def execVld (g : Grd) (src : Src) (s : State) : Host.Outcome State Fault Refusal := vldOp false false g src s
/-- VLDF (R235). -/
def execVldf (g : Grd) (src : Src) (s : State) : Host.Outcome State Fault Refusal := vldOp true false g src s
/-- VLDFC (R235). -/
def execVldfc (g : Grd) (src : Src) (s : State) : Host.Outcome State Fault Refusal := vldOp true true g src s

/-! ### Stores (R234) -/

/-- Write words in order; a granule wholly covered by the store loses its poison (R369). -/
def Thr.putWords (t : Thr) (ws : List (Nat × Lane)) : Thr :=
  let ix := ws.map fun w => w.1 / 4
  { t with
    spad := ws.foldl (fun m w => Mem.writeN m w.1 (leBytes 4 w.2.toNat)) t.spad
    spadPoison := t.spadPoison.filter fun g => !(List.range 4).all fun k => ix.contains (4 * g + k) }

/-- `vst` and `vstf`: `fill` sets the bits of the granules written. -/
def vstOp (fill : Bool) (g : Grd) (src : Src) (s : State) : Host.Outcome State Fault Refusal :=
  vmOp g src 3 (fun c b =>
    let x := b.vl c.u 0
    let w := (b.vl c.u 2).l 0
    match vmAddrs w (b.vl c.u 1) with
    | .error e => b.trapAt c.slot e
    | .ok f => match c.checkAddrs f with
      | some e => b.trapAt c.slot e
      | none =>
        let vals := (List.range (c.pre.tgMoves + 1)).flatMap fun k =>
          c.lanes.map fun l => if k = 0 then x.l l else x.tgl (k - 1) l
        let ws := c.words f
        b.modT fun t =>
          let t := t.putWords (ws.zip vals)
          if fill then t.setFull (granules ws) else t) s
/-- VST (R234). -/
def execVst (g : Grd) (src : Src) (s : State) : Host.Outcome State Fault Refusal := vstOp false g src s
/-- VSTF (R234). -/
def execVstf (g : Grd) (src : Src) (s : State) : Host.Outcome State Fault Refusal := vstOp true g src s

/-! ### Full-empty bits (Table 10-10) -/

/-- VFE (R234): granules at or beyond the scratchpad end read 0. -/
def execVfe (g : Grd) (src : Src) (s : State) : Host.Outcome State Fault Refusal :=
  vmOp g src 1 (fun c b =>
    let w := (b.vl c.u 0).l 0
    if cwDesc w then b.trapAt c.slot 0x06
    else if cwOff w % 16 ≠ 0 then b.trapAt c.slot 0x07
    else
      let t := c.pre.t
      b.resultV (portR c.u) 6 c.mask
        ⟨Vec.build fun l => b2l (cwOff w + 16 * l + 16 ≤ c.pre.spadSize && t.fe.contains (cwOff w / 16 + l)), MapD.none, [], false⟩) s
/-- VFECLR (R234). -/
def execVfeclr (g : Grd) (src : Src) (s : State) : Host.Outcome State Fault Refusal :=
  vmOp g src 2 (fun c b =>
    let o := (b.vl c.u 0).l 0
    let w := (b.vl c.u 1).l 0
    let n := fld o 12 0
    if 4096 < n || cwDesc w then b.trapAt c.slot 0x06
    else if n = 0 then b
    else if cwOff w % 16 ≠ 0 then b.trapAt c.slot 0x07
    else if c.pre.spadSize < cwOff w + 16 * n then b.trapAt c.slot 0x08
    else
      let gs := (List.range n).map (· + cwOff w / 16)
      b.modT fun t => if bit o 31 then t.setFull gs else t.setEmpty gs) s

/-! ### Coordinate records (R236) -/

/-- A record at a scratchpad offset. -/
def recAt (m : Mem) (off : Nat) : Rec := Vector.ofFn fun k => BitVec.ofNat 32 (Mem.num m (off + 4 * k.val) 4)

/-- VLDQ (R236): the map is MAPD's, its entries marked as indexed (R113). Records of lanes whose guard is false are neither checked nor read (R337). -/
def execVldq (g : Grd) (src : Src) (s : State) : Host.Outcome State Fault Refusal :=
  vmOp g src 2 (fun c b =>
    let d := (b.vl c.u 0).desc
    let w := (b.vl c.u 1).l 0
    let f : Nat → Int := if cwDesc w then fun l => (cwOff w : Int) + l * d.bstr 0 else fun l => ((cwOff w + 4 * l : Nat) : Int)
    if d.map.st ≠ .indexed then b.trapAt c.slot 0x06
    else if d.base % 16 ≠ 0 then b.trapAt c.slot 0x07
    else if c.lanes.any fun l => c.pre.spadSize < d.base + 16 * l + 16 then b.trapAt c.slot 0x08
    else if (if cwDesc w then d.bstr 0 % 4 ≠ 0 else cwOff w % 16 ≠ 0) then b.trapAt c.slot 0x07
    else match c.checkAddrs f with
      | some e => b.trapAt c.slot e
      | none =>
        let ws := (c.lanes.flatMap fun l => (List.range 4).map fun i => d.base + 16 * l + 4 * i) ++ c.words f
        b.loaded c ws (fun p => (c.loadVec f p.1, p.2))
          fun b => b.claim c (portR c.u) (d.map.indexed 0) fun l =>
            if c.mask.getLsbD l then some (recAt c.pre.t.spad (d.base + 16 * l)) else none) s
/-- VSTQ (R236). -/
def execVstq (g : Grd) (src : Src) (s : State) : Host.Outcome State Fault Refusal :=
  vmOp g src 2 (fun c b =>
    let m := (b.vl c.u 0).map
    let w := (b.vl c.u 1).l 0
    if cwDesc w then b.trapAt c.slot 0x06
    else if cwOff w % 16 ≠ 0 then b.trapAt c.slot 0x07
    else if c.lanes.any fun l => c.pre.spadSize < cwOff w + 16 * l + 16 then b.trapAt c.slot 0x08
    else
      let st := c.pre.t.store m
      b.modT fun t => t.putWords (c.lanes.flatMap fun l =>
        (List.range 4).map fun k => (cwOff w + 16 * l + 4 * k, nth (m.recOf st l) k))) s

/-! ### Landing loads (R237) -/

/-- The size of a cluster SRAM (R138). -/
def csSize : Nat := 0x800000

/-- VLDL (R237): a remote read that lands in a register of the unit's cluster at i + D; its tangents land with it (R238). -/
def execVldl (g : Grd) (src : Src) (s : State) : Host.Outcome State Fault Refusal :=
  vmOp g src 3 (fun c b =>
    let a := ((b.vl c.u 0).l 0).toNat + fld ((b.vl c.u 1).l 0) 15 0 * 2 ^ 32
    let v := (b.vl c.u 2).l 0
    let D := fld v 11 0
    let dst : LandDst := .v (unitClu c.u) (Fin.ofNat 32 (fld v 21 17))
    let nt := c.pre.tgMoves
    let st := c.pre.t.tgstr.toNat
    let b := b.room
    let go := fun (src : LandSrc) =>
      if D = 0 then b.trapAt c.slot 0x06 else b.addLanding dst (b.now.t.time + D) c.mask src
    if a % 64 ≠ 0 then b.trapAt c.slot 0x07
    else if bit v 22 then
      if csSize < a + nt * st + 256 then b.trapAt c.slot 0x06
      else go (.cluster a ((List.range nt).map fun k => a + (k + 1) * st))
    else match c.pre.t.win? (BitVec.ofNat 64 a) (nt * st + 256) true false with
      | none => b.trapAt c.slot 0x08
      | some dva => go (.vec dva ((List.range nt).map fun k => dva + BitVec.ofNat 64 ((k + 1) * st)))) s

end Sys2Proof.Machine
end

