-- ==== Sys2Proof/Machine/Tiles.lean ====
section
/-! DEFINITION. Tiles over time (R240–R248, R253, R257): busy intervals, the tile operations waiting for their thread time, and what
each does when it comes due; an array operation's passes (R103, R126). -/

namespace Sys2Proof.Machine

/-! ### An array operation (R126, R252, R258) -/

/-- What an array operation computes: the rows and columns of pass 0, its sums, and every pass rounded. -/
structure ArrayRun where
  a : Vector Side 96
  b : Vector Side 96
  pass0 : Pass
  passes : List AccPass

/-- Run the passes of an array operation under FMT: A × B, and for each of `nT` tangents dA × B and A × dB when A is floating
(R126). -/
def runArray (fmt : Word) (nT : Nat) (a : OTile) (bs : List OTile) (sel : Option (Nat → List Nat)) : ArrayRun :=
  let af := fld fmt 3 0
  let bf := fld fmt 7 4
  let isInt := bit fmt 8
  let sa := fun (r : ORows) => sidesOf af (bit fmt 22) [(a, r)]
  let sb := fun (f : OTile → ORows) => sidesOf bf (bit fmt 23) (bs.map fun t => (t, f t))
  let q : Option (Nat → List Nat) := if af = 11 then some fun i => (a.q4k i).1 else none
  let s256 : Option (Nat → Fp) := if af = 11 then some fun i => (a.q4k i).2 else none
  let mk := fun (sh : Option Nat) (w : Pass) => (⟨sh, isInt, if isInt then w.p else w.round s256⟩ : AccPass)
  let a0 := sa a.rows
  let b0 := sb OTile.rows
  let w0 := passOf a0 b0 sel q
  ⟨a0, b0, w0, mk none w0 :: (if opFloating af then (List.range nT).flatMap fun k =>
    [mk (some k) (passOf (sa (a.shadow k)) b0 sel q), mk (some k) (passOf a0 (sb fun t => t.shadow k) sel q)] else [])⟩

/-- The registers after an operation that stands alone or adds to a chain (R252, R260): pass 0's sums and exponents. -/
def ArrRegs.after (r : ArrRegs) (w : ArrayRun) (add : Bool) : ArrRegs :=
  let old := fun (x : BitVec 112) => if add then x else 0
  { r with
    ra := Vector.ofFn fun i => old (nth r.ra i.val) + (nth w.a i.val).sq
    cb := Vector.ofFn fun j => old (nth r.cb j.val) + (nth w.b j.val).sq
    ea := Vector.ofFn fun i => BitVec.ofInt 16 (nth w.a i.val).al
    eb := Vector.ofFn fun j => BitVec.ofInt 16 (nth w.b j.val).al }

/-- The chain after one more operation (R259, Table 2-7): its cells hold S − Ra − Cb. -/
def ArrRegs.extend (r : ArrRegs) (w : ArrayRun) (fmt : Word) : ArrRegs :=
  { r with
    chainN := r.chainN + 1
    chainFmt := if r.chainN = 0 then fmt else r.chainFmt
    cells := Vector.ofFn fun i => Vector.ofFn fun j =>
      nth (nth r.cells i.val) j.val + BitVec.ofInt 112 (2 * nth (nth w.pass0.p i.val) j.val)
    spec := Vector.ofFn fun i => Vector.ofFn fun j => (nth (nth r.spec i.val) j.val).add (nth (nth w.pass0.sp i.val) j.val) }

/-- The fold of the open chain (R259): one pass, scaled by R252. -/
def ArrRegs.fold (r : ArrRegs) : AccPass :=
  let e : Int := -((opF (fld r.chainFmt 3 0) false + opF (fld r.chainFmt 7 4) false : Nat) : Int)
  let w : Pass :=
    ⟨Vector.ofFn fun i => Vector.ofFn fun j => (nth (nth r.cells i.val) j.val).toInt / 2, r.spec,
     Vector.ofFn fun _ => Vector.ofFn fun _ => e⟩
  ⟨none, bit r.chainFmt 8, if bit r.chainFmt 8 then w.p else w.round none⟩

/-! ### Busy tiles (R244) -/

/-- A tile is busy for a use that does not wait for some kinds. -/
def Thr.busyFor (t : Thr) (tile : TileId) (skip : List BusyK) : Bool :=
  t.busy.any fun b => b.tile = tile && t.time < b.till && !skip.contains b.kind
/-- The bundle waits whole while a tile is busy for its use. -/
def Issue.waitTile (b : Issue) (tile : TileId) (skip : List BusyK) : Issue :=
  if b.now.t.busyFor tile skip then b.stallBy .other else b
/-- Mark a tile busy until a thread time. -/
def Issue.busyTile (b : Issue) (tile : TileId) (till : Nat) (k : BusyK) : Issue :=
  b.modT fun t => { t with busy := t.busy ++ [⟨tile, till, k⟩] }
/-- Leave a tile operation to its thread time. -/
def Issue.tileOp (b : Issue) (due : Nat) (a : TileAct) : Issue := b.modT fun t => { t with tops := t.tops ++ [⟨due, a⟩] }
/-- When the last update of an accumulator that a trigger before this one left comes due. -/
def Thr.accDue (t : Thr) (n : Fin 8) : Nat :=
  t.tops.foldl (fun a q => match q.act with
    | .acc c _ _ _ => if c = n then max a q.due else a
    | .remote _ _ _ _ _ _ c _ => if c = n then max a (q.due + 56) else a
    | _ => a) 0
/-- Leave an update of an accumulator: updates apply in trigger order, so one that would come due before an earlier trigger's waits for it (R244,
R255). -/
def Issue.accOp (b : Issue) (due : Nat) (n : Fin 8) (zero plain : Bool) (ps : List AccPass) : Issue :=
  b.tileOp (max due (b.now.t.accDue n)) (.acc n zero plain ps)

/-! ### Tile contents -/

/-- The bytes of an accumulator row. -/
def accRowBytes (r : Vector Lane 96) : List Byte := r.toList.flatMap fun x => leBytes 4 x.toNat
/-- A row of 96 words from bytes. -/
def accRowOf (bs : List Byte) : Vector Lane 96 :=
  let a := bs.toArray
  Vector.ofFn fun i => BitVec.ofNat 32 (leNat [a.getD (4 * i.val) 0, a.getD (4 * i.val + 1) 0, a.getD (4 * i.val + 2) 0,
    a.getD (4 * i.val + 3) 0])
/-- A row of 128 bytes. -/
def opRowOf (bs : List Byte) : Vector Byte 128 := let a := bs.toArray; Vector.ofFn fun i => a.getD i.val 0
/-- A 256-byte chunk of operand rows as lanes (R247). -/
def chunkOfO (r : ORows) (c : Nat) : Vec :=
  Vec.build fun l => BitVec.ofNat 32 (leNat ((List.range 4).map fun k => nth (nth r (2 * c + l / 32)) (4 * (l % 32) + k)))
/-- A chunk of accumulator rows as lanes. -/
def chunkOfA (r : ARows) (c : Nat) : Vec := Vec.build fun l => nth (nth r ((64 * c + l) / 96)) ((64 * c + l) % 96)
/-- Operand rows with a chunk written. -/
def putChunkO (r : ORows) (c : Nat) (v : Vec) : ORows :=
  Vector.ofFn fun i => if i.val / 2 = c then
      Vector.ofFn fun b => BitVec.ofNat 8 (fld (v.lane (32 * (i.val % 2) + b.val / 4)) (8 * (b.val % 4) + 7) (8 * (b.val % 4)))
    else nth r i.val
/-- Accumulator rows with a chunk written. -/
def putChunkA (r : ARows) (c : Nat) (v : Vec) : ARows :=
  Vector.ofFn fun i => Vector.ofFn fun j =>
    let e := 96 * i.val + j.val
    if e / 64 = c then v.lane (e % 64) else nth (nth r i.val) j.val
/-- The shadows of a tile with a chunk of each written; tiles 4 to 7 have none (R121). -/
def putShadows {α : Type} (T n : Nat) (get : Nat → α) (put : α → Vec → α) (sh : List Vec) : List α :=
  if n < 4 then (List.range T).map fun k => put (get k) (sh.getD k (Vec.splat 0)) else []

/-- Change an operand tile. -/
def Thr.setO (t : Thr) (n : Nat) (v : OTile) : Thr := { t with ot := setNth t.ot n v }
/-- Change an accumulator tile. -/
def Thr.setA (t : Thr) (n : Nat) (v : ATile) : Thr := { t with ct := setNth t.ct n v }

/-! ### Tile operations that come due -/

/-- The thread of a register set of this core; a paired thread uses one set, and the other holds none (R130, R257). -/
def Mach.placed (m : Mach) (p : Place) : Thr := match p with | .p0 => m.thr0 | .p1 => if m.thr0.paired then Thr.zero else m.thr1
/-- A register set of this core holds a poisoned granule of the register region (Table 21-1). -/
def Mach.setPoisoned (m : Mach) (p : Place) : Bool :=
  let n := rset (m.placed p).T / 16
  m.core.regPoison.any fun g => match p with | .p0 => g < n | .p1 => n ≤ g && g < 2 * n

/-- Rows read while another thread may write them: each row wholly old or wholly new (R257), by the device's choice. -/
def mixRows (n : Nat) (old new : ORows) : ORows :=
  Vector.ofFn fun r => if Config.freeChoice (n + r.val) % 2 = 0 then nth old r.val else nth new r.val

/-- What a tile operation does at its thread time. -/
def Mach.tileAct (m : Mach) (due : Nat) (a : TileAct) : Mach :=
  match a with
  | .setO n v => m.modT fun t => t.setO n v
  | .setA n v => m.modT fun t => t.setA n v
  | .chunkO n c v kc sh => m.modT fun t =>
    let o := nth t.ot n.val
    t.setO n { o with rows := putChunkO o.rows c v, kc := kc, sh := putShadows t.T n o.shadow (fun r x => putChunkO r c x) sh }
  | .chunkA n c v sh => m.modT fun t =>
    let o := nth t.ct n.val
    t.setA n { o with rows := putChunkA o.rows c v, sh := putShadows t.T n o.shadow (fun r x => putChunkA r c x) sh }
  | .zeroA n => m.modT fun t => t.setA n { ATile.zero with map := (nth t.ct n.val).map }
  | .acc n zero plain ps => m.modT fun t =>
    let (c, sat) := (nth t.ct n.val).applyPasses t.T zero ps
    (t.setA n (if plain then { c with sh := [] } else c)).orStatNow false sat false false
  | .store runs setf => m.modT fun t => runs.foldl (fun t r =>
      let t := t.putSpad r.1 r.2 false
      if setf then t.setFull (unitsOf r.1 r.2.length 16) else t) t
  | .statusOr n rows => m.modT fun t => t.setA n { nth t.ct n.val with status := (nth t.ct n.val).status ||| rows }
  | .remote from_ n old bt fmt nT c zero =>
    let x := m.placed from_
    let rows := if x.live && x.ref.launch = m.t.ref.launch then mixRows m.dev.free old.rows (nth x.ot n.val).rows else old.rows
    let w := runArray fmt nT { old with rows := rows, sh := [] } [bt] none
    let m := m.modD fun d => { d with free := d.free + 96 }
    m.modT fun t => { t with tops := ⟨due + 56, .acc c zero (nT = 0) w.passes⟩ :: t.tops
                             arr := { t.arr.after w false with foldAt := due + 56 } }
  | .kat true =>
    { m with core := { m.core with failing := true }
             dev := (m.dev.count m.core.die 7).errorRec m.core.die 3 5 0x84 0 }
  | .kat false => m.modD fun d => (d.count m.core.die 6).errorRec m.core.die 2 5 0x84 0

/-- Tile operations by due time, equal times in list order. -/
def insertTop (q : TileOp) : List TileOp → List TileOp
  | [] => [q]
  | r :: rs => if q.due < r.due then q :: r :: rs else r :: insertTop q rs
/-- Every tile operation of the acting thread that is due, and the busy intervals that are over; a drain's is kept for the 6
A-cycles of R262. -/
def Mach.settleTiles (m : Mach) : Mach :=
  let t := m.t
  let (now, later) := t.tops.partition fun q => q.due ≤ t.time
  let m := m.modT fun t => { t with tops := later, busy := t.busy.filter fun b => t.time < b.till + 6 }
  (now.foldl (fun l q => insertTop q l) []).foldl (fun m q => m.tileAct q.due q.act) m
/-- Every tile operation of the acting thread completes, and its busy bits clear (R37, R46, R376). -/
def Mach.drainTiles (m : Mach) : Mach :=
  let now := m.t.time
  let m := (m.modT fun t => { t with time := now + 2 ^ 40 }).settleTiles.settleTiles
  m.modT fun t => { t with time := now, busy := [] }

end Sys2Proof.Machine
end

