-- ==== Sys2Proof/Machine/Array.lean ====
section
/-! DEFINITION. The squaring array's triggers (R240–R263, Table 11-1), in slot 7. -/

namespace Sys2Proof.Machine

/-! ### Frames and control words -/

/-- A trigger of the array with its operand count. -/
def mxOp (g : Grd) (src : Src) (nops : Nat) (op : Ctx → Issue → Issue) (s : State) : Host.Outcome State Fault Refusal :=
  slot (fun pre b => trigger pre b g src .mx nops op) s
/-- The control word: lane 0 of a latch (R241). -/
def Issue.mxw (b : Issue) (j : Nat) : Lane := (b.vl .mx j).l 0
/-- Reserved control bits, those from `n` on or `more` below, are not zero (R241). -/
def rsvBits (w : Lane) (n : Nat) (more : Lane := 0) : Bool := w.toNat / 2 ^ n ≠ 0 || w &&& more ≠ 0
/-- A tile number. -/
def tileNo (w : Lane) (lo : Nat) : Fin 8 := Fin.ofNat 8 (fld w (lo + 2) lo)
/-- Deliver a vector at a fixed latency (R242). -/
def Issue.fixedV (b : Issue) (c : Ctx) (p : VPort) (lat : Nat) (v : VVal) : Issue :=
  b.resultAt p (b.now.t.time + lat) (b.now.t.time + lat) c.mask v

/-- An addressing word (R243): offset and pitch of `n` rows of `rowb` bytes, or the cause that stops the access. -/
def addressing (m : Mach) (w : Lane) (n rowb grain extra : Nat) : Except Nat (Nat × Nat) :=
  let off := fld w 20 0
  let pitch := 8 * fld w 31 21
  if off % grain ≠ 0 || pitch % grain ≠ 0 then .error 0x07
  else if pitch < rowb then .error 0x06
  else if m.spadSize < off + (n - 1) * pitch + extra then .error 0x08
  else .ok (off, pitch)

/-- Neighbouring runs of bytes joined, so that a unit they cover together counts as covered. -/
def mergeRuns : List (Nat × List Byte) → List (Nat × List Byte)
  | [] => []
  | r :: rs => match mergeRuns rs with
    | [] => [r]
    | s :: ss => if r.1 + r.2.length = s.1 then (r.1, r.2 ++ s.2) :: ss else r :: s :: ss

/-! ### mldt and mstt (R245, R246) -/

/-- The scale bytes per row of a scale state beside the rows. -/
def sclBytes (scl kc : Nat) : Nat := match scl with | 1 => kcCols kc / 32 | 2 => 1 | _ => 0
/-- Bytes of a row in memory: a q4k row carries its scales (R95). -/
def rowBytes (acc : Bool) (scl : Nat) : Nat := if acc then 384 else if scl = 3 then 136 else 128
/-- KC, SCL and ACC go together (R245). -/
def sclOk (acc : Bool) (kc scl : Nat) : Bool :=
  kc ≠ 3 && match scl with
    | 0 => true
    | 1 => !acc && (kc = 1 || kc = 2)
    | 2 => !acc && kc = 1
    | _ => !acc && kc = 2
/-- The bytes that the rows and scales of one copy of a tile reach from its offset. The shadows' copies are checked over the primal's full reach,
scales too, though they move none (DESIGN CHOICE: the spec does not say which bytes of them are checked). -/
def tileReach (acc : Bool) (kc scl pitch : Nat) : Nat :=
  if sclBytes scl kc = 0 then 95 * pitch + rowBytes acc scl else 96 * pitch + 96 * sclBytes scl kc

/-- The granules that loading one copy of a tile reads (R245). -/
def tileGranules (acc : Bool) (kc scl off pitch : Nat) : List Nat :=
  ((List.range 96).flatMap fun r => unitsOf (off + r * pitch) (rowBytes acc scl) 16) ++
  unitsOf (off + 96 * pitch) (96 * sclBytes scl kc) 16

/-- An operand tile from scratchpad (R245). -/
def loadO (m : Mem) (off pitch kc scl : Nat) : ORows × Vector (Vector Byte 8) 96 :=
  (Vector.ofFn fun r => opRowOf (Mem.readN m (off + r.val * pitch) 128),
   Vector.ofFn fun r =>
    let bs := if scl = 3 then Mem.readN m (off + r.val * pitch + 128) 8
      else Mem.readN m (off + 96 * pitch + r.val * sclBytes scl kc) (sclBytes scl kc)
    Vector.ofFn fun i => bs.getD i.val 0)
/-- An accumulator tile's rows from scratchpad. -/
def loadA (m : Mem) (off pitch : Nat) : ARows := Vector.ofFn fun r => accRowOf (Mem.readN m (off + r.val * pitch) 384)

/-- The copies of a tile a dual access moves: shadows of t0–t3 and c0–c3 (R121, R127). -/
def Mach.tileCopies (m : Mach) (n : Fin 8) : Nat := if n.val < 4 then m.tgMoves else 0

/-- MLDT (R245): bytes as the scratchpad stands in step 1, the tile when the busy interval ends. -/
def execMldt (g : Grd) (src : Src) (s : State) : Host.Outcome State Fault Refusal :=
  mxOp g src 3 (fun c b =>
    let w := b.mxw 2
    let n := tileNo w 0
    let acc := bit w 3
    let kc := fld w 5 4
    let scl := fld w 7 6
    let id : TileId := if acc then .c n else .t n
    let b := b.waitTile id []
    if rsvBits w 9 || !sclOk acc kc scl then b.trapAt c.slot 0x06
    else
      let k := c.pre.tileCopies n
      let st := c.pre.t.tgstr.toNat
      match addressing c.pre (b.mxw 1) 96 (rowBytes acc scl) (if scl = 3 then 8 else 16) 0 with
      | .error e => b.trapAt c.slot e
      | .ok (off, pitch) =>
        if c.pre.spadSize < off + k * st + tileReach acc kc scl pitch then b.trapAt c.slot 0x08
        else
          let m := mapOfLanes (b.vl .mx 0).l
          if bit w 8 && !m.setOk (if acc then 9216 else 96 * kcCols kc) then b.trapAt c.slot 0x06
          else
            let gs := (List.range (k + 1)).flatMap fun i => tileGranules acc kc scl (off + i * st) pitch
            let hit := c.pre.probeSpad gs
            let b := { b with now := b.now.probeSpad gs }
            let till := b.now.t.time + (if acc then 144 else 48)
            let b := b.busyTile id till .other
            let map := if bit w 8 then m.held else MapD.none
            let mem := c.pre.t.spad
            match gs.find? hit.t.spadPoison.contains with
            | some u => b.modT fun t => { t with unw := t.unw ++ [⟨0x81, 0, none, BitVec.ofNat 64 (16 * u), till⟩] }
            | none =>
              if acc then
                b.tileOp till (.setA n ⟨loadA mem off pitch, 0, map, (List.range k).map fun i => loadA mem (off + (i + 1) * st) pitch⟩)
              else
                let (rows, scales) := loadO mem off pitch kc scl
                b.tileOp till (.setO n ⟨rows, BitVec.ofNat 2 kc, BitVec.ofNat 2 scl, scales, map,
                  (List.range k).map fun i => (loadO mem (off + (i + 1) * st) pitch kc scl).1⟩)) s

/-- The runs of bytes of an operand tile's rows and scales in memory (R246). -/
def storeO (r : ORows) (scales : Option (Vector (Vector Byte 8) 96)) (off pitch kc scl : Nat) : List (Nat × List Byte) :=
  let sc := fun (r n : Nat) => match scales with | some v => (nth v r).toList.take n | none => []
  ((List.range 96).map fun i => (off + i * pitch, (nth r i).toList ++ (if scl = 3 then sc i 8 else []))) ++
  (if sclBytes scl kc = 0 || scales.isNone then []
   else [(off + 96 * pitch, (List.range 96).flatMap fun i => sc i (sclBytes scl kc))])
/-- The runs of an accumulator tile's rows. -/
def storeA (r : ARows) (off pitch : Nat) : List (Nat × List Byte) :=
  (List.range 96).map fun i => (off + i * pitch, accRowBytes (nth r i))

/-- MSTT (R246): the tile as it stands at issue, written in step 2 of i + 48 or i + 144. -/
def execMstt (g : Grd) (src : Src) (s : State) : Host.Outcome State Fault Refusal :=
  mxOp g src 2 (fun c b =>
    let w := b.mxw 1
    let n := tileNo w 0
    let acc := bit w 3
    let kc := fld w 5 4
    let scl := fld w 7 6
    let o := nth c.pre.t.ot n.val
    let a := nth c.pre.t.ct n.val
    let b := b.waitTile (if acc then .c n else .t n) (if acc then [] else [.arrRead])
    if rsvBits w 10 0x100 || !sclOk acc kc scl || (!acc && o.scl.toNat ≠ scl) then b.trapAt c.slot 0x06
    else
      let k := c.pre.tileCopies n
      let st := c.pre.t.tgstr.toNat
      match addressing c.pre (b.mxw 0) 96 (rowBytes acc scl) (if scl = 3 then 8 else 16) 0 with
      | .error e => b.trapAt c.slot e
      | .ok (off, pitch) =>
        if c.pre.spadSize < off + k * st + tileReach acc kc scl pitch then b.trapAt c.slot 0x08
        else
          let runs := if acc then
              storeA a.rows off pitch ++ (List.range k).flatMap fun i => storeA (a.shadow i) (off + (i + 1) * st) pitch
            else
              storeO o.rows (some o.scales) off pitch kc scl ++
                (List.range k).flatMap fun i => storeO (o.shadow i) none (off + (i + 1) * st) pitch kc scl
          b.tileOp (b.now.t.time + (if acc then 144 else 48) + 1) (.store (mergeRuns runs) (bit w 9))) s

/-! ### mmov and mzer (R247, R248) -/

/-- MMOV (R247). -/
def execMmov (g : Grd) (src : Src) (s : State) : Host.Outcome State Fault Refusal :=
  mxOp g src 2 (fun c b =>
    let x := b.vl .mx 0
    let w := b.mxw 1
    let ch := fld w 7 0
    let n := tileNo w 8
    let acc := bit w 11
    let read := bit w 12
    let kc := fld w 14 13
    let id : TileId := if acc then .c n else .t n
    let b := b.waitTile id (if read && !acc then [.arrRead] else [])
    if rsvBits w 15 || (if acc then 144 else 48) ≤ ch || (kc = 3 && !read && !acc) then b.trapAt c.slot 0x06
    else if read then
      b.fixedV c .mxr 2 ⟨if acc then chunkOfA (nth c.pre.t.ct n.val).rows ch else chunkOfO (nth c.pre.t.ot n.val).rows ch,
        MapD.none, [], false⟩
    else
      let till := b.now.t.time + 1
      let sh := if c.pre.dual then (List.range c.pre.t.T).map fun k => Vec.build (x.tgl k) else []
      (b.busyTile id till .other).tileOp till (if acc then .chunkA n ch x.lanes sh else .chunkO n ch x.lanes (BitVec.ofNat 2 kc) sh)) s

/-- MZER (R248). -/
def execMzer (g : Grd) (src : Src) (s : State) : Host.Outcome State Fault Refusal :=
  mxOp g src 1 (fun c b =>
    let w := b.mxw 0
    let n := tileNo w 0
    let b := b.waitTile (.c n) []
    if rsvBits w 3 then b.trapAt c.slot 0x06
    else (b.busyTile (.c n) (b.now.t.time + 36) .other).tileOp (b.now.t.time + 36) (.zeroA n)) s

/-! ### Array operations (R249–R258) -/

/-- The interval of an array trigger (R244): 128 A-cycles, times 1 + 2T when it is dual and A is floating. -/
def arrayII (m : Mach) (fmt : Word) : Nat := if m.dual && opFloating (fld fmt 3 0) then 128 * (1 + 2 * m.t.T) else 128

/-- The hazard monitor (R88): too early traps, later than LAT[10] but inside the interval waits whole. The interval is the previous trigger's, or this
one's own, `own`, where that is the longer one of a dual bundle (R350). -/
def Issue.hazard (b : Issue) (c : Ctx) (own : Nat) : Issue :=
  match c.pre.core.arrLast with
  | none => b
  | some (at_, ii) =>
    let el := c.pre.core.cyc - at_
    if el < c.pre.t.lat 10 then b.trapAt c.slot 0x0A
    else if el < max ii own then b.stallBy .other
    else b

/-- A tile matches its format (R250, Table 11-3): COLS, and the scales its MX bit asks for. -/
def tileFits (fmt : Nat) (mx : Bool) (t : OTile) : Bool :=
  t.kc.toNat = opKc fmt &&
  (if fmt = 11 then t.scl = 3
   else if mx then (match fmt with | 6 => t.scl = 1 | 2 | 3 | 4 | 5 | 7 => t.scl = 1 || t.scl = 2 | _ => false)
   else t.scl = 0)

/-- The combination of formats, accumulator and sparsity is in Table 11-3. -/
def combOk (fmt : Word) (sparse : Bool) : Bool :=
  let a := fld fmt 3 0
  let b := fld fmt 7 4
  let isInt := bit fmt 8
  let mxa := bit fmt 22
  let mxb := bit fmt 23
  fld fmt 17 16 = (if sparse then 1 else 0) &&
  (if a < 2 then b < 2 && !mxa && !mxb && !isInt
   else if a < 6 || a = 7 || a = 8 then
     ((2 ≤ b && b < 6) || b = 7 || b = 8) && !(mxa && a = 8) && !(mxb && b = 8) &&
     (!isInt || ((a = 7 || a = 8) && (b = 7 || b = 8) && !mxa && !mxb))
   else if a = 6 || a = 9 || a = 10 then
     (b = 6 || b = 9 || b = 10) && !(mxa && a ≠ 6) && !(mxb && b ≠ 6) &&
     (!isInt || ((a = 9 || a = 10) && (b = 9 || b = 10)))
   else if a = 11 then (b = 6 || b = 9) && !mxa && !(mxb && b ≠ 6) && !isInt && !sparse
   else false)

/-- The operand fields of FMT, which a chain keeps (R259, Table 5-6): formats and scaling. -/
def chainMask : Word := 0xC000FF

/-- The conditions of R250, R256, R258 and R259 on an array trigger; false is RSVCOMB. -/
def Ctx.arrayOk (c : Ctx) (fmt : Word) (sparse defer : Bool) (a : OTile) (bs : List OTile) (names : List (Fin 8)) : Bool :=
  let t := c.pre.t
  combOk fmt sparse && tileFits (fld fmt 3 0) (bit fmt 22) a && bs.all (tileFits (fld fmt 7 4) (bit fmt 23)) &&
  !(c.pre.dual && names.any fun n => 4 ≤ n.val) &&
  (if defer then
     !c.pre.dual && 2 ≤ fld fmt 3 0 && fld fmt 3 0 ≠ 11 && a.scl = 0 && bs.all (fun x => x.scl = 0) && t.arr.chainN < 8 &&
     (t.arr.chainN = 0 || t.arr.chainFmt &&& chainMask = fmt &&& chainMask)
   else t.arr.chainN = 0)

/-- Start an array operation once its checks have passed: mpc advances in step 2 (R67, R249), the hazard monitor restarts, and the
result is added when the busy interval ends, or joins the chain. -/
def Issue.startArray (b : Issue) (w : Lane) (ii fold : Nat) : Issue :=
  let b := b.modSt fun x => { x with mpc := x.mpc + 1 }
  let b := b.modC fun k => { k with arrLast := some (k.cyc, ii) }
  if bit w 9 then b else b.busyTile (.c (tileNo w 6)) (b.now.t.time + ii + fold) .arrAcc

/-- Leave the result of an operation on local tiles: to the chain, or to C at i + II + 40 (R253). -/
def Issue.finishArray (b : Issue) (w : Lane) (ii : Nat) (fmt : Word) (plain : Bool) (r : ArrayRun) : Issue :=
  let till := b.now.t.time + ii + 40
  if bit w 9 then b.modT fun t => { t with arr := { ((t.arr.after r (t.arr.chainN ≠ 0)).extend r fmt) with foldAt := t.time } }
  else
    (b.modT fun t => { t with arr := { t.arr.after r false with foldAt := till } }).accOp till (tileNo w 6) (bit w 10) plain r.passes
/-- An array operation that has read poison writes nothing; its thread unwinds when its result was due (R371). -/
def Issue.badArray (b : Issue) (due addr : Nat) : Issue :=
  b.modT fun t => { t with unw := t.unw ++ [⟨0x81, 0, none, BitVec.ofNat 64 addr, due⟩] }

/-- What an operation reads beside its tiles: per row the logical indices it stores, the granules of scratchpad and the bytes of memory that hold
them, and the address of poison among them. -/
structure SparseR where
  sel : Option (Nat → List Nat)
  gs : List Nat
  word : List (Nat × Nat)
  bad : Option Nat

/-- `mqs` and `mqss` on local tiles. -/
def arrayOp (sparse : Bool) (meta_ : Ctx → Except (Issue → Issue) SparseR) (g : Grd) (src : Src) (s : State) :
    Host.Outcome State Fault Refusal :=
  mxOp g src 1 (fun c b =>
    let w := b.mxw 0
    let na := tileNo w 0
    let nb := tileNo w 3
    let nc := tileNo w 6
    let nbs := if sparse then [nb, Fin.ofNat 8 (nb.val + 1)] else [nb]
    let t := c.pre.t
    let fmt := t.fmt
    let ii := arrayII c.pre fmt
    let b := (nbs.foldl (fun b n => b.waitTile (.t n) [.arrRead]) (b.waitTile (.t na) [.arrRead])).hazard c ii
    let b := if bit w 9 then b else b.waitTile (.c nc) [.arrAcc]
    let a := nth t.ot na.val
    let bs := nbs.map fun n => nth t.ot n.val
    if rsvBits w 11 then b.trapAt c.slot 0x06
    else if !c.arrayOk fmt sparse (bit w 9) a bs (na :: nbs ++ if bit w 9 then [] else [nc]) || (sparse && nb.val % 2 = 1) then
      b.trapAt c.slot 0x09
    else match meta_ c with
      | .error f => f b
      | .ok x =>
        let nT := if c.pre.dual then t.T else 0
        let b := { b with now := x.word.foldl (fun (m : Mach) (p : Nat × Nat) => m.probeHome p.1 p.2) (b.now.probeSpad x.gs) }
        let b := b.startArray w ii 40
        let b := (na :: nbs).foldl (fun b n => b.busyTile (.t n) (b.now.t.time + ii) .arrRead) b
        match x.bad with
        | some a => b.badArray (b.now.t.time + ii + 40) a
        | none => b.finishArray w ii fmt (nT = 0) (runArray fmt nT a bs x.sel)) s

/-- MQS (R249). -/
def execMqs (g : Grd) (src : Src) (s : State) : Host.Outcome State Fault Refusal := arrayOp false (fun _ => .ok ⟨none, [], [], none⟩) g src s

/-- The metadata of `mqss` (R256): the word at MOFF + 4 × mpc, then 96 rows of K / 4 bytes of scratchpad; per row the logical index
of each stored element. Poison in either reaches the accumulator (R371). -/
def sparseMeta (c : Ctx) : Except (Issue → Issue) SparseR :=
  let m := c.pre
  let t := m.t
  let mpc := m.st.mpc.toNat
  if t.kern.mlen.toNat / 4 ≤ mpc then .error fun b => b.trapAt c.slot 0x04
  else match m.coreRange (t.kern.img + t.kern.moff + BitVec.ofNat 64 (4 * mpc)) 4 false with
    | .absent a => .error fun b => { b with freeze := true, waitFor := [a] }
    | .fault a => .error fun b => b.xfault a
    | .ok ps =>
      let w := leNat (ps.flatMap fun p => m.dev.bytes p.1 p.2)
      let off := bitsOf w 20 0
      let K := kcCols (opKc (fld t.fmt 3 0))
      if bitsOf w 31 21 ≠ 0 then .error fun b => b.trapAt c.slot 0x09
      else if off % 16 ≠ 0 then .error fun b => b.trapAt c.slot 0x07
      else if m.spadSize < off + 96 * (K / 4) then .error fun b => b.trapAt c.slot 0x08
      else
        let rows := (List.range 96).map fun i =>
          (Mem.readN t.spad (off + i * (K / 4)) (K / 4)).flatMap fun x => [x.toNat % 16, x.toNat / 16]
        let arr := rows.toArray
        let gs := unitsOf off (96 * (K / 4)) 16
        let hit := ps.foldl (fun m p => m.probeHome p.1 p.2) (m.probeSpad gs)
        let bad := match gs.find? hit.t.spadPoison.contains with
          | some u => some (16 * u)
          | none => (ps.find? fun p => hit.dev.poisoned p.1 p.2).map fun p => p.1
        .ok ⟨some fun i => ((arr.getD i []).zipIdx.flatMap fun e => [4 * e.2 + e.1 % 4, 4 * e.2 + e.1 / 4]), gs, ps, bad⟩

/-- MQSS (R256). -/
def execMqss (g : Grd) (src : Src) (s : State) : Host.Outcome State Fault Refusal := arrayOp true sparseMeta g src s

/-- The operand tile that a set without a thread of the launch shows (R257): zeros, with the COLS and SCL that FMT requires. -/
def zeroRemote (fmt : Word) : OTile :=
  { OTile.zero with
    kc := BitVec.ofNat 2 (opKc (fld fmt 3 0))
    scl := if fld fmt 3 0 = 11 then 3 else if bit fmt 22 then 1 else 0 }

/-- MQSR (R257): A is tile [2:0] of a register set of a core of the cluster; only this core of it holds threads. Which bytes of a register set hold a
tile is not stated, so that whether a poisoned granule of the set lies in the rows that are read is open: a free choice (R371). A deferred product takes
every remote row as it stands at issue, where R257 lets one that is written meanwhile be old or new; and a set of the thread's own core is a remote one: the
operation waits for no busy A tile and makes none busy (both DESIGN CHOICE). -/
def execMqsr (g : Grd) (src : Src) (s : State) : Host.Outcome State Fault Refusal :=
  mxOp g src 2 (fun c b =>
    let r := b.mxw 0
    let w := b.mxw 1
    let na := tileNo w 0
    let nb := tileNo w 3
    let nc := tileNo w 6
    let t := c.pre.t
    let fmt := t.fmt
    let ii := arrayII c.pre fmt
    let from_ : Place := if bit r 3 then .p1 else .p0
    let x := c.pre.placed from_
    let there := fld r 2 0 = c.pre.core.num % 8 && x.live && x.ref.launch = t.ref.launch
    let a := if there then nth x.ot na.val else zeroRemote fmt
    let b := (b.waitTile (.t nb) [.arrRead]).hazard c ii
    let b := if bit w 9 then b else b.waitTile (.c nc) [.arrAcc]
    let bt := nth t.ot nb.val
    if rsvBits r 4 || rsvBits w 11 then b.trapAt c.slot 0x06
    else if !c.arrayOk fmt false (bit w 9) a [bt] (na :: nb :: if bit w 9 then [] else [nc]) then b.trapAt c.slot 0x09
    else
      let nT := if c.pre.dual then t.T else 0
      let b := (b.startArray w ii 56).busyTile (.t nb) (b.now.t.time + ii) .arrRead
      let bad := there && c.pre.setPoisoned from_ && Config.freeChoice b.now.dev.free % 2 = 0
      let b := if there && c.pre.setPoisoned from_ then b.modD fun d => { d with free := d.free + 1 } else b
      if bad then b.badArray (b.now.t.time + ii + 56) 0
      else if bit w 9 then b.finishArray w ii fmt true (runArray fmt 0 { a with sh := [] } [bt] none)
      else
        let b := b.modT fun t => { t with arr := { t.arr with foldAt := t.time + ii + 56 } }
        if there then b.tileOp (b.now.t.time + ii) (.remote from_ na a bt fmt nT nc (bit w 10))
        else
          let run := runArray fmt nT { a with sh := [] } [bt] none
          (b.modT fun t => { t with arr := { t.arr.after run false with foldAt := t.time + ii + 56 } }).accOp
            (b.now.t.time + ii + 56) nc (bit w 10) (nT = 0) run.passes) s

/-- MFOLD (R259): with no chain open it does nothing. The shadows of C stay as they are, in dual state and with ZERO = 1 too (DESIGN CHOICE: R126 names no
pass over them for it). -/
def execMfold (g : Grd) (src : Src) (s : State) : Host.Outcome State Fault Refusal :=
  mxOp g src 1 (fun c b =>
    let w := b.mxw 0
    let n := tileNo w 0
    if rsvBits w 4 then b.trapAt c.slot 0x06
    else if c.pre.t.arr.chainN = 0 then b
    else
      let till := b.now.t.time + 40
      let b := ((b.waitTile (.c n) [.arrAcc]).busyTile (.c n) till .arrAcc).accOp till n (bit w 3) (!c.pre.dual) [c.pre.t.arr.fold]
      b.modT fun t => { t with arr := { t.arr.close with foldAt := till } }) s

/-! ### Correction registers, drains, status (R260–R262) -/

/-- MCRR (R260). -/
def execMcrr (g : Grd) (src : Src) (s : State) : Host.Outcome State Fault Refusal :=
  mxOp g src 1 (fun c b =>
    let w := b.mxw 0
    let r := c.pre.t.arr
    let b := if b.now.t.time < r.foldAt then b.stallBy .other else b
    if rsvBits w 5 then b.trapAt c.slot 0x06
    else
      let f := fun (l : Nat) =>
        let e := 64 * fld w 1 1 + l
        if 96 ≤ e then 0
        else if bit w 4 then (nth (if bit w 0 then r.eb else r.ea) e).signExtend 32
        else BitVec.ofNat 32 (fld (nth (if bit w 0 then r.cb else r.ra) e) (32 * fld w 3 2 + 31) (32 * fld w 3 2))
      b.fixedV c .mxr 2 ⟨Vec.build f, MapD.none, [], false⟩) s

/-- The output format of OFMT (Table 11-4). -/
def drainFmt (o : Nat) : Option (CvtT × Nat) :=
  match o with
  | 0 => some (.flt f32, 32) | 1 => some (.flt bf16, 16) | 2 => some (.flt f16, 16) | 3 => some (.flt e4m3, 8)
  | 4 => some (.flt e5m2, 8) | 5 => some (.flt e2m3, 8) | 6 => some (.flt e3m2, 8) | 7 => some (.flt e2m1, 4)
  | 8 => some (.int 8 true, 8) | 9 => some (.int 8 false, 8) | 10 => some (.int 32 true, 32)
  | _ => none

/-- Rounding 3 of an accumulator element (R103 step 6): TSCALE with one rounding; an INT32 element for an integer output is left as
it is. -/
def round3 (isInt : Bool) (toInt : Bool) (ts : Lane) (x : Lane) : Fp :=
  if isInt then (if toInt then Fp.ofInt x.toInt else fp (rnd ((Fp.ofInt x.toInt).mul (fp ts))))
  else fp (fmul32 x ts)

/-- Elements of `wd` bits packed into bytes, even elements low (R92). -/
def packEls (wd : Nat) (cs : List Nat) : List Byte :=
  let total := cs.foldr (fun x a => x % 2 ^ wd + 2 ^ wd * a) 0
  leBytes (cs.length * wd / 8) total

/-- A drained row: output codes, status, and whether rounding 3 gave a NaN (R261, R262). EF runs over columns 0–63, then 64–95. -/
def Thr.drainRow (t : Thr) (k : CvtT) (map : MapD) (st : TStore) (row : Vector Lane 96) (r : Nat) : List Nat × (Bool × Bool) × Bool :=
  let toInt := match k with | .int _ _ => true | _ => false
  let xs := row.toList.map (round3 (bit t.fmt 8) toInt t.tscale)
  let lin := fun (c : Nat) => map.linTile st 96 (96 * r + c)
  let rs := t.convert k lin ((xs.take 64).map some) ++ t.convert k (fun i => lin (64 + i)) ((xs.drop 64).map some)
  (rs.map fun x => match x with | some y => y.code | none => 0, cvtStatus rs, xs.any Fp.isNan)

/-- The maps of `mx.r` and `mx.rx` of a drain to registers (R261), and whether MAPLOST is set. -/
def drainMaps (m : MapD) (row0 : Nat) : MapD × MapD × Bool :=
  match m.st with
  | .none => (MapD.none, MapD.none, false)
  | .opq => (MapD.opaque_, MapD.opaque_, false)
  | _ =>
    let m0 := nth m.mov 0
    let m1 := nth m.mov 1
    if m.st = .affine && m.nmov = 2 && m0.cnt = 96 && m1.cnt = 96 then
      let z : MovE := ⟨0, 0, 0⟩
      let adv := fun (o : Vector Lane 14) (d : BitVec 4) (x : Lane) => if d.toNat < 14 then setNth o d.toNat (nth o d.toNat + x) else o
      let o := adv m.org m1.dim (m1.str.signExtend 32 * BitVec.ofNat 32 row0)
      ({ m with nmov := 1, mov := #v[{ m0 with cnt := 64 }, z, z, z], org := o },
       { m with nmov := 2, mov := #v[{ m0 with cnt := 32 }, ⟨m0.dim, 0, 2⟩, z, z], org := adv o m0.dim (64 * m0.str.signExtend 32) },
       false)
    else (MapD.opaque_, MapD.opaque_, true)

/-- MDRN (R261): rows drained from the accumulator as it stands at issue; row q is written in step 2 of i + 8 + q. The shadow rows of a
dual drain are written with their row, at its time, and SETF sets the full-empty bits of their granules too (DESIGN CHOICE: R261 states both for row q
alone). -/
def execMdrn (g : Grd) (src : Src) (s : State) : Host.Outcome State Fault Refusal :=
  mxOp g src 2 (fun c b =>
    let w := b.mxw 1
    let n := tileNo w 0
    let toreg := bit w 3
    let row0 := fld w 14 8
    let nr := fld w 21 15
    let t := c.pre.t
    let a := nth t.ct n.val
    let b := b.waitTile (.c n) []
    match drainFmt (fld w 7 4) with
    | none => b.trapAt c.slot 0x06
    | some (k, wd) =>
      if rsvBits w 23 || nr = 0 || 96 < row0 + nr || (toreg && (nr ≠ 1 || fld w 7 4 ≠ 0)) then b.trapAt c.slot 0x06
      else
        let time := b.now.t.time
        let st := nth t.tsC n.val
        let rows := (List.range nr).map fun q => t.drainRow k a.map st (nth a.rows (row0 + q)) (row0 + q)
        let sat := rows.any fun r => r.2.1.2
        let nan := rows.any fun r => r.2.1.1
        let nanRow := fun (b : Issue) (q : Nat) (due : Nat) =>
          match rows[q]? with
          | some (_, _, true) => b.tileOp due (.statusOr n (BitVec.ofNat 96 (2 ^ (row0 + q))))
          | _ => b
        let shadow := fun (i r cl : Nat) => fmul32 (nth (nth (a.shadow i) r) cl) t.tscale
        if toreg then
          let (mr, mrx, lost) := drainMaps a.map row0
          let codes := (rows.headD ([], (false, false), false)).1
          let tg := fun (o : Nat) (i : Nat) => Vec.build fun l => if o + l < 96 then shadow i row0 (o + l) else 0
          let tgs := fun (o : Nat) => if c.pre.dual then (List.range t.T).map (tg o) else []
          let b := (b.status nan sat lost).busyTile (.c n) (time + 9) .drain
          let b := b.fixedV c .mxr 9 ⟨Vec.build fun l => BitVec.ofNat 32 (codes.getD l 0), mr, tgs 0, false⟩
          let b := b.fixedV c .mxrx 9 ⟨Vec.build fun l => BitVec.ofNat 32 (codes.getD (64 + l) 0), mrx, tgs 64, false⟩
          nanRow b 0 (time + 9)
        else
          let nT := if n.val < 4 then c.pre.tgMoves else 0
          let ts := t.tgstr.toNat
          match addressing c.pre (b.mxw 0) nr (12 * wd) 16 (max (12 * wd) (if nT = 0 then 0 else nT * ts + 384)) with
          | .error e => b.trapAt c.slot e
          | .ok (off, pitch) =>
            let b := (b.status nan sat false).busyTile (.c n) (time + 8 + nr) .drain
            (List.range nr).foldl (fun b q =>
              let codes := match rows[q]? with | some r => r.1 | none => []
              let runs := (off + q * pitch, packEls wd codes) ::
                (List.range nT).map fun i => (off + q * pitch + (i + 1) * ts,
                  (List.range 96).flatMap fun cl => leBytes 4 (shadow i (row0 + q) cl).toNat)
              nanRow (b.tileOp (time + 9 + q) (.store runs (bit w 22))) q (time + 9 + q)) b) s

/-- MSTS (R262): 6 A-cycles after every earlier drain of the tile. -/
def execMsts (g : Grd) (src : Src) (s : State) : Host.Outcome State Fault Refusal :=
  mxOp g src 1 (fun c b =>
    let w := b.mxw 0
    let n := tileNo w 0
    let t := c.pre.t
    let st := (nth t.ct n.val).status
    let b := b.waitTile (.c n) []
    let b := if t.busy.any fun k => k.tile = .c n && k.kind = .drain && t.time < k.till + 6 then b.stallBy .other else b
    if rsvBits w 4 then b.trapAt c.slot 0x06
    else
      let b := b.fixedV c .mxr 2 ⟨Vec.build fun l =>
        match l with
        | 0 => b2l (st ≠ 0) | 1 => BitVec.ofNat 32 (fld st 31 0) | 2 => BitVec.ofNat 32 (fld st 63 32)
        | 3 => BitVec.ofNat 32 (fld st 95 64) | _ => 0, MapD.none, [], false⟩
      if bit w 3 then b.modT fun t => t.setA n { nth t.ct n.val with status := 0 } else b) s

/-! ### Known-answer tiles (R263, R380) -/

/-- The signature of the fixed product of a seed. -/
def katSig (seed : Lane) : Word :=
  let key := seed.setWidth 64
  let code := fun (n : Nat) =>
    let x := (knf key (BitVec.ofNat 64 n)).toNat % 256
    if x % 128 = 127 then 0 else x
  let side := fun (base : Nat) => Vector.ofFn (n := 96) fun i =>
    sideOf 2 ((List.range 128).map fun k => codeVal 2 (code (base + 128 * i.val + k))) false []
  let p := (passOf (side 0) (side (2 ^ 20)) none none).round none
  (List.range 9216).foldl (fun sig e =>
    knf sig (BitVec.ofNat 64 (e * 2 ^ 32 + (nth (nth p (e / 96)) (e % 96)).toNat))) 0

/-- MKAT (R263): whether a run of the array goes wrong is the device's. A signature that the fixed product does not have never matches; one that it has
matches at once, on the repeat, or, in an array with a lasting fault, not at all. -/
def execMkat (g : Grd) (src : Src) (s : State) : Host.Outcome State Fault Refusal :=
  mxOp g src 2 (fun c b =>
    let want : Word := ((b.vl .mx 1).l 1) ++ ((b.vl .mx 1).l 0)
    let b := b.hazard c 0
    if c.pre.t.arr.chainN ≠ 0 then b.trapAt c.slot 0x09
    else
      let r := if katSig ((b.vl .mx 0).l 0) = want then Config.freeChoice b.now.dev.free % 3 else 2
      let lat := if r = 0 then 168 else 336
      let time := b.now.t.time
      let b := b.modD fun d => { d with free := d.free + 1 }
      let b := b.modC fun k => { k with arrLast := some (k.cyc, if r = 0 then 128 else 296) }
      let b := b.resultAt .mxr (time + 168) (time + lat) c.mask ⟨Vec.build fun l => if l = 0 then BitVec.ofNat 32 r else 0, MapD.none, [], false⟩
      if r = 0 then b else b.tileOp (time + lat) (.kat (r = 2))) s

end Sys2Proof.Machine
end

