-- ==== Sys2Proof/Machine/Atomics.lean ====
section
/-! DEFINITION. The triggers of `am` as they issue (R292–R306): checks, captured operands, the landing, and the operation that enters
the thread's outbound order. What they do at home stands in `Home.lean`. -/

namespace Sys2Proof.Machine

/-- A trigger of `am` with its operand count. -/
def amOp (g : Grd) (src : Src) (nops : Nat) (op : Ctx → Issue → Issue) (s : State) : Host.Outcome State Fault Refusal :=
  slot (fun pre b => trigger pre b g src .am nops op) s

/-- The device virtual address of an object: alignment, then a window entry that grants RD and W (R148, R292). -/
def Mach.object (m : Mach) (a : Word) (align n : Nat) : Except Nat Word :=
  if a.toNat % align ≠ 0 then .error 0x07
  else match m.t.win? a n true true with
    | none => .error 0x08
    | some dva => .ok dva

/-- A trigger on an object: the failed check, or what follows with the object's address. -/
def Issue.onObject (b : Issue) (c : Ctx) (a : Word) (align n : Nat) (k : Word → Issue) : Issue :=
  match c.pre.object a align n with
  | .error e => b.trapAt c.slot e
  | .ok dva => k dva

/-- A landing of a scalar register whose data the next home operation of the queue gives. -/
def Issue.landingOf (b : Issue) (dst d : Nat) : Issue :=
  b.addLanding (.s (Fin.ofNat 64 dst)) (b.now.t.time + d) allLanes .home

/-! ### Atomics (R292, R293) -/

/-- A home atomic of a width in bytes; `sgn` says that the old value lands sign-extended. -/
def atomicOp (op : AtomOp) (size : Nat) (sgn : Bool) (g : Grd) (src : Src) (s : State) : Host.Outcome State Fault Refusal :=
  amOp g src 3 (fun c b =>
    let w := b.sl .am 1
    let noret := bit w 23
    let d := fld w 11 0
    let dst := fld w 17 12
    let b := if noret then b else b.room
    b.onObject c (b.sl .am 0) size size fun dva =>
      if (!noret && d = 0) || (noret && op = .cas) then b.trapAt c.slot 0x06
      else
        let cmp := zx (nth c.pre.t.s dst) (8 * size)
        let b := if noret then b else b.landingOf dst d
        b.hop dva (.atom op size sgn (zx c.v.word (8 * size)) cmp (fld w 19 18) (c.pre.effScope (fld w 22 20)))) s

/-- AADD_I32 (R293). -/
def execAaddI32 (g : Grd) (src : Src) (s : State) : Host.Outcome State Fault Refusal := atomicOp .addI 4 true g src s
/-- AADD_I64 (R293). -/
def execAaddI64 (g : Grd) (src : Src) (s : State) : Host.Outcome State Fault Refusal := atomicOp .addI 8 false g src s
/-- AADD_F32 (R293). -/
def execAaddF32 (g : Grd) (src : Src) (s : State) : Host.Outcome State Fault Refusal := atomicOp .addF32 4 false g src s
/-- AADD_BF16 (R293). -/
def execAaddBf16 (g : Grd) (src : Src) (s : State) : Host.Outcome State Fault Refusal := atomicOp .addBf16 4 false g src s
/-- AMIN_I32 (R293). -/
def execAminI32 (g : Grd) (src : Src) (s : State) : Host.Outcome State Fault Refusal := atomicOp .minI 4 true g src s
/-- AMIN_I64 (R293). -/
def execAminI64 (g : Grd) (src : Src) (s : State) : Host.Outcome State Fault Refusal := atomicOp .minI 8 false g src s
/-- AMIN_N32 (R293). -/
def execAminN32 (g : Grd) (src : Src) (s : State) : Host.Outcome State Fault Refusal := atomicOp .minN 4 false g src s
/-- AMIN_N64 (R293). -/
def execAminN64 (g : Grd) (src : Src) (s : State) : Host.Outcome State Fault Refusal := atomicOp .minN 8 false g src s
/-- AMAX_I32 (R293). -/
def execAmaxI32 (g : Grd) (src : Src) (s : State) : Host.Outcome State Fault Refusal := atomicOp .maxI 4 true g src s
/-- AMAX_I64 (R293). -/
def execAmaxI64 (g : Grd) (src : Src) (s : State) : Host.Outcome State Fault Refusal := atomicOp .maxI 8 false g src s
/-- AMAX_N32 (R293). -/
def execAmaxN32 (g : Grd) (src : Src) (s : State) : Host.Outcome State Fault Refusal := atomicOp .maxN 4 false g src s
/-- AMAX_N64 (R293). -/
def execAmaxN64 (g : Grd) (src : Src) (s : State) : Host.Outcome State Fault Refusal := atomicOp .maxN 8 false g src s
/-- AAND_N32 (R293). -/
def execAandN32 (g : Grd) (src : Src) (s : State) : Host.Outcome State Fault Refusal := atomicOp .and 4 false g src s
/-- AAND_N64 (R293). -/
def execAandN64 (g : Grd) (src : Src) (s : State) : Host.Outcome State Fault Refusal := atomicOp .and 8 false g src s
/-- AOR_N32 (R293). -/
def execAorN32 (g : Grd) (src : Src) (s : State) : Host.Outcome State Fault Refusal := atomicOp .or 4 false g src s
/-- AOR_N64 (R293). -/
def execAorN64 (g : Grd) (src : Src) (s : State) : Host.Outcome State Fault Refusal := atomicOp .or 8 false g src s
/-- AXOR_N32 (R293). -/
def execAxorN32 (g : Grd) (src : Src) (s : State) : Host.Outcome State Fault Refusal := atomicOp .xor 4 false g src s
/-- AXOR_N64 (R293). -/
def execAxorN64 (g : Grd) (src : Src) (s : State) : Host.Outcome State Fault Refusal := atomicOp .xor 8 false g src s
/-- ASWP_N32 (R293). -/
def execAswpN32 (g : Grd) (src : Src) (s : State) : Host.Outcome State Fault Refusal := atomicOp .swp 4 false g src s
/-- ASWP_N64 (R293). -/
def execAswpN64 (g : Grd) (src : Src) (s : State) : Host.Outcome State Fault Refusal := atomicOp .swp 8 false g src s
/-- ACAS_N32 (R293). -/
def execAcasN32 (g : Grd) (src : Src) (s : State) : Host.Outcome State Fault Refusal := atomicOp .cas 4 false g src s
/-- ACAS_N64 (R293). -/
def execAcasN64 (g : Grd) (src : Src) (s : State) : Host.Outcome State Fault Refusal := atomicOp .cas 8 false g src s

/-! ### Selection heaps (R295–R298) -/

/-- HINIT (R296): the object's 64 + 8C bytes lie in one window entry. -/
def execHinit (g : Grd) (src : Src) (s : State) : Host.Outcome State Fault Refusal :=
  amOp g src 2 (fun c b =>
    let n := fld c.v.word 12 0
    let a := b.sl .am 0
    if a.toNat % 64 ≠ 0 then b.trapAt c.slot 0x07
    else b.onObject c a 64 64 fun _ =>
      if n = 0 || 4096 < n then b.trapAt c.slot 0x06
      else b.onObject c a 64 (64 + 8 * n) fun dva => b.hop dva (.hinit n)) s
/-- HOFFER (R296, R297). -/
def execHoffer (g : Grd) (src : Src) (s : State) : Host.Outcome State Fault Refusal :=
  amOp g src 3 (fun c b =>
    let y := b.sl .am 1
    let rep := bit y 50
    let b := if rep then b.room else b
    b.onObject c (b.sl .am 0) 64 64 fun dva =>
      if rep && fld y 43 32 = 0 then b.trapAt c.slot 0x06
      else
        let b := if rep then b.landingOf (fld y 49 44) (fld y 43 32) else b
        b.hop dva (.hoffer (c.v.word.setWidth 32) (y.setWidth 32))) s
/-- HTAKE (R296, R298). -/
def execHtake (g : Grd) (src : Src) (s : State) : Host.Outcome State Fault Refusal :=
  amOp g src 3 (fun c b =>
    let o := b.sl .am 1
    let w := c.v.word
    let n := fld w 20 8
    let a := b.sl .am 0
    b.onObject c a 64 64 fun dva =>
      if o.toNat % 16 ≠ 0 then b.trapAt c.slot 0x07
      else if n = 0 || 4096 < n then b.trapAt c.slot 0x06
      else if c.pre.spadSize < o.toNat + 16 + 8 * n then b.trapAt c.slot 0x08
      else b.hop dva (.htake o.toNat (Fin.ofNat 32 (fld w 4 0)) (bit w 5) (bit w 6) n)) s

/-! ### The bitmap allocator (R299–R301) -/

/-- BALLOC (R300). -/
def execBalloc (g : Grd) (src : Src) (s : State) : Host.Outcome State Fault Refusal :=
  amOp g src 3 (fun c b =>
    let o := b.sl .am 1
    let w := c.v.word
    let n := fld w 12 6
    let a := b.sl .am 0
    b.onObject c a 64 64 fun dva =>
      if o.toNat % 16 ≠ 0 then b.trapAt c.slot 0x07
      else if n = 0 || 64 < n then b.trapAt c.slot 0x06
      else if c.pre.spadSize < o.toNat + 16 + 4 * n then b.trapAt c.slot 0x08
      else b.hop dva (.balloc o.toNat (Fin.ofNat 32 (fld w 4 0)) n (fld w 19 13))) s
/-- BFREE (R301): the page numbers are read at issue. -/
def execBfree (g : Grd) (src : Src) (s : State) : Host.Outcome State Fault Refusal :=
  amOp g src 3 (fun c b =>
    let o := b.sl .am 1
    let w := c.v.word
    let n := fld w 12 6
    let a := b.sl .am 0
    b.onObject c a 64 64 fun dva =>
      if o.toNat % 4 ≠ 0 then b.trapAt c.slot 0x07
      else if n = 0 || 64 < n then b.trapAt c.slot 0x06
      else if c.pre.spadSize < o.toNat + 4 * n then b.trapAt c.slot 0x08
      else
        let gs := unitsOf o.toNat (4 * n) 16
        let bad := (c.pre.probeSpad gs).t.spadPoisoned o.toNat (4 * n)
        let b := { b with now := b.now.probeSpad gs }
        if bad then b.unwind 0x81 o.toNat
        else b.hop dva (.bfree ((List.range n).map fun i => Mem.num c.pre.t.spad (o.toNat + 4 * i) 4)
          (Fin.ofNat 32 (fld w 4 0)) (bit w 5))) s

/-! ### Milestones (R302–R306) -/

/-- MSARM (R303): BYTES and ARRV in e, SCOPE in s[2:0], its effective scope resolved now (R304). -/
def execMsarm (g : Grd) (src : Src) (s : State) : Host.Outcome State Fault Refusal :=
  amOp g src 3 (fun c b =>
    let e := b.sl .am 1
    let sc := fld c.v.word 2 0
    b.onObject c (b.sl .am 0) 16 16 fun dva =>
      b.hop dva (.msarm (fld e 39 0) (fld e 63 40) (BitVec.ofNat 3 sc) (c.pre.effScope sc))) s
/-- MSARV (R304): no arrivals, no operation. -/
def execMsarv (g : Grd) (src : Src) (s : State) : Host.Outcome State Fault Refusal :=
  amOp g src 2 (fun c b =>
    let v := c.v.word
    b.onObject c (b.sl .am 0) 16 16 fun dva =>
      if fld v 23 0 = 0 then b
      else b.hop dva (.msarv (fld v 23 0) (BitVec.ofNat 3 (fld v 26 24)) (c.pre.effScope (fld v 26 24)))) s
/-- MSBIND (R306). -/
def execMsbind (g : Grd) (src : Src) (s : State) : Host.Outcome State Fault Refusal :=
  amOp g src 2 (fun c b =>
    let v := c.v.word
    b.onObject c (b.sl .am 0) 16 16 fun dva =>
      b.hop dva (.msbind (Fin.ofNat 32 (fld v 4 0)) (Fin.ofNat 32 (fld v 12 8)) (bit v 13))) s

end Sys2Proof.Machine
end

