-- ==== Sys2Proof/Machine/Engines.lean ====
section
/-! DEFINITION. Engine commands as they issue (R271–R291): the command word, the block, the milestone, the ranges, the limits, and the
command that enters the place's engine queue. -/

namespace Sys2Proof.Machine

/-! ### The command (R271–R273) -/

/-- The place's engine queue is full: commands not started, drains and fences not performed (R272). -/
def Mach.queueFull (m : Mach) : Bool :=
  let pl := m.cur
  let sec := m.isSec
  32 ≤ (m.dev.cmds.filter fun k => k.pl = pl && !k.started).length +
    (m.t.hops.filter fun h => h.sec = sec && h.op.queued).length

/-- A trigger of `en`: it waits whole while its place's engine queue is full. -/
def enOp (g : Grd) (src : Src) (op : Ctx → Issue → Issue) (s : State) : Host.Outcome State Fault Refusal :=
  slot (fun pre b => trigger pre b g src .en 3 fun c b =>
    op c (if pre.queueFull then b.stallBy .other else b)) s

/-- A command block: aligned to 64 bytes, within the scratchpad, read in step 1. -/
def Mach.block (m : Mach) (o : Word) (n : Nat) : Except Nat (List Byte) :=
  if o.toNat % 64 ≠ 0 then .error 0x07
  else if m.spadSize < o.toNat + n then .error 0x08
  else .ok (Mem.readN m.t.spad o.toNat n)
/-- The milestone of a command with MV = 1: aligned, its window entry granting RD and W. -/
def Mach.cmdMs (m : Mach) (w ms : Word) : Except Nat (Option Word) :=
  if !bit w 6 then .ok none
  else if ms.toNat % 16 ≠ 0 then .error 0x07
  else match m.t.win? ms 16 true true with
    | none => .error 0x08
    | some dva => .ok (some dva)
/-- The signals of a command word (Table 12-1). -/
def sigOf (w : Word) (ms : Option Word) : Sig :=
  ⟨ms, bit w 6 && bit w 7, if bit w 5 then some (Fin.ofNat 32 (fld w 4 0)) else none⟩

/-- A field of a block. -/
def bf (blk : List Byte) (o n : Nat) : Nat := leNat ((blk.drop o).take n)
/-- A signed field of a block. -/
def bfs (blk : List Byte) (o n : Nat) : Int := (BitVec.ofNat (8 * n) (bf blk o n)).toInt

/-- Put a command into the engine queue. -/
def Issue.enqueue (b : Issue) (k : CmdK) (sig : Sig) : Issue :=
  let t := b.now.t
  let c : Cmd := ⟨b.now.dev.cmdNext, t.ref, t.asid, b.now.cur, t.seq, t.time, k, sig, false, [], [], [], 0, false, [], [], []⟩
  (b.modD fun d => { d with cmds := d.cmds ++ [c], cmdNext := d.cmdNext + 1 }).modT fun t => { t with seq := t.seq + 1 }

/-- The scratchpad granules that an index list occupies: where the block says it lies, and how long it is. -/
abbrev ListAt := List Byte → Word → Nat × Nat
/-- A command with a block: block, milestone, then the limits and ranges that `k` checks on the block's bytes. Block and index list are read in
step 1 (R383). -/
def Issue.blockCmd (b : Issue) (c : Ctx) (n : Nat) (list : ListAt) (k : List Byte → Word → Except Nat CmdK) : Issue :=
  let w := c.v.word
  let o := b.sl .en 0
  let r : Except Nat (List Byte × CmdK × Sig) := do
    let blk ← c.pre.block o n
    let ms ← c.pre.cmdMs w (b.sl .en 1)
    let kind ← k blk w
    pure (blk, kind, sigOf w ms)
  match r with
  | .error e => b.trapAt c.slot e
  | .ok (blk, kind, sig) =>
    let l := list blk w
    { b with now := b.now.probeSpad (unitsOf o.toNat n 16 ++ unitsOf l.1 l.2 16) }.enqueue kind sig
/-- No index list. -/
def noList : ListAt := fun _ _ => (0, 0)
/-- A command without a block. -/
def Issue.plainCmd (b : Issue) (c : Ctx) (k : Word → Except Nat (Sig → Issue → Issue)) : Issue :=
  let w := c.v.word
  let r : Except Nat (Sig × (Sig → Issue → Issue)) := do
    let ms ← c.pre.cmdMs w (b.sl .en 1)
    let f ← k w
    pure (sigOf w ms, f)
  match r with
  | .error e => b.trapAt c.slot e
  | .ok (sig, f) => f sig b

/-! ### Ranges (R148, R272) -/

/-- A pattern lies within a local memory of `size` bytes. -/
def localSpan (base : Nat) (dims : List (Nat × Int)) (len size : Nat) : Bool :=
  let (lo, n) := span dims len
  0 ≤ (base : Int) + lo && (base : Int) + lo + n ≤ size

/-! ### Spools (R274–R277) -/

/-- A spool with a block read. -/
def spoolOf (blk : List Byte) (dir handle : Bool) (pos : Nat) : Spool :=
  ⟨Vector.ofFn fun i => blk.getD i.val 0, 0, 0, 0, true, dir, handle, pos, []⟩
/-- WIND (R274): the binding takes effect in step 2; a handle has no winder and no signals. -/
def execWind (g : Grd) (src : Src) (s : State) : Host.Outcome State Fault Refusal :=
  enOp g src (fun c b =>
    let w := c.v.word
    let n := fld w 19 16
    let dir := bit w 20
    let handle := bit w 21
    let t := c.pre.t
    let r : Except Nat (List Byte × Sig) := do
      let blk ← c.pre.block (b.sl .en 0) 256
      let ms ← c.pre.cmdMs w (b.sl .en 1)
      let x := spoolOf blk dir handle 0
      if (nth t.spools n).bound then .error 0x06
      if x.ring % 256 ≠ 0 || x.nslot < 2 || 4096 < x.nslot || c.pre.spadSize < x.ring + 256 * x.nslot then .error 0x06
      if !handle then
        if (List.range 6).any fun d => x.cnt d < 1 || 65535 < x.cnt d then .error 0x06
        if (x.f8 0x88).toNat % 64 ≠ 0 || (List.range 6).any (fun d => (x.f8 (0xB0 + 8 * d)).toNat % 64 ≠ 0) then .error 0x06
        if !(mapOfBytes (blk.take 136)).setOk 64 then .error 0x06
        if (x.dva t 0).isNone then .error 0x08
      pure (blk, sigOf w ms)
    match r with
    | .error e => b.trapAt c.slot e
    | .ok (blk, sig) =>
      let b := b.modT fun t => { t with spools := setNth t.spools n (spoolOf blk dir handle t.seq) }
      let b := { b with now := b.now.probeSpad (unitsOf (b.sl .en 0).toNat 256 16) }
      if handle then b.modT fun t => { t with seq := t.seq + 1 } else b.enqueue (.wind (Fin.ofNat 16 n)) sig) s

/-- UNWIND_SPOOL (R277): a read spool's winder stops; a write spool's filled slots remain to be written by the command. -/
def execUnwindSpool (g : Grd) (src : Src) (s : State) : Host.Outcome State Fault Refusal :=
  enOp g src (fun c b => b.plainCmd c fun w => .ok fun sig b =>
    let n : Fin 16 := Fin.ofNat 16 (fld w 19 16)
    let x := nth b.now.t.spools n.val
    let left := if x.bound && x.dir && !x.handle then x else Spool.zero
    let own := b.now.t.ref
    let b := if x.bound && left.filled = 0 then
        b.modD fun d => { d with cmds := d.cmds.filter fun k => !(k.own = own && k.kind = .wind n && k.seq = x.pos) }
      else b
    (b.modT fun t => { t with spools := setNth t.spools n.val Spool.zero }).enqueue (.unwindSp n left) sig) s

/-- SPADV (R276): the bundle waits for NWAIT slots, then the pointer moves by NADV in step 2. FV, MV and ARV are ignored. -/
def execSpadv (g : Grd) (src : Src) (s : State) : Host.Outcome State Fault Refusal :=
  enOp g src (fun c b =>
    let w := c.v.word
    let n := fld w 19 16
    let nwait := fld w 32 21
    let nadv := fld w 44 33
    let x := nth c.pre.t.spools n
    let avail := if bit w 20 then x.nslot - x.filled else x.filled
    if !x.bound then b.trapAt c.slot 0x06
    else if nwait < nadv then b.trapAt c.slot 0x06
    else
      let b := if avail < nwait then b.stallBy .other else b
      b.modT fun t =>
        let y := nth t.spools n
        let k := BitVec.ofNat 32 nadv
        let gone := if y.dir && !y.handle then (List.range nadv).map fun i => y.wpos.toNat + i else []
        let y := if bit w 20 then { y with wpos := y.wpos + k, skip := y.skip ++ gone } else { y with rpos := y.rpos + k }
        { t with spools := setNth t.spools n y }) s

/-! ### Copy (R278) -/

/-- COPY (R278, Table 12-4). -/
def execCopy (g : Grd) (src : Src) (s : State) : Host.Outcome State Fault Refusal :=
  enOp g src (fun c b => b.blockCmd c 320 noList fun blk w => do
    let sk := fld w 17 16
    let dk := fld w 19 18
    let nd := bf blk 0x10 4
    if sk = 3 || dk = 3 then .error 0x06
    if nd < 1 || 14 < nd then .error 0x06
    let cnt := (List.range nd).map fun d => bf blk (0x18 + 4 * d) 4
    let total := cnt.foldl (· * ·) 1
    if 2 ^ 40 ≤ total then .error 0x06
    let ss := (List.range (nd - 1)).map fun d => bfs blk (0x50 + 8 * d) 8
    let ds := (List.range (nd - 1)).map fun d => bfs blk (0xB8 + 8 * d) 8
    let sBase := BitVec.ofNat 64 (bf blk 0 8)
    let dBase := BitVec.ofNat 64 (bf blk 8 8)
    if total = 0 then return (.copy sk dk sBase dBase cnt ss ds)
    let side := fun (kind : Nat) (base : Word) (st : List Int) (rd wr : Bool) =>
      let dims := cnt.tail.zip st
      let len := cnt.headD 0
      match kind with
      | 0 => match c.pre.t.winSpan base dims len rd wr with
        | none => (Except.error 0x08 : Except Nat Word)
        | some dva => .ok dva
      | 1 => if localSpan base.toNat dims len c.pre.spadSize then .ok base else .error 0x08
      | _ => if localSpan base.toNat dims len csSize then .ok base else .error 0x08
    let a ← side sk sBase ss true false
    let z ← side dk dBase ds false true
    pure (.copy sk dk a z cnt ss ds)) s

/-! ### Gather, scatter and key-value gather (R280–R282) -/

/-- An index that skips its row. -/
def skipRow : Nat := 0xFFFFFFFF
/-- The records' offset of a block: none, or one aligned to 16 with its records in the scratchpad. -/
def Mach.recOff (m : Mach) (o n : Nat) : Except Nat (Option Nat) :=
  if o = 0xFFFFFFFF then .ok none
  else if o % 16 ≠ 0 then .error 0x07
  else if m.spadSize < o + 16 * n then .error 0x08
  else .ok (some o)
/-- Row `r` of the local side lies in the scratchpad. -/
def Mach.localRow (m : Mach) (o len : Nat) : Except Nat Unit := if m.spadSize < o + len then .error 0x08 else .ok ()

/-- The rows of a gather or scatter (R280): N, RLEN and the index list, then each row through the window table. -/
def Mach.tableRows (m : Mach) (blk : List Byte) (wr : Bool) : Except Nat (List (Option Word × Nat)) := do
  let n := bf blk 0x14 4
  let len := bf blk 0x20 4
  let idx := bf blk 0x10 4
  if n < 1 || 4096 < n then .error 0x06
  if len < 4 || 65536 < len || len % 4 ≠ 0 then .error 0x06
  if idx % 4 ≠ 0 then .error 0x07
  if m.spadSize < idx + 4 * n then .error 0x08
  (List.range n).mapM fun r => do
    let i := Mem.num m.t.spad (idx + 4 * r) 4
    if i = skipRow then pure (none, i)
    else
      m.localRow (bf blk 0x18 4 + r * bf blk 0x1C 4) len
      match m.t.win? (BitVec.ofNat 64 (bf blk 0 8 + i * bf blk 8 8)) len (!wr) wr with
      | none => .error 0x08
      | some dva => pure (some dva, i)

/-- The index list of a gather or scatter: word IDX and N of the block. -/
def tableList : ListAt := fun blk _ => (bf blk 0x10 4, 4 * bf blk 0x14 4)
/-- GATH (R281). -/
def execGath (g : Grd) (src : Src) (s : State) : Host.Outcome State Fault Refusal :=
  enOp g src (fun c b => b.blockCmd c 64 tableList fun blk _ => do
    let rows ← c.pre.tableRows blk false
    let ro ← c.pre.recOff (bf blk 0x24 4) rows.length
    pure (.gath rows (bf blk 0x18 4) (bf blk 0x1C 4) (bf blk 0x20 4) ro)) s
/-- SCAT (R281): it writes no records. -/
def execScat (g : Grd) (src : Src) (s : State) : Host.Outcome State Fault Refusal :=
  enOp g src (fun c b => b.blockCmd c 64 tableList fun blk _ => do
    let rows ← c.pre.tableRows blk true
    pure (.scat (rows.map fun x => x.1) (bf blk 0x18 4) (bf blk 0x1C 4) (bf blk 0x20 4))) s

/-- What a block table entry's read gives: its value, a page fault (the address of the entry with bit 63 set, which no walk
translates), or a wait for a page or for earlier operations and reads (R153, R162, R166). -/
inductive EntryR where
  | val (e : BitVec 32)
  | fault (dva : Word)
  | wait (page : Option Word)

/-- A new entry of the acting place's block map cache; a full one loses an entry of the device's choice (R282). -/
def Dev.cacheEntry (d : Dev) (e : BmcE) : Dev :=
  let rest := d.bmc.filter fun x => !(x.pl = e.pl && x.pa = e.pa)
  let mine := rest.filter fun x => x.pl = e.pl
  let (k, d) := d.choose 1024
  let rest := if mine.length < 1024 then rest else match mine[k]? with | some x => rest.filter (· ≠ x) | none => rest
  { d with bmc := rest ++ [e] }
/-- Read a block table entry from home or from a replica; one that lies within a line stays in the place's block map cache, as old as the copy it
was taken from (R282). -/
def Mach.readEntry (m : Mach) (ps : List (Nat × Nat)) : BitVec 32 × Mach :=
  let val := fun (bs : List Byte) => BitVec.ofNat 32 (leNat bs)
  match ps with
  | [(pa, 4)] =>
    if inMgmt pa || 124 < pa % 128 then let (bs, _, m) := m.readPa m.t.ref pa 4; (val bs, m)
    else
      let x := m.readCopy [m.t.ref] pa 4
      (val x.bytes, x.m.modD fun d => d.cacheEntry ⟨m.cur, pa, val x.bytes, x.c⟩)
  | _ => let (bs, _, m) := m.readParts m.t.ref ps; (val bs, m)
/-- Read a block table entry through the place's block map cache (R282), a remote read of the thread at a thread time: it waits for earlier operations that hold it and for
earlier reads of its bytes (R162, R166), and the cache may serve it where a replica could (R146). -/
def Mach.mapEntry (m : Mach) (time : Nat) (dva : Word) : EntryR × Mach :=
  match m.coreRange dva 4 false with
  | .fault _ => (.fault (dva ||| BitVec.ofNat 64 (2 ^ 63)), m)
  | .absent a => (.wait (some a), m)
  | .ok ps =>
    if m.heldBy (fun h => h.time < time) ps || m.unboundOn (fun l => l.issued < time) ps then (.wait none, m)
    else
      let m := m.cacheXlate m.t.asid dva (m.xlate m.t.asid dva false m.t.priv)
      let fresh := fun (m : Mach) => let (v, m) := m.readEntry ps; (EntryR.val v, m)
      match m.dev.bmc.find? fun e => e.pl = m.cur && ps = [(e.pa, 4)] && e.c.serves m.dev.milepost m.t.ref with
      | none => fresh m
      | some e =>
        let (k, d) := m.dev.choose 2
        if k = 0 then fresh { m with dev := d } else (.val e.val, { m with dev := d.didRead m.t.ref e.pa 4 (some e.c.at_) })

/-- Read the entries of consecutive blocks. -/
def Mach.mapEntries (m : Mach) (time : Nat) (dva : Word) : Nat → List EntryR × Mach
  | 0 => ([], m)
  | n + 1 =>
    let (e, m) := m.mapEntry time dva
    let (es, m) := m.mapEntries time (dva + 4) n
    (e :: es, m)

/-- The row of token `t` under its block's entry. -/
def Mach.tokenRow (m : Mach) (blk : List Byte) (es : List EntryR) (t0 r : Nat) : Except Nat (Option Word × Nat) := do
  let t := t0 + r
  let len := bf blk 0x1C 4
  match es.getD (t / 16 - t0 / 16) (.wait none) with
  | .wait _ => pure (none, t)
  | .fault a => do
    m.localRow (bf blk 0x28 4 + r * bf blk 0x2C 4) len
    pure (some a, t)
  | .val e =>
    if e.toNat = skipRow then pure (none, t)
    else
      m.localRow (bf blk 0x28 4 + r * bf blk 0x2C 4) len
      match m.t.win? (BitVec.ofNat 64 (bf blk 8 8 + e.toNat * bf blk 0x10 8 + bf blk 0x18 4 + t % 16 * len)) len true false with
      | none => .error 0x08
      | some dva => pure (some dva, t)

/-- The rows of a `kvg` whose entries were read after its issue. A row that its issue would have trapped for is one whose translation faults: at the
address of its entry, with bit 63 set (DESIGN CHOICE). -/
def Mach.lateRows (m : Mach) (blk : List Byte) (dva : Word) (es : List EntryR) : List (Option Word × Nat) :=
  let t0 := bf blk 0x20 4
  (List.range (bf blk 0x24 4)).map fun r => match m.tokenRow blk es t0 r with
    | .ok x => x
    | .error _ => (some ((dva + BitVec.ofNat 64 (4 * ((t0 + r) / 16 - t0 / 16))) ||| BitVec.ofNat 64 (2 ^ 63)), t0 + r)
/-- A `kvg` issues before its block table is read: the read is a landing that is never due. -/
def Issue.kvgLate (b : Issue) (blk : List Byte) (dva : Word) (nb : Nat) (sig : Sig) : Issue :=
  let sec := b.now.isSec
  let now := b.now.dev.acyc
  let dst : LandDst := .table b.now.dev.cmdNext
  (b.modT fun t => { t with land := t.land ++ [⟨dst, t.time + 2 ^ 40, allLanes, .table dva nb, t.seq, t.time, sec, none, none, now, false, []⟩] }).enqueue
    (.kvgLate blk b.now.t.win) sig
/-- KVG (R282): the block table entries are read at issue. Where one's page is not in place the core freezes (R153); where one's read must wait for an
earlier operation, the bundle issues and the entries are read behind it (R162). -/
def execKvg (g : Grd) (src : Src) (s : State) : Host.Outcome State Fault Refusal :=
  enOp g src (fun c b =>
    let m := c.pre
    match m.block (b.sl .en 0) 64 with
    | .error e => b.trapAt c.slot e
    | .ok blk =>
      let nt := bf blk 0x24 4
      let t0 := bf blk 0x20 4
      let len := bf blk 0x1C 4
      let nb := (t0 + nt - 1) / 16 + 1 - t0 / 16
      let lim := nt < 1 || 4096 < nt || len < 16 || 8192 < len || len % 16 ≠ 0
      match (if lim then none else m.t.win? (BitVec.ofNat 64 (bf blk 0 8 + 4 * (t0 / 16))) (4 * nb) true false) with
      | none => b.blockCmd c 64 noList fun _ _ => .error (if lim then 0x06 else 0x08)
      | some dva =>
        let (es, now) := b.now.mapEntries m.t.time dva nb
        let waits := es.filterMap fun e => match e with | .wait p => some p | _ => none
        let late := !waits.isEmpty && waits.all Option.isNone
        let b := if waits.isEmpty then { b with now := now } else if late then b else { b with freeze := true, waitFor := waits.filterMap id }
        if late then
          match m.recOff (bf blk 0x30 4) nt, m.cmdMs c.v.word (b.sl .en 1) with
          | .ok _, .ok ms => { b with now := b.now.probeSpad (unitsOf (b.sl .en 0).toNat 64 16) }.kvgLate blk dva nb (sigOf c.v.word ms)
          | .error e, .ok _ => b.trapAt c.slot e
          | _, .error e => b.trapAt c.slot e
        else b.blockCmd c 64 noList fun _ _ => do
          let rows ← (List.range nt).mapM fun r => m.tokenRow blk es t0 r
          let ro ← m.recOff (bf blk 0x30 4) nt
          pure (.kvg rows (bf blk 0x28 4) (bf blk 0x2C 4) len ro)) s

/-! ### Compressed transfer, exchange, collectives (R283–R286) -/

/-- CMPX (R283). -/
def execCmpx (g : Grd) (src : Src) (s : State) : Host.Outcome State Fault Refusal :=
  enOp g src (fun c b => b.blockCmd c 16 noList fun blk w => do
    let spo := bf blk 0 4
    let clo := bf blk 4 4
    let n := bf blk 8 4
    let dsz := fld w 19 17
    if spo % 256 ≠ 0 || clo % 32 ≠ 0 then .error 0x07
    if n < 1 || 4096 < n then .error 0x06
    if dsz = 7 then .error 0x06
    let size := 64 + 32 * dsz
    if c.pre.spadSize < spo + 256 * n || csSize < clo + n * size then .error 0x08
    pure (.cmpx (bit w 16) spo clo n size)) s

/-- XCHG (R284, Table 12-7). -/
def execXchg (g : Grd) (src : Src) (s : State) : Host.Outcome State Fault Refusal :=
  enOp g src (fun c b => b.blockCmd c 64 (fun blk w => (bf blk 0x10 4, (if bit w 17 then 8 else 4) * bf blk 0x14 4)) fun blk w => do
    let n := bf blk 0x14 4
    let ne := bf blk 0x18 4
    let list := bf blk 0x10 4
    let dcl := bf blk 0x20 4
    let doff := bf blk 0x24 4
    let dstr := bf blk 0x28 4
    if n < 1 || 4096 < n then .error 0x06
    if ne < 128 || 16384 < ne || ne % 128 ≠ 0 then .error 0x06
    if 36 ≤ dcl % 64 then .error 0x06
    if dstr % 4 ≠ 0 || dstr < xrowBytes ne then .error 0x06
    let wide := bit w 17
    let ent := if wide then 8 else 4
    if c.pre.spadSize < list + ent * n then .error 0x08
    if csSize < doff + (n - 1) * dstr + xrowBytes ne then .error 0x08
    let bf16 := bit w 16
    let rows ← (List.range n).mapM fun r => do
      let i := Mem.num c.pre.t.spad (list + ent * r + (if wide then 4 else 0)) 4
      match c.pre.t.win? (BitVec.ofNat 64 (bf blk 0 8 + i * bf blk 8 8)) (ne * (if bf16 then 2 else 4)) true false with
      | none => (Except.error 0x08 : Except Nat Word)
      | some dva => pure dva
    pure (.xchg bf16 rows ne (bf blk 0x1C 4) (dcl % 64) doff dstr (BitVec.ofNat 64 (bf blk 0x30 8)))) s

/-- COLL (R286, Table 12-8). The ranges checked at issue are those of the participants that the object then counts. -/
def execColl (g : Grd) (src : Src) (s : State) : Host.Outcome State Fault Refusal :=
  enOp g src (fun c b => b.blockCmd c 64 noList fun blk w => do
    let op := fld w 17 16
    let red := fld w 19 18
    let dt := fld w 21 20
    let nb := bf blk 0x18 8
    match c.pre.t.win? (BitVec.ofNat 64 (bf blk 0 8)) 64 true false with
    | none => .error 0x08
    | some skn =>
      if (c.pre.t.memberAt skn).isNone then .error 0x06
      if nb = 0 || nb % 4 ≠ 0 then .error 0x06
      if red = 3 || dt = 3 then .error 0x06
      let p := match c.pre.xlate c.pre.t.asid skn false c.pre.t.priv with
        | .ok pa _ _ => max 1 (c.pre.dev.num pa 4)
        | _ => 1
      let (ns, nr) := collSlices op p
      match c.pre.t.win? (BitVec.ofNat 64 (bf blk 8 8)) (ns * nb) true false,
          c.pre.t.win? (BitVec.ofNat 64 (bf blk 0x10 8)) (nr * nb) false true with
      | some sb, some rb => pure (.coll op red dt skn sb rb nb)
      | _, _ => .error 0x08) s

/-! ### Ordering and page commands (R289–R291) -/

/-- The milestone signal of an ordering command. -/
def Sig.order (s : Sig) : Option (Word × Bool) := s.ms.map fun a => (a, s.arv)

/-- DRAIN (R289). -/
def execDrain (g : Grd) (src : Src) (s : State) : Host.Outcome State Fault Refusal :=
  enOp g src (fun c b => b.plainCmd c fun w => .ok fun sig b => b.hop 0 (.drain (c.pre.effScope (fld w 18 16)) sig.flag sig.order)) s
/-- FENCE (R289): KIND 0 ACQ, 1 SC. -/
def execFence (g : Grd) (src : Src) (s : State) : Host.Outcome State Fault Refusal :=
  enOp g src (fun c b => b.plainCmd c fun w =>
    if 2 ≤ fld w 20 19 then .error 0x06
    else .ok fun sig b => b.hop 0 (.fence (fld w 20 19 = 1) (c.pre.effScope (fld w 18 16)) sig.flag sig.order)) s

/-- `prefh` and `migr` (R290): pages of one window entry that allows reads. -/
def pageCmd (k : Word → Nat → Word → CmdK) (g : Grd) (src : Src) (s : State) : Host.Outcome State Fault Refusal :=
  enOp g src (fun c b =>
    let a := b.sl .en 0
    let n := fld c.v.word 39 16
    if a.toNat % 0x10000 ≠ 0 then b.trapAt c.slot 0x07
    else match c.pre.t.win? a (max n 1 * 0x10000) true false with
      | none => b.trapAt c.slot 0x08
      | some dva => b.plainCmd c fun w => if n = 0 then .error 0x06 else .ok fun sig b => b.enqueue (k dva n w) sig) s
/-- PREFH (R290). -/
def execPrefh (g : Grd) (src : Src) (s : State) : Host.Outcome State Fault Refusal :=
  pageCmd (fun dva n w => .prefh dva n (bit w 40)) g src s
/-- MIGR (R290). -/
def execMigr (g : Grd) (src : Src) (s : State) : Host.Outcome State Fault Refusal :=
  pageCmd (fun dva n w => .migr dva n (bit w 40)) g src s

/-- ENQ (R291). -/
def execEnq (g : Grd) (src : Src) (s : State) : Host.Outcome State Fault Refusal :=
  enOp g src (fun c b => b.plainCmd c fun _ => .ok fun sig b => b.enqueue .enq sig) s

end Sys2Proof.Machine
end

