-- ==== Sys2Proof/Machine/Transform.lean ====
section
/-! DEFINITION. The transform slot (R264–R270): conversion to packed formats, expansion, block quantisation, transposes, interleaves. The
guards of slot 7 are scalar (R69), so a trigger here takes every lane or none. -/

namespace Sys2Proof.Machine

/-! ### Frames (R264) -/

/-- A trigger of the transform unit: one that comes before the previous trigger's beat has elapsed waits whole (R264). -/
def xfOp (nops beat : Nat) (g : Grd) (src : Src) (op : Ctx → Issue → Issue) (s : State) : Host.Outcome State Fault Refusal :=
  slot (fun pre b => trigger pre b g src .xf nops fun c b =>
    let b := match c.pre.core.xfLast with
      | some (at_, n) => if c.pre.core.cyc - at_ < n then b.stallBy .other else b
      | none => b
    let n := if c.pre.dual then beat * (1 + c.pre.t.T) else beat
    op c (b.modC fun k => { k with xfLast := some (k.cyc, n) })) s

/-- A packed format: element width in bits, how a code is read, how a value is converted. -/
structure PFmt where
  wd : Nat
  keep : Nat
  val : Nat → Fp
  tgt : CvtT

/-- A floating packed format of element width `wd`. -/
def PFmt.flt (f : FFmt) (wd : Nat) : PFmt := ⟨wd, 1 + f.eb + f.mb, f.dec, .flt f⟩
/-- An integer packed format. -/
def PFmt.int (wd : Nat) (sgn : Bool) : PFmt :=
  ⟨wd, wd, fun x => Fp.ofInt (if sgn && 2 ^ (wd - 1) ≤ x then (x : Int) - 2 ^ wd else x), .int wd sgn⟩

/-- Elements per lane. -/
def PFmt.per (f : PFmt) : Nat := 32 / f.wd
/-- The code of element `e` of a packed vector; the bits a format does not use are ignored (R240). -/
def PFmt.code (f : PFmt) (v : VVal) (e : Nat) : Nat :=
  fld (v.l (e / f.per)) (f.wd * (e % f.per) + f.wd - 1) (f.wd * (e % f.per)) % 2 ^ f.keep
/-- Lane `i` of `n` packed elements, zero beyond them. -/
def packLane (wd n : Nat) (code : Nat → Nat) (i : Nat) : Lane :=
  let per := 32 / wd
  BitVec.ofNat 32 ((List.range per).foldl (fun a s =>
    if per * i + s < n then a + code (per * i + s) % 2 ^ wd * 2 ^ (wd * s) else a) 0)

/-! ### Maps (R265) -/

/-- The map of a source whose shape a transform does not keep. -/
def MapD.elseLost (m : MapD) : MapD × Bool :=
  match m.st with
  | .none => (MapD.none, false)
  | .opq => (MapD.opaque_, false)
  | _ => (MapD.opaque_, true)
/-- Packing by p. -/
def MapD.pack (m : MapD) (p : Nat) : MapD × Bool :=
  let m0 := nth m.mov 0
  if m.st = .affine && 1 ≤ m.nmov.toNat && m.nmov.toNat ≤ 3 && m0.str = 1 && m0.cnt.toNat % p = 0 then
    ({ m with
      nmov := m.nmov + 1
      mov := setNth (setNth m.mov 0 ⟨m0.dim, BitVec.ofNat 16 p, BitVec.ofNat 12 (m0.cnt.toNat / p)⟩) m.nmov.toNat
        ⟨m0.dim, 0, BitVec.ofNat 12 p⟩ }, false)
  else m.elseLost
/-- Unpacking group g of a vector of p elements per lane. -/
def MapD.unpack (m : MapD) (p g : Nat) : MapD × Bool :=
  let m0 := nth m.mov 0
  let l := 64 * g / p
  let z : MovE := ⟨0, 0, 0⟩
  if m.st = .affine && 1 ≤ m.nmov.toNat && m0.str.toNat = p && l % max m0.cnt.toNat 1 + 64 / p ≤ m0.cnt.toNat then
    ({ m with nmov := 1, mov := #v[⟨m0.dim, 1, 64⟩, z, z, z]
              org := Vector.ofFn fun d => m.coordBy (m.share l) d.val }, false)
  else m.elseLost
/-- The map of two interleaved operands (R270). -/
def mapPair (a b : MapD) : MapD × Bool :=
  if a.st = .none && b.st = .none then (MapD.none, false)
  else if a.st = .opq || b.st = .opq then (MapD.opaque_, false)
  else (MapD.opaque_, true)

/-- The half of a shadow lane that holds the tangent of 16-bit element `e`. -/
def tgHalf (v : VVal) (k e : Nat) : Nat := fld (v.tgl k (e / 2)) (16 * (e % 2) + 15) (16 * (e % 2))

/-! ### xcvt (R266) -/

/-- `xcvt`: 64 elements packed from byte 0; .bf16 and .f16 keep tangents. -/
def xcvtOp (f : PFmt) (tgs : Bool) (g : Grd) (src : Src) (s : State) : Host.Outcome State Fault Refusal :=
  xfOp 1 2 g src (fun c b =>
    let x := b.vl .xf 0
    let rs := c.pre.t.convert f.tgt (x.map.lin (c.pre.t.store x.map)) ((List.range 64).map fun l => some (fp (x.l l)))
    let arr := (rs.map fun r => match r with | some r => r.code | none => 0).toArray
    let (nan, sat) := cvtStatus rs
    let (m, lost) := x.map.pack f.per
    (b.status nan sat lost).emit c .xfr 7 m (packLane f.wd 64 fun e => arr.getD e 0)
      (if tgs then fun k => packLane 16 64 fun e => bf16.rne (fp (x.tgl k e)) else noTg)) s

/-- XCVT_BF16 (R266). -/
def execXcvtBf16 (g : Grd) (src : Src) (s : State) : Host.Outcome State Fault Refusal := xcvtOp (.flt bf16 16) true g src s
/-- XCVT_F16 (R266). -/
def execXcvtF16 (g : Grd) (src : Src) (s : State) : Host.Outcome State Fault Refusal := xcvtOp (.flt f16 16) true g src s
/-- XCVT_E4M3 (R266). -/
def execXcvtE4m3 (g : Grd) (src : Src) (s : State) : Host.Outcome State Fault Refusal := xcvtOp (.flt e4m3 8) false g src s
/-- XCVT_E5M2 (R266). -/
def execXcvtE5m2 (g : Grd) (src : Src) (s : State) : Host.Outcome State Fault Refusal := xcvtOp (.flt e5m2 8) false g src s
/-- XCVT_E2M3 (R266). -/
def execXcvtE2m3 (g : Grd) (src : Src) (s : State) : Host.Outcome State Fault Refusal := xcvtOp (.flt e2m3 8) false g src s
/-- XCVT_E3M2 (R266). -/
def execXcvtE3m2 (g : Grd) (src : Src) (s : State) : Host.Outcome State Fault Refusal := xcvtOp (.flt e3m2 8) false g src s
/-- XCVT_E2M1 (R266). -/
def execXcvtE2m1 (g : Grd) (src : Src) (s : State) : Host.Outcome State Fault Refusal := xcvtOp (.flt e2m1 4) false g src s
/-- XCVT_I8 (R266). -/
def execXcvtI8 (g : Grd) (src : Src) (s : State) : Host.Outcome State Fault Refusal := xcvtOp (.int 8 true) false g src s
/-- XCVT_N8 (R266). -/
def execXcvtN8 (g : Grd) (src : Src) (s : State) : Host.Outcome State Fault Refusal := xcvtOp (.int 8 false) false g src s
/-- XCVT_I4 (R266). -/
def execXcvtI4 (g : Grd) (src : Src) (s : State) : Host.Outcome State Fault Refusal := xcvtOp (.int 4 true) false g src s
/-- XCVT_N4 (R266). -/
def execXcvtN4 (g : Grd) (src : Src) (s : State) : Host.Outcome State Fault Refusal := xcvtOp (.int 4 false) false g src s

/-! ### xexp (R267) -/

/-- `xexp`: group g of a packed vector, widened exactly. -/
def xexpOp (f : PFmt) (tgs : Bool) (g : Grd) (src : Src) (s : State) : Host.Outcome State Fault Refusal :=
  xfOp 2 2 g src (fun c b =>
    let w := (b.vl .xf 0).l 0
    let x := b.vl .xf 1
    let grp := fld w 2 0
    if w.toNat / 32 ≠ 0 || fld w 4 3 ≠ 0 || f.per ≤ grp then b.trapAt c.slot 0x06
    else
      let (m, lost) := x.map.unpack f.per grp
      (b.lost lost).emit c .xfr 8 m (fun l => rnd (f.val (f.code x (64 * grp + l))))
        (if tgs then fun k l => rnd (bf16.dec (tgHalf x k (64 * grp + l))) else noTg)) s

/-- XEXP_BF16 (R267). -/
def execXexpBf16 (g : Grd) (src : Src) (s : State) : Host.Outcome State Fault Refusal := xexpOp (.flt bf16 16) true g src s
/-- XEXP_F16 (R267). -/
def execXexpF16 (g : Grd) (src : Src) (s : State) : Host.Outcome State Fault Refusal := xexpOp (.flt f16 16) true g src s
/-- XEXP_E4M3 (R267). -/
def execXexpE4m3 (g : Grd) (src : Src) (s : State) : Host.Outcome State Fault Refusal := xexpOp (.flt e4m3 8) false g src s
/-- XEXP_E5M2 (R267). -/
def execXexpE5m2 (g : Grd) (src : Src) (s : State) : Host.Outcome State Fault Refusal := xexpOp (.flt e5m2 8) false g src s
/-- XEXP_E2M3 (R267). -/
def execXexpE2m3 (g : Grd) (src : Src) (s : State) : Host.Outcome State Fault Refusal := xexpOp (.flt e2m3 8) false g src s
/-- XEXP_E3M2 (R267). -/
def execXexpE3m2 (g : Grd) (src : Src) (s : State) : Host.Outcome State Fault Refusal := xexpOp (.flt e3m2 8) false g src s
/-- XEXP_E2M1 (R267). -/
def execXexpE2m1 (g : Grd) (src : Src) (s : State) : Host.Outcome State Fault Refusal := xexpOp (.flt e2m1 4) false g src s
/-- XEXP_I8 (R267). -/
def execXexpI8 (g : Grd) (src : Src) (s : State) : Host.Outcome State Fault Refusal := xexpOp (.int 8 true) false g src s
/-- XEXP_N8 (R267). -/
def execXexpN8 (g : Grd) (src : Src) (s : State) : Host.Outcome State Fault Refusal := xexpOp (.int 8 false) false g src s
/-- XEXP_I4 (R267). -/
def execXexpI4 (g : Grd) (src : Src) (s : State) : Host.Outcome State Fault Refusal := xexpOp (.int 4 true) false g src s
/-- XEXP_N4 (R267). -/
def execXexpN4 (g : Grd) (src : Src) (s : State) : Host.Outcome State Fault Refusal := xexpOp (.int 4 false) false g src s

/-- Byte `n` of a vector. -/
def VVal.byte (v : VVal) (n : Nat) : Nat := laneByte (v.l (n / 4)) (n % 4)
/-- d_b of a q4k block (R96). -/
def q4kD (s256 : Fp) (q : Nat) : Lane := rnd ((s256.mul (Fp.ofInt q)).scale (-8))
/-- The value of a q4k code (R96). -/
def q4kVal (d : Lane) (code : Nat) : Lane := rnd (((fp d).mul (Fp.ofInt (q4kLevel code))).scale (-11))

/-- XEXP_Q4K (R267, R96): the map is NONE. -/
def execXexpQ4k (g : Grd) (src : Src) (s : State) : Host.Outcome State Fault Refusal :=
  xfOp 2 2 g src (fun c b =>
    let w := (b.vl .xf 0).l 0
    let x := b.vl .xf 1
    let grp := fld w 2 0
    let base := 8 * fld w 4 3
    if w.toNat / 32 ≠ 0 || 1 < fld w 4 3 || 4 ≤ grp then b.trapAt c.slot 0x06
    else
      let s256 := f32.dec ((List.range 4).foldr (fun i a => x.byte (base + 132 + i) + 256 * a) 0)
      let d := q4kD s256 (x.byte (base + 128 + grp))
      b.emit c .xfr 8 MapD.none (fun l => q4kVal d (x.byte (base + 32 * grp + l / 2) / 16 ^ (l % 2) % 16)) noTg) s

/-! ### xqnt (R268, R97, R98, R100) -/

/-- `xqnt` to an MX format. -/
def xqntOp (k : MxT) (b128ok : Bool) (g : Grd) (src : Src) (s : State) : Host.Outcome State Fault Refusal :=
  xfOp 3 2 g src (fun c b =>
    let w := (b.vl .xf 0).l 0
    let x := b.vl .xf 1
    let y := b.vl .xf 2
    let t := c.pre.t
    let lin := fun (v : VVal) (l : Nat) => v.map.lin (t.store v.map) l
    if w.toNat / 2 ≠ 0 || (bit w 0 && !b128ok) then b.trapAt c.slot 0x06
    else
      let vals := fun (v : VVal) (l n : Nat) => (List.range n).map fun i => fp (v.l (l + i))
      let (codes, scales, sat) :=
        if bit w 0 then
          let (e, cs, sat) := t.mxBlock k (fun i => if i < 64 then lin x i else lin y (i - 64)) (vals x 0 64 ++ vals y 0 64)
          (cs, [e], sat)
        else
          let (e0, c0, s0) := t.mxBlock k (lin y) (vals y 0 32)
          let (e1, c1, s1) := t.mxBlock k (fun i => lin y (32 + i)) (vals y 32 32)
          (c0 ++ c1, [e0, e1], s0 || s1)
      let (m, lost) := if bit w 0 then (MapD.none, false) else y.map.pack (32 / k.wd)
      let arr := codes.toArray
      let b := (b.status false sat lost).emit c .xfr 7 m (packLane k.wd codes.length fun e => arr.getD e 0) noTg
      b.emit c .xfrx 7 MapD.none (fun l => if l = 0 then BitVec.ofNat 32 (scales.getD 0 0 + 256 * scales.getD 1 0) else 0) noTg) s

/-- XQNT_E4M3 (R268). -/
def execXqntE4m3 (g : Grd) (src : Src) (s : State) : Host.Outcome State Fault Refusal := xqntOp (.flt e4m3 8 8) true g src s
/-- XQNT_E5M2 (R268). -/
def execXqntE5m2 (g : Grd) (src : Src) (s : State) : Host.Outcome State Fault Refusal := xqntOp (.flt e5m2 8 15) false g src s
/-- XQNT_E2M3 (R268). -/
def execXqntE2m3 (g : Grd) (src : Src) (s : State) : Host.Outcome State Fault Refusal := xqntOp (.flt e2m3 8 2) false g src s
/-- XQNT_E3M2 (R268). -/
def execXqntE3m2 (g : Grd) (src : Src) (s : State) : Host.Outcome State Fault Refusal := xqntOp (.flt e3m2 8 4) false g src s
/-- XQNT_E2M1 (R268). -/
def execXqntE2m1 (g : Grd) (src : Src) (s : State) : Host.Outcome State Fault Refusal := xqntOp (.flt e2m1 4 2) false g src s
/-- XQNT_I8 (R268). -/
def execXqntI8 (g : Grd) (src : Src) (s : State) : Host.Outcome State Fault Refusal := xqntOp .i8 false g src s

/-- The mantissa of a finite value at exponent `k`. -/
def mantAt (x : Fp) (k : Int) : Int := match x with | .fin n m e => alignTo n m e k | _ => 0
/-- The exponent of a finite value. -/
def expOf (x : Fp) : Int := match x with | .fin _ _ e => e | _ => 0

/-- ceil(256 · m_b / S256), at most 255 (R97 step 3). -/
def q4kScale (mb s256 : Fp) : Nat :=
  if mb.isZero then 0
  else
    let k := min (expOf mb) (expOf s256)
    min 255 ((256 * mantAt mb k + mantAt s256 k - 1) / mantAt s256 k).toNat

/-- The code whose level is nearest to x / d_b; a tie goes to the smaller magnitude (R97 step 4). Zero lies midway between the
levels −86 and 86 of codes 7 and 8, whose magnitudes are equal, and R97 names neither: it takes code `z` (assumption 8). -/
def q4kCode (z : Nat) (x : Fp) (d : Lane) : Nat :=
  match x with
  | .inf n => if n then 0 else 15
  | _ =>
    if (fp d).isZero then 8
    else
      let k := min (expOf x) (expOf (fp d))
      let X := mantAt x k * 2048
      let D := mantAt (fp d) k
      let dist := fun (c : Nat) => (X - q4kLevel c * D).natAbs
      (List.range 16).foldl (fun acc c =>
        if dist c < dist acc || (dist c = dist acc && (q4kLevel c).natAbs < (q4kLevel acc).natAbs) then c else acc) z

/-- Code 7 or 8, the spec's open tie for a zero of a block with d_b ≠ 0: the device's choice. -/
def q4kTie (n : Nat) : Nat := 7 + Config.freeChoice n % 2

/-- Quantisation of 256 inputs to a q4k group (R97): its 136 bytes as numbers, and whether a NaN or an infinity was met. Zero
`k` of the inputs takes code `q4kTie (n + k)`. -/
def q4kGroup (n : Nat) (xs : List Fp) : List Nat × Bool × Bool :=
  let le4 := fun (x : Nat) => [x % 256, x / 256 % 256, x / 65536 % 256, x / 16777216 % 256]
  if xs.any Fp.isNan then (List.replicate 128 0x88 ++ [0, 0, 0, 0] ++ le4 0x7FC00000, true, false)
  else
    let s256 := maxFinite xs
    let blocks := (List.range 4).map fun i => (xs.drop (64 * i)).take 64
    let qs := blocks.map fun bl => q4kScale (maxFinite bl) s256
    let codes := ((blocks.zip qs).zipIdx).flatMap fun e =>
      let d := q4kD s256 e.1.2
      e.1.1.zipIdx.map fun x => q4kCode (q4kTie (n + 64 * e.2 + x.2)) x.1 d
    let arr := codes.toArray
    ((List.range 128).map (fun i => arr.getD (2 * i) 0 + 16 * arr.getD (2 * i + 1) 0) ++ qs ++ le4 (rnd s256).toNat, false,
     xs.any fun x => match x with | .inf _ => true | _ => false)

/-- XQNT_Q4K (R268): PART 0 stages elements 0–127, PART 1 quantises the 256. -/
def execXqntQ4k (g : Grd) (src : Src) (s : State) : Host.Outcome State Fault Refusal :=
  xfOp 3 8 g src (fun c b =>
    let w := (b.vl .xf 0).l 0
    let x := b.vl .xf 1
    let y := b.vl .xf 2
    if w.toNat / 2 ≠ 0 then b.trapAt c.slot 0x06
    else if !bit w 0 then b.modSt fun st => { st with stage := #v[x.lanes, y.lanes] }
    else
      let st := c.pre.st.stage
      let (bs, nan, inf) := q4kGroup c.pre.dev.free (([st[0], st[1], x.lanes, y.lanes].flatMap fun v => v.toList).map fp)
      let arr := bs.toArray
      let b := (b.modD fun d => { d with free := d.free + 256 }).modSt fun st => { st with stage := Strm.zero.stage }
      (b.status nan inf false).emit c .xfr 7 MapD.none (packLane 8 136 fun e => arr.getD e 0) noTg) s

/-! ### xtrn (R269) -/

/-- The exchange of the first two entries' dimensions, when the counts fit. -/
def MapD.transposed (m : MapD) (c0 c1 : Nat) : Option MapD :=
  if m.st = .affine && 2 ≤ m.nmov.toNat && (nth m.mov 0).cnt.toNat = c0 && (nth m.mov 1).cnt.toNat = c1 then some (m.swapDims 0 1)
  else .none
/-- A map with the origin of a dimension advanced. -/
def MapD.advance (m : MapD) (d : Nat) (x : Lane) : MapD := if d < 14 then { m with org := setNth m.org d (nth m.org d + x) } else m

/-- XTRN_N8 (R269): 16 × 16 bytes. -/
def execXtrnN8 (g : Grd) (src : Src) (s : State) : Host.Outcome State Fault Refusal :=
  xfOp 1 4 g src (fun c b =>
    let x := b.vl .xf 0
    let (m, lost) := match x.map.transposed 4 16 with | some m => (m, false) | none => x.map.elseLost
    (b.lost lost).emit c .xfr 9 m (packLane 8 256 fun e => x.byte (16 * (e % 16) + e / 16)) noTg) s
/-- XTRN_N32 (R269): 8 × 8 lanes. -/
def execXtrnN32 (g : Grd) (src : Src) (s : State) : Host.Outcome State Fault Refusal :=
  xfOp 1 4 g src (fun c b =>
    let x := b.vl .xf 0
    let from_ := fun (l : Nat) => 8 * (l % 8) + l / 8
    let (m, lost) := match x.map.transposed 8 8 with | some m => (m, false) | none => x.map.elseLost
    (b.lost lost).emit c .xfr 9 m (fun l => x.l (from_ l)) (fun k l => x.tgl k (from_ l))) s

/-- The 16-bit half `e` of a lane function. -/
def halfOf (f : Nat → Lane) (e : Nat) : Nat := fld (f (e / 2)) (16 * (e % 2) + 15) (16 * (e % 2))
/-- The 16-bit half `e` of two vectors laid end to end. -/
def halfOf2 (f h : Nat → Lane) (e : Nat) : Nat := if e < 128 then halfOf f e else halfOf h (e - 128)

/-- XTRN_N16 (R269): 16 × 16 halves of o1 and o2. -/
def execXtrnN16 (g : Grd) (src : Src) (s : State) : Host.Outcome State Fault Refusal :=
  xfOp 2 4 g src (fun c b =>
    let x := b.vl .xf 0
    let y := b.vl .xf 1
    let from_ := fun (e : Nat) => 16 * (e % 16) + e / 16
    let (m, mx, lost) : MapD × MapD × Bool :=
      match x.map.transposed 8 8 with
      | some m =>
        if y.map.same (x.map.advance (nth x.map.mov 1).dim.toNat 8) then (m, m.advance (nth x.map.mov 0).dim.toNat 8, false)
        else let (m, lost) := mapPair x.map y.map; (m, m, lost)
      | none => let (m, lost) := mapPair x.map y.map; (m, m, lost)
    let el := fun (o : Nat) => packLane 16 128 fun e => halfOf2 x.l y.l (from_ (o + e))
    let tg := fun (o : Nat) (k : Nat) => packLane 16 128 fun e => halfOf2 (x.tgl k) (y.tgl k) (from_ (o + e))
    ((b.lost lost).emit c .xfr 9 m (el 0) (tg 0)).emit c .xfrx 9 mx (el 128) (tg 128)) s

/-! ### xzip and xunz (R270) -/

/-- Two results made of elements of two operands: result element `e` is element `from_ e` of o1 followed by o2. `wd` bits each. -/
def zipOp (wd : Nat) (from_ : Nat → Nat) (g : Grd) (src : Src) (s : State) : Host.Outcome State Fault Refusal :=
  xfOp 2 2 g src (fun c b =>
    let x := b.vl .xf 0
    let y := b.vl .xf 1
    let n := 64 * (32 / wd)
    let (m, lost) := mapPair x.map y.map
    let el := fun (f h : Nat → Lane) (e : Nat) =>
      let per := 32 / wd
      let at_ := fun (f : Nat → Lane) (e : Nat) => fld (f (e / per)) (wd * (e % per) + wd - 1) (wd * (e % per))
      if e < n then at_ f e else at_ h (e - n)
    let val := fun (o : Nat) => packLane wd n fun e => el x.l y.l (from_ (o + e))
    let tg := fun (o : Nat) => if wd = 16 then fun k => packLane wd n fun e => el (x.tgl k) (y.tgl k) (from_ (o + e)) else noTg
    ((b.lost lost).emit c .xfr 8 m (val 0) (tg 0)).emit c .xfrx 8 m (val n) (tg n)) s

/-- Interleaving: even result elements from o1, odd ones from o2, of `n` elements each. -/
def zipFrom (n e : Nat) : Nat := if e % 2 = 0 then e / 2 else n + e / 2
/-- The inverse: the even elements first, then the odd ones. -/
def unzFrom (n e : Nat) : Nat := if e < n then 2 * e else 2 * (e - n) + 1

/-- XZIP_N8 (R270). -/
def execXzipN8 (g : Grd) (src : Src) (s : State) : Host.Outcome State Fault Refusal := zipOp 8 (zipFrom 256) g src s
/-- XZIP_N16 (R270). -/
def execXzipN16 (g : Grd) (src : Src) (s : State) : Host.Outcome State Fault Refusal := zipOp 16 (zipFrom 128) g src s
/-- XUNZ_N8 (R270). -/
def execXunzN8 (g : Grd) (src : Src) (s : State) : Host.Outcome State Fault Refusal := zipOp 8 (unzFrom 256) g src s
/-- XUNZ_N16 (R270). -/
def execXunzN16 (g : Grd) (src : Src) (s : State) : Host.Outcome State Fault Refusal := zipOp 16 (unzFrom 128) g src s

end Sys2Proof.Machine
end

