-- ==== Sys2Proof/Machine/EngineSteps.lean ====
section
/-! DEFINITION. The engines at work (R272–R291, R359, R370, R379): a command starts, its segments move, its signals follow; winders;
exchange rows; collective instances. -/

namespace Sys2Proof.Machine

/-! ### Commands -/

/-- A command by number. -/
def Dev.cmd? (d : Dev) (id : Nat) : Option Cmd := d.cmds.find? fun c => c.id = id
/-- Replace a command. -/
def Dev.setCmd (d : Dev) (c : Cmd) : Dev := { d with cmds := d.cmds.map fun x => if x.id = c.id then c else x }
/-- The engines of the core's die run: its clocks are not stopped (R391). -/
def Mach.enginesRun (m : Mach) : Bool := (nth m.dev.pwr m.core.die).tripped.isNone

/-- The counted bytes of a segment (Table 12-2). -/
def CmdK.counted (k : CmdK) (seg : Nat) : Nat :=
  match k with
  | .copy _ _ _ _ cnt _ _ => min 4096 (cnt.foldl (· * ·) 1 - 4096 * seg)
  | .gath _ _ _ n _ => n
  | .scat _ _ _ n => n
  | .kvg _ _ _ n _ => n
  | .cmpx _ _ _ _ _ => 256
  | .xchg _ _ ne _ _ _ _ _ => xrowBytes ne
  | .prefh _ _ _ => 65536
  | .migr _ _ _ => 65536
  | _ => 0

/-- The completion signals after the last count-down (R273): an arrival, then the flag; the command is over. -/
def Mach.signal (m : Mach) (c : Cmd) : Mach :=
  let m := m.modD fun d => { d with cmds := d.cmds.filter fun x => x.id ≠ c.id
                                    retryAt := d.retryAt.filter fun e => e.1 ≠ c.id }
  let m := match c.sig.ms with
    | some a => if c.sig.arv then m.msCountV c.owner c.asid a 0 1 else m
    | none => m
  m.flagCmd c
/-- Count bytes down at a command's milestone. -/
def Mach.countCmd (m : Mach) (c : Cmd) (n : Nat) : Mach :=
  match c.sig.ms with | some a => if n = 0 then m else m.msCountV c.owner c.asid a n 0 | none => m
/-- A segment is over: it counts `n` bytes, and the signals follow when it is the last (R273). -/
def Mach.segOver (m : Mach) (id seg n : Nat) : Mach :=
  match m.dev.cmd? id with
  | none => m
  | some c =>
    let c := { c with done := insertNat seg c.done }
    let m := (m.modD fun d => { d.setCmd c with retryAt := d.retryAt.filter fun e => !(e.1 = id && e.2.1 = seg) }).countCmd c n
    if c.kind.segs ≤ c.done.length then m.signal c else m

/-- A translation fault of an engine (R359): the milestone is poisoned with DATA, and the command's first fault is recorded. The
address of a block table entry is carried with bit 63 set. -/
def Mach.xlatee (m : Mach) (id : Nat) (dva : Word) : Mach :=
  match m.dev.cmd? id with
  | none => m
  | some c =>
    let m := m.poisonCmd c 7
    if c.xfault then m
    else m.modD fun d => (d.setCmd { c with xfault := true }).record m.core.die
      { Rec0.plain 1 0x42 with addr := zx dva 63, tid := c.own.tid, asid := c.asid.toNat }

/-- A segment answered retry-later (R153): it is tried again after 1,024 H-cycles of its die, which are 2,048 A-cycles (R16). -/
def Mach.retryLater (m : Mach) (id seg : Nat) (asid : BitVec 16) (dva : Word) : Mach :=
  m.modD fun d => { d.waitPage asid dva with
    retryAt := (d.retryAt.filter fun e => !(e.1 = id && e.2.1 = seg)) ++ [(id, seg, BitVec.ofNat 64 (d.acyc + 2048))] }
/-- A segment waits for its retry. -/
def Dev.retrying (d : Dev) (id seg : Nat) : Bool := d.retryAt.any fun e => e.1 = id && e.2.1 = seg

/-! ### Segments of copies and gathers (R279–R282) -/

/-- The granules into which pieces of a command that have not landed write. -/
def Cmd.remain (c : Cmd) : List Nat :=
  ((List.range c.kind.segs).filter fun k => !c.done.contains k).flatMap fun k => granulesOf (c.left k)
/-- Pieces of a command land, `c` being the command after it: the granules whose last byte they bring become full (R133). -/
def Mach.land (m : Mach) (c : Cmd) (mv : List (MoveSide × MoveSide × Nat)) : Mach :=
  let rest := c.remain
  (m.doMoves c mv).engFull c.own ((granulesOf mv).filter fun g => !rest.contains g)
/-- The pages that moves touch are kept in the translation buffer (R151). -/
def Mach.learnMoves (m : Mach) (c : Cmd) (mv : List (MoveSide × MoveSide × Nat)) : Mach :=
  mv.foldl (fun m x =>
    let side := fun (m : Mach) (y : MoveSide) => match y with
      | .mem a => (pieces a.toNat x.2.2 0x10000).foldl (fun (m : Mach) (p : Nat × Nat) => m.learn c.asid (BitVec.ofNat 64 p.1)) m
      | _ => m
    side (side m x.1) x.2.1) m

/-! ### Compression (R138, R283) -/

/-- A block that compression does not fit into its space takes an overflow entry and leaves a marker; `none` while it waits for an entry. -/
def Mach.overflow (m : Mach) (c : Cmd) (seg : Nat) (raw : List Byte × Bool) : Option Mach :=
  let cl := m.core.cluster
  let used := (nth m.dev.ovf cl).map fun e => e.1
  match (List.range 1024).find? fun i => !used.contains i with
  | none => none
  | some i =>
    let m := m.modD fun d => { d with ovf := setNth d.ovf cl (nth d.ovf cl ++ [(i, raw.1)]) }
    match c.kind with
    | .cmpx _ _ _ _ size => some ((m.putBlock c seg (padTo (marker i) size, raw.2) (c.kind.moves seg)).engStat c.own 8)
    | _ => none
/-- An expansion that has landed frees the overflow entry that its block's marker names. -/
def Mach.freeEntry (m : Mach) (bs : List Byte) : Mach :=
  let cl := m.core.cluster
  if bs.take 32 = List.replicate 32 0xFF then
    m.modD fun d => { d with ovf := setNth d.ovf cl ((nth d.ovf cl).filter fun x => x.1 ≠ leNat ((bs.drop 32).take 4)) }
  else m
/-- A marker that names no live entry is an uncorrectable error that its retry does not clear (R372): the block's granules are poisoned. -/
def Mach.deadMarker (m : Mach) (c : Cmd) (seg co : Nat) : Mach :=
  let n := m.dev.free
  let m := m.modD fun d => { d with free := d.free + 256 }.lasting m.core.die 0 (BitVec.ofNat 64 (m.core.cluster * 2 ^ 32 + co))
  m.putBlock c seg ((List.range 256).map fun k => Config.freeByte (n + k), true) (c.kind.moves seg)
/-- The block of a segment is compressed or expanded, as far as its granules have not landed (R165); `none` while it waits. -/
def Mach.doBlock (m : Mach) (c : Cmd) (seg : Nat) : Option Mach :=
  match c.kind with
  | .cmpx exp _ co _ size =>
    let z := co + size * seg
    let raw := Mem.readN (nth m.dev.csram m.core.cluster) z size
    (match m.cmpBlock c seg with
    | (.ok bs, m) => some (let m := m.putBlock c seg bs (c.left seg); if exp then m.freeEntry raw else m)
    | (.error r, m) => if exp then some (m.deadMarker c seg z) else m.overflow c seg r)
  | _ => none

/-! ### A segment (R273, R279, R359) -/

/-- A page of a `prefh` or `migr` is in place: resident, not leaving, in the tier asked for (R290). -/
def Mach.pagePlace (m : Mach) (c : Cmd) (dva : Word) (tier2 : Bool) : WalkR × Bool :=
  let r := m.dev.walk c.asid dva false false
  (r, match r with | .ok pa _ _ => (0x200000000000 ≤ pa) == tier2 | _ => false)

/-- The bytes of a segment whose checksum failed: those that have landed stay, and which they are is open (R379). -/
def Mach.garble (m : Mach) (c : Cmd) (mv : List (MoveSide × MoveSide × Nat)) : Mach :=
  mv.foldl (fun m x =>
    let n := m.dev.free
    (m.modD fun d => { d with free := d.free + x.2.2 }).writeSide c x.2.1 ((List.range x.2.2).map fun i => Config.freeByte (n + i)) []) m

/-- The region a command belongs to is open (R375). -/
def Thr.regionOf (t : Thr) (seq : Nat) : Bool := t.regions.any fun r => r.pos ≤ seq

/-- The record of a copy segment that failed once or twice (R373, R379): the address of the segment's first destination byte, where that lies in
memory, and the thread. -/
def Mach.segRec (m : Mach) (c : Cmd) (seg cls : Nat) : Mach :=
  let addr := match (c.kind.moves seg).head? with
    | some (_, .mem a, _) => (match m.dev.engRange c.asid a 1 true with | .ok (p :: _) => p.1 | _ => 0)
    | some (_, .cs o, _) => m.core.cluster * 2 ^ 32 + o
    | some (_, .spad o, _) => m.core.num * 2 ^ 32 + o
    | _ => 0
  m.modD fun d => Dev.record { d with free := d.free + 1 } m.core.die
    { Rec0.plain cls 0x82 with
      level := 4, addr := BitVec.ofNat 64 addr, tid := c.own.tid, asid := c.asid.toNat
      place := 2 * m.core.num + (match c.pl with | .p0 => 0 | .p1 => 1), second := Config.freeChoice d.free }
/-- What the second checksum failure of a segment does (R379): a saved thread unwinds once it is restored. -/
def Mach.checksum (m : Mach) (c : Cmd) (seg : Nat) : Mach :=
  let m := (c.kind.moves seg).foldl (fun m x => match x.2.1 with
    | .spad off => m.poisonSpad c.own off x.2.2
    | .cs off => m.modD fun d => d.poisonCs m.core.cluster off x.2.2
    | .mem dva => match m.dev.engRange c.asid dva x.2.2 true with
      | .ok ps => m.modD fun d => ps.foldl (fun d p => d.poisonPa p.1 p.2) d
      | _ => m
    | .imm _ => m) m
  let m := m.poisonCmd c 5
  let m := (m.modD fun d => d.count m.core.die 7).segRec c seg 3
  match m.thrOf c.own with
  | some t => if t.regionOf c.seq then m.modRef c.own fun t => { t with unw := t.unw ++ [⟨0x82, 0, some c.seq, 0, t.time⟩] } else m
  | none => m.modD fun d => { d with saved := d.saved.map fun s =>
      if s.ref = c.own then { s with unw := s.unw ++ [⟨0x82, 0, some c.seq, 0, s.keep.time⟩] } else s }

/-- A page of a `migr` is asked for by another command whose request reached the migration engine earlier (R361). -/
def Dev.migrBefore (d : Dev) (c : Cmd) (va : Nat) : Bool :=
  d.cmds.any fun x => x.started && x.asid = c.asid && (x.sentAt < c.sentAt || (x.sentAt = c.sentAt && x.id < c.id)) &&
    (match x.kind with
      | .migr a n _ => a.toNat ≤ va && va < a.toNat + 65536 * n && !x.done.contains ((va - a.toNat) / 65536)
      | _ => false)
/-- A segment that makes moves: it moves nothing while a page or a stopped die holds it back, and no byte of it moves where its translation faults;
else `k` goes on. -/
def Mach.moving (m : Mach) (c : Cmd) (seg : Nat) (mv : List (MoveSide × MoveSide × Nat)) (k : Mach → Mach) : Mach :=
  match m.movesRange c mv with
  | .fault a => (m.xlatee c.id a).segOver c.id seg 0
  | .absent a => m.retryLater c.id seg c.asid a
  | .ok _ => if m.sidesStop c mv then m else k (m.learnMoves c mv)

/-- Try a segment: `ok` is the verdict of the writer's checksum on a copy, `again` says that it is the resent one. -/
def Mach.trySeg (m : Mach) (c : Cmd) (seg : Nat) (ok again : Bool) : Mach :=
  match c.kind with
  | .cmpx _ _ _ _ _ =>
    m.moving c seg (c.kind.moves seg) fun m => match m.doBlock c seg with
      | some m => m.segOver c.id seg 256
      | none => m
  | .prefh dva _ _ => match m.pagePlace c (dva + BitVec.ofNat 64 (65536 * seg)) false with
    | (.fault, _) => (m.xlatee c.id (dva + BitVec.ofNat 64 (65536 * seg))).segOver c.id seg 0
    | (_, true) => m.segOver c.id seg 65536
    | _ => m
  | .migr dva _ tier => match m.pagePlace c (dva + BitVec.ofNat 64 (65536 * seg)) tier with
    | (.fault, _) => (m.xlatee c.id (dva + BitVec.ofNat 64 (65536 * seg))).segOver c.id seg 0
    | (_, true) => if m.dev.migrBefore c (dva.toNat + 65536 * seg) then m else m.segOver c.id seg 65536
    | _ => m
  | .copy _ _ _ _ _ _ _ =>
    m.moving c seg (c.kind.moves seg) fun m =>
      let mv := c.left seg
      if ok then
        let m := if again then (m.modD fun d => d.count m.core.die 6).segRec c seg 2 else m
        (m.land { c with done := insertNat seg c.done } mv).segOver c.id seg (c.kind.counted seg)
      else
        let m := m.garble c mv
        if again then (m.checksum c seg).segOver c.id seg 0
        else m.modD fun d => d.setCmd { c with failed := insertNat seg c.failed, early := c.early.filter fun e => e.1 ≠ seg }
  | .gath _ _ _ _ _ | .scat _ _ _ _ | .kvg _ _ _ _ _ =>
    m.moving c seg (c.kind.moves seg) fun m =>
      (m.land { c with done := insertNat seg c.done } (c.left seg)).segOver c.id seg (c.kind.counted seg)
  | _ => m

/-- Some granules of a segment in motion land before the others (R165): `ps` are their places among the segment's pieces. -/
def Mach.landEarly (m : Mach) (c : Cmd) (seg : Nat) (ps : List Nat) : Mach :=
  let (mv, c') := c.takeEarly seg (c.kind.moves seg) ps
  m.moving c seg (c.kind.moves seg) fun m =>
    match c.kind with
    | .cmpx _ _ _ _ _ => (match m.cmpBlock c seg with
      | (.ok bs, m) => (m.modD fun d => d.setCmd c').putBlock c seg bs mv
      | (.error _, m) => m)
    | _ => (m.modD fun d => d.setCmd c').land c' mv

/-- Every earlier command of the place has signalled (R291). -/
def Mach.earlierDone (m : Mach) (c : Cmd) : Bool :=
  !(m.dev.cmds.any fun x => x.pl = c.pl && x.id < c.id) && !(m.dev.later.any fun x => x.own = some c.own && x.seq < c.seq) &&
  (match m.thrOf c.own with
    | some t => !(t.hops.any fun h => h.seq < c.seq && h.op.queued)
    | none => true)

/-! ### Packets that leave over Twine (R15, R384) -/

/-- The bytes a packet carries. -/
def pktSize : TPkt → Nat
  | .write _ bs _ => bs.length
  | .reply bs _ => bs.length
  | .row _ _ bs _ _ _ => bs.length
  | .coll _ _ _ _ _ _ _ bs _ => bs.length
  | .collOut _ _ bs _ => bs.length
  | _ => 0
/-- The flits of 256 bytes that a packet takes: one for each 256 bytes it carries, and at least one (DESIGN CHOICE). -/
def pktFlits (p : TPkt) : Nat := max 1 ((pktSize p + 255) / 256)
/-- The ports of Twine that run. -/
def Dev.running (d : Dev) : List Nat := (List.range 24).filter fun k => (nth d.ports k).lanes ≠ 0 && !(nth d.ports k).retrain
/-- A port's replay buffer of 4,096 flits has room for a packet. -/
def Port.fits (p : Port) (pkt : TPkt) : Bool := (p.unack.map fun u => u.2.1).foldl (· + ·) 0 + pktFlits pkt ≤ 4096
/-- A packet leaves by one of some ports, of the device's choice, with the live generation of its endpoint, and stays in the port's replay buffer. -/
def Dev.leave (d : Dev) (ports : List Nat) (die dev : Nat) (pkt : TPkt) : Dev :=
  let n := pktFlits pkt
  let s : Sent := ⟨dev, die, nth d.egen die, d.acyc, 0, pkt⟩
  let (k, d) := d.choose (max ports.length 1)
  let d := { d with outbox := d.outbox ++ [s] }
  match ports[k]? with
  | none => d
  | some q =>
    let p := nth d.ports q
    let p := { p with sseq := p.sseq + BitVec.ofNat 12 n, unack := p.unack ++ [(p.sseq + BitVec.ofNat 12 (n - 1), n, s)] }
    { d with ports := setNth d.ports q p }
/-- A packet leaves by a port with room for it; `none` while no port has. -/
def Dev.send (d : Dev) (die dev : Nat) (pkt : TPkt) : Option Dev :=
  let fits := d.running.filter fun k => (nth d.ports k).fits pkt
  if fits.isEmpty then none else some (d.leave fits die dev pkt)
/-- A packet that its maker does not wait for: it leaves at once, or behind those that wait for room. -/
def Dev.post (d : Dev) (die dev : Nat) (pkt : TPkt) : Dev :=
  let later := { d with waitOut := d.waitOut ++ [(die, dev, pkt)] }
  if d.waitOut.isEmpty then (d.send die dev pkt).getD later else later
/-- Packets that wait for room leave, in order, while there is some. -/
def Dev.flush (d : Dev) : List (Nat × Nat × TPkt) → Dev
  | [] => { d with waitOut := [] }
  | x :: xs => match d.send x.1 x.2.1 x.2.2 with
    | some d => d.flush xs
    | none => { d with waitOut := x :: xs }

/-! ### Exchange rows (R284, R285) -/

/-- The device that an exchange names. -/
def CmdK.ddev : CmdK → Nat
  | .xchg _ _ _ d _ _ _ _ => d % 4096
  | _ => 0
/-- Read and quantise a row at the source, once (R285): its blocks with their poisoned ranges. `none` when a page or a stopped die holds it back. -/
def Mach.quantRow (m : Mach) (c : Cmd) (row : Nat) : Option (List Byte × Bad) × Mach :=
  match c.rows.find? fun e => e.1 = row with
  | some e => (some e.2, m)
  | none => match c.kind with
    | .xchg b16 rows ne _ _ _ _ _ =>
      let w := if b16 then 2 else 4
      let src := MoveSide.mem (rows.getD row 0)
      match m.movesRange c [(src, .cs 0, ne * w)] with
      | .fault a => (none, (m.xlatee c.id a).segOver c.id row 0)
      | .absent a => (none, m.retryLater c.id row c.asid a)
      | .ok _ =>
        if m.sidesStop c [(src, .cs 0, ne * w)] then (none, m)
        else
          let (bs, bad, m) := (m.learnMoves c [(src, .cs 0, ne * w)]).readSide c src (ne * w)
          let (out, sat) := exchangeBlocks b16 ne bs
          let bad := rowBad ne w bad
          (some (out, bad), (m.engStat c.own (if sat then 2 else 0)).modD fun d => d.setCmd { c with rows := c.rows ++ [(row, out, bad)] })
    | _ => (none, m)

/-- The exchange engine may send a row: not over, not answered, not parked; a new one only while the lay-by queue is not full (R285). -/
def Mach.maySend (m : Mach) (c : Cmd) (row : Nat) : Bool :=
  c.started && row < c.kind.segs && !c.done.contains row && !c.failed.contains row && !c.ans.any (fun e => e.1 = row) &&
  !m.core.layby.any (fun e => e.cmd = c.id && e.row = row) && !m.dev.retrying c.id row &&
  (c.rows.any (fun e => e.1 = row) || m.core.layby.length < 256)

/-- The blocks of a row land in a cluster, and each counts down at the milestone of a space (R285). -/
def Mach.landRow (m : Mach) (dcl o : Nat) (bs : List Byte) (bad : Bad) (asid : BitVec 16) (dms : Word) : Mach :=
  let m := m.modD fun d => bad.foldl (fun d b => d.poisonCs dcl (o + b.1) b.2) (d.putCs dcl o bs false)
  if dms = 0 then m else (List.range (bs.length / 132)).foldl (fun m _ => m.msCountV none asid dms 132 0) m
/-- The count-down that a row makes at its destination milestone meets a translation fault (R359). -/
def Dev.dmsFault (d : Dev) (asid : BitVec 16) (dms : Word) : Bool :=
  dms ≠ 0 && (match d.xlate asid dms true with | .fault => true | _ => false)
/-- A row whose count-down faults: it moves no byte, and its command's milestone is poisoned (R359). -/
def Mach.rowFaults (m : Mach) (c : Cmd) (row : Nat) (dms : Word) : Mach :=
  let c' := { c with rows := c.rows.filter fun e => e.1 ≠ row }
  ((m.modD fun d => d.setCmd c').xlatee c.id dms).segOver c.id row 0
/-- A receiver answers retry-later: the page of a row's milestone is not in place (R285). -/
def Dev.dmsAbsent (d : Dev) (asid : BitVec 16) (dms : Word) : Bool :=
  dms ≠ 0 && (match d.xlate asid dms true with | .absent => true | _ => false)
/-- The cluster that a row goes to, or the home of its milestone, is on a die whose clocks are stopped: the row waits (R391). -/
def Dev.rowStops (d : Dev) (dcl : Nat) (asid : BitVec 16) (dms : Word) : Bool :=
  (dcl < 36 && (nth d.pwr (dcl / 9)).tripped.isSome) ||
    (dms ≠ 0 && (match d.xlate asid dms true with | .ok pa _ _ => d.stops pa 16 | _ => false))
/-- A row arrives at its destination on this device: it lands and counts down DMS, or is answered retry-later, or meets a translation fault. -/
def Mach.rowArrives (m : Mach) (c : Cmd) (row : Nat) (room : Bool) : Mach :=
  match c.kind with
  | .xchg _ _ _ _ dcl doff dstr dms =>
    if m.dev.rowStops dcl c.asid dms then m
    else match m.quantRow c row with
    | (none, m) => m
    | (some (bs, bad), m) => match m.dev.cmd? c.id with
      | none => m
      | some c =>
        if room && m.dev.dmsFault c.asid dms then m.rowFaults c row dms
        else if !room || m.dev.dmsAbsent c.asid dms then
          let m := if room then m.modD fun d => d.waitPage c.asid dms else m
          m.modD fun d => d.setCmd { c with ans := c.ans ++ [(row, false)] }
        else
          let m := m.modD fun d => d.setCmd { c with ans := c.ans ++ [(row, true)], rows := c.rows.filter fun e => e.1 ≠ row }
          m.landRow dcl (doff + row * dstr) bs bad c.asid dms
  | _ => m

/-- XCHG_ROW_ARRIVAL (R285). -/
def execXchgRowArrival (cmd row : Nat) (room : Bool) (s : State) : Host.Outcome State Fault Refusal :=
  event (fun m => match m.dev.cmd? cmd with
    | some c => if m.enginesRun && m.maySend c row && !c.kind.abroad then m.rowArrives c row room else m
    | none => m) s

/-- The receiver's answer for a row reaches the sender: the row is over, or parks in the lay-by queue of 256 rows, which an answer waits for (R285). -/
def Mach.rowAnswered (m : Mach) (c : Cmd) (row : Nat) (ack : Bool) : Mach :=
  let c' :=
    { c with
      ans := c.ans.filter fun e => e.1 ≠ row
      failed := c.failed.filter (· ≠ row)
      rows := c.rows.filter fun e => e.1 ≠ row
      sends := c.sends.filter fun e => e.1 ≠ row }
  if ack then (m.modD fun d => d.setCmd c').segOver c.id row (c.kind.counted row)
  else if 256 ≤ m.core.layby.length then m
  else match c.rows.find? fun e => e.1 = row with
    | some e => (m.modD fun d => d.setCmd c').modC fun k => { k with layby := k.layby ++ [⟨c.id, row, e.2.1, e.2.2, m.dev.acyc + 2048⟩] }
    | none => m.modD fun d => d.setCmd c'
/-- XCHG_ACKNOWLEDGEMENT (R285): the receiver's answer reaches the sender. -/
def execXchgAcknowledgement (cmd row : Nat) (ack : Bool) (s : State) : Host.Outcome State Fault Refusal :=
  event (fun m => match m.dev.cmd? cmd with
    | none => m
    | some c =>
      let due := if c.kind.abroad then c.failed.contains row else c.ans.contains (row, ack)
      if !m.enginesRun || !due then m else m.rowAnswered c row ack) s

/-- Send a row to another device: its blocks leave over Twine and are kept until they are answered. -/
def Mach.sendAbroad (m : Mach) (c : Cmd) (row : Nat) : Mach :=
  match c.kind with
  | .xchg _ _ _ ddev dcl doff dstr dms =>
    match m.quantRow c row with
    | (none, m) => m
    | (some (bs, bad), m) => match m.dev.cmd? c.id, m.dev.send m.core.die (ddev % 4096) (.row dcl (doff + row * dstr) bs bad c.asid dms) with
      | some c, some d => { m with dev := d.setCmd { c with failed := insertNat row c.failed, sends := (c.sends.filter fun e => e.1 ≠ row) ++ [(row, d.acyc, false)] } }
      | _, _ => m
  | _ => m

/-- A row without an answer is sent a second time, once a port has room (R386). -/
def Mach.resendRow (m : Mach) (c : Cmd) (row : Nat) : Mach :=
  let sent := m.sendAbroad c row
  match sent.dev.cmd? c.id with
  | some x =>
    if x.sends = c.sends then m
    else sent.modD fun d => d.setCmd { x with sends := x.sends.map fun e => if e.1 = row then (row, e.2.1, true) else e }
  | none => m

/-- XCHG_LAYBY_REPLAY (R285): the oldest parked row leaves the lay-by queue 1,024 H-cycles after parking and is on its way again, as it was
quantised. -/
def execXchgLaybyReplay (s : State) : Host.Outcome State Fault Refusal :=
  event (fun m => match m.core.layby with
    | e :: r =>
      if !m.enginesRun || m.dev.acyc < e.from_ then m
      else
        let m := m.modC fun k => { k with layby := r }
        match m.dev.cmd? e.cmd with
        | none => m
        | some c =>
          let c := { c with rows := c.rows ++ [(e.row, e.data, e.bad)] }
          let m := m.modD fun d => d.setCmd c
          if c.kind.abroad then m.sendAbroad c e.row else m
    | [] => m) s

/-- REQUEST_TIMEOUT (R386): a request has had no answer for 16,000,000 A-cycles. It is sent again once; then the device asked is treated as failed:
of an exchange's row the milestone is poisoned with DATA and the command's signals follow; a landing delivers poison, and its thread unwinds with LINK
where the value was due, and the read of a block table is its command's. A CLASS 3 record is written. -/
def execRequestTimeout (req : TwineReq) (s : State) : Host.Outcome State Fault Refusal :=
  event (fun m =>
    let late := fun (sent : Nat) => sent + 16000000 ≤ m.dev.acyc
    let failed := fun (m : Mach) (tid : BitVec 32) (asid : Nat) => m.modD fun d => Dev.record { d.count m.core.die 7 with free := d.free + 1 } m.core.die
      { Rec0.plain 3 0x83 with level := 3, tid := tid, asid := asid, second := Config.freeChoice d.free }
    match req with
    | .cmd id row => (match m.dev.cmd? id with
      | none => m
      | some c => match c.sends.find? fun e => e.1 = row with
        | none => m
        | some (_, sent, again) =>
          if !c.kind.abroad || !late sent then m
          else if !again then m.resendRow c row
          else (failed (m.poisonCmd c 7) c.own.tid c.asid.toNat).signal c)
    | .land pl k =>
      let a := m.at_ pl
      match a.t.land[k]? with
      | none => m
      | some l =>
        if l.data.isSome || !late l.sentAt then m
        else if !l.again then (a.modT fun t => { t with land := t.land.set k { l with again := true, sentAt := m.dev.acyc } }).at_ m.cur
        else
          let t := a.t
          let a := a.modT fun t => { t with land := t.land.eraseIdx k }
          let a := match l.dst with
            | .table id => (match a.dev.cmd? id with | some c => (a.poisonCmd c 7).signal c | none => a)
            | _ => a.modT fun t => { t with unw := t.unw ++ [⟨0x83, 0, none, 0, max l.due t.time⟩] }
          (failed a t.tid t.asid.toNat).at_ m.cur) s

/-! ### Collectives (R287, R288) -/

/-- The skein object at a physical address. -/
def Dev.skein? (d : Dev) (pa : Nat) : Option SkObj := d.skeins.find? fun k => k.pa = pa
/-- The number of a thread's device. -/
def TRef.device (r : TRef) : Nat := r.far.getD (Config.deviceNo % 4096)
/-- Threads in rank order: ascending device number, then ascending thread id (R287). -/
def insertRef (r : TRef) : List TRef → List TRef
  | [] => [r]
  | x :: xs =>
    if r.device < x.device || (r.device = x.device && (r.tid.toNat < x.tid.toNat || (r.tid = x.tid && r.launch < x.launch))) then r :: x :: xs
    else x :: insertRef r xs
/-- Replace a collective instance. -/
def Dev.setInst (d : Dev) (i : CollInst) : Dev :=
  { d with insts := d.insts.map fun x => if x.skein = i.skein && x.k = i.k then i else x }
/-- A participant's command, or its part from another device, has arrived. -/
def CollInst.has (i : CollInst) (r : TRef) : Bool := i.cmds.any (fun e => e.1 = r) || i.far.any fun e => e.1 = r
/-- The number of a member's next collective on a skein. -/
def SkObj.turn (k : SkObj) (r : TRef) : Nat := match k.collSeen.find? fun e => e.1 = r with | some e => e.2 | none => 0

/-- The `coll` of a member performs at the skein's home: the first of an instance arms it, a later one joins it; one that differs, or one too many,
poisons the instance (R287). `put` adds what arrives. -/
def Mach.collMeet (m : Mach) (pa : Nat) (k : SkObj) (r : TRef) (par : Nat × Nat × Nat × Nat) (put : CollInst → CollInst) : Mach :=
  let n := k.turn r
  let seen := (k.collSeen.filter fun e => e.1 ≠ r) ++ [(r, n + 1)]
  let m := m.modD fun d => { d with skeins := d.skeins.map fun x => if x.pa = pa then { x with collSeen := seen } else x }
  match m.dev.insts.find? fun i => i.skein = pa && i.k = n with
  | none => m.modD fun d => { d with insts := d.insts ++
      [put ⟨pa, n, k.members.length, k.members.foldl (fun l r => insertRef r l) [], par, [], [], false⟩] }
  | some i =>
    let bad := i.par ≠ par || !i.parts.contains r || i.has r
    m.modD fun d => d.setInst (put { i with poisoned := i.poisoned || bad })
/-- The command of a member of this device performs at the skein's home. -/
def Mach.collArrive (m : Mach) (c : Cmd) (pa : Nat) (k : SkObj) : Mach :=
  match c.kind with
  | .coll op red dt _ _ _ nb =>
    (m.modD fun d => d.setCmd { c with ans := [(0, true)] }).collMeet pa k c.own (op, red, dt, nb) fun i => { i with cmds := i.cmds ++ [(c.own, c.id)] }
  | _ => m

/-- A `coll` command that has started and not yet performed at the skein's home, the earliest of its member there: with the object it
names. -/
def Mach.collReady (m : Mach) (c : Cmd) : Option (Nat × SkObj) :=
  match c.kind with
  | .coll _ _ _ skn _ _ _ =>
    let first := !(m.dev.cmds.any fun x => x.own = c.own && x.seq < c.seq && x.ans.isEmpty && (match x.kind with
      | .coll _ _ _ s _ _ _ => s = skn | _ => false))
    if !c.started || !c.ans.isEmpty || !first then none
    else match m.dev.xlate c.asid skn false with
      | .ok pa _ _ => if m.dev.stops pa 64 then none else (m.dev.skein? pa).map fun k => (pa, k)
      | _ => none
  | _ => none

/-- COLL_INSTANCE_ARM (R287): the first command of an instance performs at the skein's home and fixes P. -/
def execCollInstanceArm (cmd : Nat) (s : State) : Host.Outcome State Fault Refusal :=
  event (fun m => match m.dev.cmd? cmd with
    | none => m
    | some c => match m.collReady c with
      | none => m
      | some (pa, k) => if m.dev.insts.any fun i => i.skein = pa && i.k = k.turn c.own then m else m.collArrive c pa k) s

/-- A counted member leaves a skein or ends before its command: its instances are poisoned (R287, R356). -/
def Dev.collLeave (d : Dev) (pa : Nat) (r : TRef) : Dev :=
  { d with insts := d.insts.filterMap fun i =>
      if i.skein = pa && i.parts.contains r && !i.has r then
        let i := { i with parts := i.parts.filter (· ≠ r), poisoned := true }
        if i.parts.isEmpty && i.cmds.isEmpty && i.far.isEmpty then none else some i
      else some i }

/-- The part of a participant in rank order. -/
inductive CollPart where
  | here (c : Cmd)
  | far (r : TRef) (bs : List Byte) (bad : Bool)
/-- The participants of an instance whose parts have all arrived, in rank order. -/
def Mach.collParts (m : Mach) (i : CollInst) : List CollPart :=
  i.parts.filterMap fun r => match i.far.find? fun e => e.1 = r with
    | some e => some (.far r e.2.1 e.2.2)
    | none => ((i.cmds.find? fun e => e.1 = r).bind fun e => m.dev.cmd? e.2).map .here
/-- The two ends of a command's buffers of an instance with P participants. -/
def Cmd.collEnds (c : Cmd) (p : Nat) : List (MoveSide × MoveSide × Nat) :=
  match c.kind with
  | .coll op _ _ _ sb rb nb => [(.mem sb, .imm [], (collSlices op p).1 * nb), (.imm [], .mem rb, (collSlices op p).2 * nb)]
  | _ => []
/-- The send buffers of an instance in rank order; one that does not translate gives free values. -/
def Mach.collBufs (m : Mach) (p : Nat) : List CollPart → List (List Byte × Bad) × Mach
  | [] => ([], m)
  | .far _ bs bad :: cs =>
    let (xs, m) := m.collBufs p cs
    ((bs, if bad then [(0, bs.length)] else []) :: xs, m)
  | .here c :: cs =>
    match c.kind with
    | .coll op _ _ _ sb _ nb =>
      let n := (collSlices op p).1 * nb
      let (x, m) : (List Byte × Bad) × Mach := match m.dev.engRange c.asid sb n false with
        | .ok _ => let (bs, bad, m) := (m.learnMoves c [(.mem sb, .imm [], n)]).readSide c (.mem sb) n; ((bs, bad), m)
        | .fault a => (((List.range n).map fun i => Config.freeByte (m.dev.free + i), []),
            (m.xlatee c.id a).modD fun d => { d with free := d.free + n })
        | .absent _ => (([], []), m)
      let (xs, m) := m.collBufs p cs
      (x :: xs, m)
    | _ => m.collBufs p cs

/-- Write a participant's result and make its signals, or send it to its device. -/
def Mach.collFinish (m : Mach) (x : CollPart) (out : List (List Byte × Bool)) : Mach :=
  let bs := out.flatMap fun x => x.1
  match x with
  | .far r _ _ => m.modD fun d => d.post m.core.die r.device (.collOut r.launch r.tid bs (out.any fun x => x.2))
  | .here c => match c.kind with
    | .coll _ _ _ _ _ rb nb => (match m.dev.engRange c.asid rb bs.length true with
      | .ok _ =>
        let bad := (out.zipIdx.filter fun x => x.1.2).map fun x => (x.2 * nb, nb)
        (((m.learnMoves c [(.imm [], .mem rb, bs.length)]).writeSide c (.mem rb) bs bad).countCmd c bs.length).signal c
      | .fault a => (m.xlatee c.id a).signal c
      | .absent _ => m.signal c)
    | _ => m
/-- A command of a poisoned instance ends: its milestone is poisoned with COLL, its own receive buffer is undefined, its flag is set (R287). -/
def Mach.collPoison (m : Mach) (p : Nat) (c : Cmd) : Mach :=
  match c.kind with
  | .coll op _ _ _ _ rb nb =>
    let n := (collSlices op p).2 * nb
    let f := m.dev.free
    let m := m.modD fun d => { d with free := d.free + n }
    ((m.poisonCmd c 6).writeSide c (.mem rb) ((List.range n).map fun k => Config.freeByte (f + k)) []).signal c
  | _ => m
/-- A buffer of a command waits: for a page, or for its retry (R153). -/
def Mach.collHeld (m : Mach) (p : Nat) (c : Cmd) : Option (Cmd × Word) :=
  match m.movesRange c (c.collEnds p) with | .absent a => some (c, a) | _ => none

/-- COLL_COMPLETE (R287, R288): every counted member's command has arrived, or the instance is poisoned: then the milestones of the
commands that have arrived are poisoned with COLL, their receive buffers are undefined, their flags are set, and the instance waits
for the commands that are still to come. -/
def execCollComplete (inst : Nat) (s : State) : Host.Outcome State Fault Refusal :=
  event (fun m => match m.dev.insts[inst]? with
    | none => m
    | some i =>
      let cmds := i.cmds.filterMap fun e => m.dev.cmd? e.2
      if cmds.any (fun c => m.dev.retrying c.id 0 || m.sidesStop c (c.collEnds i.p)) then m
      else match cmds.findSome? (m.collHeld i.p) with
        | some (c, a) => m.retryLater c.id 0 c.asid a
        | none =>
          if i.poisoned then
            let m := cmds.foldl (fun m c => m.collPoison i.p c) m
            let m := i.far.foldl (fun m e => m.modD fun d => d.post m.core.die e.1.device (.collOut e.1.launch e.1.tid [] true)) m
            let left := i.parts.filter fun r => !i.has r
            m.modD fun d => if left.isEmpty then { d with insts := d.insts.eraseIdx inst } else d.setInst { i with parts := left, cmds := [], far := [] }
          else if i.parts.any fun r => !i.has r then m
          else
            let ranked := m.collParts i
            let (bufs, m) := m.collBufs i.p ranked
            let m := ranked.zipIdx.foldl (fun m x =>
              m.collFinish x.1 (collResult i.par.1 i.par.2.1 i.par.2.2.1 i.par.2.2.2 x.2 bufs)) m
            m.modD fun d => { d with insts := d.insts.eraseIdx inst }) s

/-! ### The engines' steps -/

/-- The command that bound a spool at a queue position of its thread, if it is still to signal. -/
def Mach.windCmd (m : Mach) (r : TRef) (sp : Fin 16) (pos : Nat) : Option Cmd :=
  m.dev.cmds.find? fun c => c.own = r && c.kind = .wind sp && c.seq = pos

/-- The command that a winder's moves belong to: the one that bound or unbinds the spool, or one without signals. -/
def Mach.winderCmd (m : Mach) (pl : Place) (sp : Fin 16) (c : Option Cmd) : Cmd :=
  c.getD ⟨0, m.t.ref, m.t.asid, pl, 0, 0, .wind sp, ⟨none, false, none⟩, true, [], [], [], 0, false, [], [], []⟩
/-- A winder's command has not started, or waits for its retry (R153). -/
def Dev.windHeld (d : Dev) (c : Option Cmd) : Bool := match c with | some c => !c.started || d.retrying c.id 0 | none => false
/-- A winder meets a page that is not in place. -/
def Mach.windAbsent (m : Mach) (c : Option Cmd) (p : Word) : Mach :=
  match c with | some c => m.retryLater c.id 0 c.asid p | none => m.modD fun d => d.waitPage m.t.asid p

/-- The move with which the winder of a read spool fetches the next vector of the pattern into slot n mod NSLOT, if it may. -/
def Mach.fillMove (m : Mach) (sp : Fin 16) : Option (List (MoveSide × MoveSide × Nat)) :=
  let x := nth m.t.spools sp.val
  if !m.enginesRun || !m.t.live || !x.bound || x.dir || x.handle || m.dev.windHeld (m.windCmd m.t.ref sp x.pos) || x.total ≤ x.next.toNat ||
    x.nslot ≤ x.filled then none
  else (x.dva m.t x.next.toNat).map fun a => [(.mem a, .spad (x.slotOff x.next), 256)]
/-- Some granules of the next vector of a read spool land in its slot before the others (R165). -/
def Mach.fillEarly (m : Mach) (c : Cmd) (sp : Fin 16) (ps : List Nat) : Mach :=
  let a := m.at_ c.pl
  let x := nth a.t.spools sp.val
  match a.fillMove sp with
  | none => m
  | some mv =>
    if a.t.ref ≠ c.own || x.pos ≠ c.seq then m
    else
      let (new, c') := c.takeEarly x.next.toNat mv ps
      match a.movesRange c mv with
      | .ok _ => if a.sidesStop c mv then m
        else ((((a.learnMoves c mv).modD fun d => d.setCmd c').doMoves c new).engFull c.own (granulesOf new)).at_ m.cur
      | _ => m

/-- ENGINE_COMMAND_START (R272): the oldest queued command of a place starts once every access before it, and every write of its own
cycle, has performed or been bound (eo); an exchange while the lay-by queue is full does not (R285). Its reads use no copy that a performed write has
left behind (R167). One that moves no byte signals at once. -/
def execEngineCommandStart (pl : Place) (s : State) : Host.Outcome State Fault Refusal :=
  event (fun m => match m.dev.cmds.find? fun c => c.pl = pl && !c.started with
    | none => m
    | some c =>
      let held := match m.thrOf c.own with
        | some t => t.hops.any (fun h => h.time ≤ c.time) || t.land.any (fun l => l.issued < c.time && l.data.isNone) ||
            t.land.any (fun l => l.dst = .table c.id) || m.strayed c.own m.core.cyc
        | none => false
      let backed := match c.kind with | .xchg _ _ _ _ _ _ _ _ => 256 ≤ m.core.layby.length | _ => false
      if !m.enginesRun || held || backed then m
      else
        let c := { c with started := true, sentAt := m.dev.acyc }
        let m := m.modD fun d => (d.setCmd c).shun c.own m.core.die
        let none_ : Bool := match c.kind with
          | .unwindSp _ x => x.filled = 0
          | .copy _ _ _ _ _ _ _ => c.kind.segs = 0
          | _ => false
        if none_ then m.signal c else m) s

/-- ENGINE_SEGMENT_COMPLETE (R273): a segment of a started command moves, whole or, of a copy or gather, some of its granules before the others
(R165); a row leaves for another device, a collective command joins its instance, or a marker signals. -/
def execEngineSegmentComplete (cmd seg : Nat) (how : SegMove) (s : State) : Host.Outcome State Fault Refusal :=
  event (fun m => match m.dev.cmd? cmd with
    | none => m
    | some c =>
      let open_ := c.started && seg < c.kind.segs && !c.done.contains seg && !c.failed.contains seg && !m.dev.retrying cmd seg
      if !m.enginesRun || !open_ then m
      else match c.kind with
        | .enq => if m.earlierDone c then m.signal c else m
        | .coll _ _ _ skn _ _ _ => match m.collReady c with
          | some (pa, k) => if m.dev.insts.any fun i => i.skein = pa && i.k = k.turn c.own then m.collArrive c pa k else m
          | none => match m.dev.xlate c.asid skn false with
            | .fault => if c.ans.isEmpty then (m.xlatee cmd skn).signal c else m
            | .absent => if c.ans.isEmpty then m.retryLater cmd seg c.asid skn else m
            | .ok _ _ _ => m
        | .xchg _ _ _ _ _ _ _ _ => if c.kind.abroad && m.maySend c seg then m.sendAbroad c seg else m
        | .wind sp => match how with
          | .early ps => m.fillEarly c sp ps
          | .whole _ => m
        | _ => match how with
          | .early ps => m.landEarly c seg ps
          | .whole ok => m.trySeg c seg ok false) s

/-- A segment answered retry-later may be tried again; a row may be sent again, a winder go on, a collective's buffers be used. -/
def Mach.retry (m : Mach) (c : Cmd) (seg : Nat) : Mach :=
  (m.modD fun d => { d with retryAt := d.retryAt.filter fun x => !(x.1 = c.id && x.2.1 = seg) }).trySeg c seg true (c.failed.contains seg)

/-- SEGMENT_RESEND (R379): a failed segment is read and sent again once. -/
def execSegmentResend (cmd seg : Nat) (ok : Bool) (s : State) : Host.Outcome State Fault Refusal :=
  event (fun m => match m.dev.cmd? cmd with
    | none => m
    | some c =>
      let isCopy := match c.kind with | .copy _ _ _ _ _ _ _ => true | _ => false
      if m.enginesRun && isCopy && c.failed.contains seg && !c.done.contains seg &&
          !m.dev.retrying cmd seg then m.trySeg c seg ok true else m) s

/-! ### Winders (R275, R277) -/

/-- WINDER_FILL (R275): the winder of a read spool fetches the next vector of the pattern into slot n mod NSLOT. -/
def execWinderFill (pl : Place) (sp : Fin 16) (s : State) : Host.Outcome State Fault Refusal :=
  event (fun m0 =>
    let m := m0.at_ pl
    let t := m.t
    let x := nth t.spools sp.val
    let n := x.next.toNat
    let cmd := m.windCmd t.ref sp x.pos
    match m.fillMove sp with
    | none => m0
    | some mv =>
      let step := fun (m : Mach) => m.modT fun t => { t with spools := setNth t.spools sp.val { x with next := x.next + 1, wpos := x.wpos + 1 } }
      let last := fun (m : Mach) (c : Cmd) => if n + 1 = x.total then m.signal c else m
      let c := m.winderCmd pl sp cmd
      match m.movesRange c mv with
      | .absent p => (m.windAbsent cmd p).at_ m0.cur
      | .fault p => (match cmd with | some c => last ((step m).xlatee c.id p) c | none => step m).at_ m0.cur
      | .ok _ =>
        if m.sidesStop c mv then m0
        else
          let left := c.leftOf n mv
          let m := step (((m.learnMoves c mv).doMoves c left).engFull t.ref (granulesOf left))
          (match cmd with
            | some c => last ((m.modD fun d => d.setCmd { c with early := c.early.filter fun e => e.1 ≠ n }).countCmd c 256) c
            | none => m).at_ m0.cur) s

/-- The moves that write the vector of a write spool's read position to memory; a slot that `spadv` skipped is passed over (R276). -/
def Spool.drainMoves (x : Spool) (t : Thr) : List (MoveSide × MoveSide × Nat) :=
  if x.skip.contains x.rpos.toNat then []
  else match x.dva t x.rpos.toNat with
    | some a => [(.spad (x.slotOff x.rpos), .mem a, 256)]
    | none => []

/-- WINDER_DRAIN (R275, R277): the winder of a write spool writes its next filled slot to the pattern's address; after an `unwind`
the remaining slots are written before that command's signals. -/
def execWinderDrain (pl : Place) (sp : Fin 16) (s : State) : Host.Outcome State Fault Refusal :=
  event (fun m0 =>
    let m := m0.at_ pl
    let t := m.t
    let un := m.dev.cmds.find? fun c => c.own = t.ref && c.started && (match c.kind with | .unwindSp n _ => n = sp | _ => false)
    let x := match un with | some c => (match c.kind with | .unwindSp _ y => y | _ => Spool.zero) | none => nth t.spools sp.val
    let wc := m.windCmd t.ref sp x.pos
    if !m.enginesRun || !t.live || m.dev.windHeld wc || m.dev.windHeld un || !x.bound || !x.dir || x.handle || x.filled = 0 then m0
    else
      let c := m.winderCmd pl sp (un <|> wc)
      let n := x.rpos.toNat
      let y := { x with rpos := x.rpos + 1, next := x.rpos + 1, skip := x.skip.filter (· ≠ n) }
      let mv := x.drainMoves t
      let r := m.movesRange c mv
      match r with
      | .absent p => (m.windAbsent (un <|> wc) p).at_ m0.cur
      | _ =>
        if m.sidesStop c mv then m0
        else
          let bytes := match r with | .ok _ => 256 * mv.length | _ => 0
          let fault := fun (m : Mach) (c : Cmd) => match r with | .fault p => m.xlatee c.id p | _ => m
          let m := match r with | .ok _ => (m.learnMoves c mv).doMoves c mv | _ => m
          let m := match un with
            | some c => m.modD fun d => d.setCmd { c with kind := .unwindSp sp y }
            | none => m.modT fun t => { t with spools := setNth t.spools sp.val y }
          let m := match wc with
            | some c =>
              let m := (fault m c).countCmd c bytes
              if n + 1 = x.total then m.signal c else m
            | none => m
          let m := match un with
            | some c =>
              let m := (fault m c).countCmd c bytes
              if y.filled = 0 then
                (m.modD fun d => { d with cmds := d.cmds.filter fun k => !(k.own = t.ref && k.kind = CmdK.wind sp && k.seq = x.pos) }).signal c
              else m
            | none => m
          m.at_ m0.cur) s

end Sys2Proof.Machine
end

