-- ==== Sys2Proof/Machine/Image.lean ====
section
/-! DEFINITION. Context images (R25–R30, R403, R404): the image a save writes, and the state that a fill or a restore takes from
one. -/

namespace Sys2Proof.Machine

/-! ### Bytes -/

/-- An image section as bytes that can be read by offset; bytes it lacks are zero. -/
abbrev Img := Array Byte
/-- A little-endian number of `n` bytes. -/
def Img.num (a : Img) (o n : Nat) : Nat := leNat ((List.range n).map fun i => a.getD (o + i) 0)
/-- A number as a word. -/
def Img.word (a : Img) (o : Nat) : Word := BitVec.ofNat 64 (a.num o 8)
/-- A number as a lane. -/
def Img.lane (a : Img) (o : Nat) : Lane := BitVec.ofNat 32 (a.num o 4)
/-- Some bytes. -/
def Img.bytes (a : Img) (o n : Nat) : List Byte := (List.range n).map fun i => a.getD (o + i) 0
/-- Zero bytes up to a size. -/
def padded (bs : List Byte) (n : Nat) : List Byte := bs ++ List.replicate (n - bs.length) 0
/-- The 136-byte map image at an offset, of a register of a cluster. -/
def Img.map (a : Img) (o : Nat) (c : Clu) : MapD := { (mapOfBytes (a.bytes o 136)).held with clu := c }

/-! ### Vector images (R403) -/

/-- The size of a vector image. -/
def viSize (T : Nat) : Nat := 448 + 256 * T
/-- The 256 bytes of 64 lanes. -/
def laneBytes (v : Vec) : List Byte := v.toList.flatMap fun x => leBytes 4 x.toNat
/-- The 64 lanes at an offset. -/
def Img.vec (a : Img) (o : Nat) : Vec := Vec.build fun i => a.lane (o + 4 * i)
/-- The vector image of a value. -/
def VVal.image (T : Nat) (v : VVal) : List Byte :=
  laneBytes v.lanes ++ v.map.bytes ++ leBytes 8 (if v.fromS then 1 else 0) ++ List.replicate 48 0 ++
    (List.range T).flatMap fun k => laneBytes (v.tg.getD k (Vec.splat 0))
/-- A scalar in the first 8 bytes of a vector image. -/
def wordImage (T : Nat) (w : Word) : List Byte := padded (leBytes 8 w.toNat) (viSize T)
/-- The value of a vector image. -/
def Img.vval (a : Img) (T o : Nat) (c : Clu) : VVal :=
  ⟨a.vec o, a.map (o + 256) c, (List.range T).map fun k => a.vec (o + 448 + 256 * k), bit (a.getD (o + 392) 0) 0⟩

/-! ### Which cluster's side-store a map names -/

/-- The cluster of the image's `i`-th map, by its place: `cluB` lists those whose INDEXED map names a store of cluster B. -/
def Keep.clu (k : Option Keep) (i : Nat) (own : Clu) : Clu :=
  match k with | some k => (if k.cluB.contains i then .b else .a) | none => own
/-- The place of a stream's first latch among the image's maps. -/
def strmBase (sec : Bool) : Nat := if sec then 366 else 64
/-- The cluster of latch bank `u`. -/
def bankClu (u : Nat) : Clu := if 4 ≤ u && u < 8 then .b else .a
/-- The maps of a stream with their places. -/
def Strm.places (x : Strm) (sec : Bool) : List (Nat × MapD) :=
  ((List.range 10).flatMap fun u => (List.range 3).map fun j => (strmBase sec + 3 * u + j, (nth (nth x.vl u) j).map)) ++
  ((List.range 16).map fun p => (strmBase sec + 30 + p, (nth x.vport p).val.map)) ++
  x.pend.zipIdx.map fun q => (strmBase sec + 46 + q.2, q.1.val.map)
/-- What the device keeps beside the image. -/
def Thr.keep (t : Thr) : Keep where
  seq := t.seq
  time := t.time
  spos := t.spools.toList.map fun s => s.pos
  spec := if t.arr.chainN = 0 then [] else (List.range 9216).filterMap fun i =>
    match nth (nth t.arr.spec (i / 96)) (i % 96) with | .none => none | s => some (i, s)
  cluB := (((List.range 32).map fun i => (i, (nth t.va i).map)) ++ ((List.range 32).map fun i => (32 + i, (nth t.vb i).map)) ++
    t.prim.places false ++ t.sec.places true).filterMap fun (e : Nat × MapD) => if e.2.clu = Clu.b then some e.1 else none
  pmask := (t.prim.pend ++ t.sec.pend).map fun q => q.mask
  lseq :=
    let on := fun (sec : Bool) => (t.land.filter fun l => l.sec = sec).map fun l => l.seq
    (on false, on true)

/-! ### Sections as a save writes them (Table 2-7) -/

/-- The loop stack of a stream. -/
def loopImage (l : List Lvl) : List Byte :=
  padded (padded [BitVec.ofNat 8 l.length] 8 ++
    l.flatMap fun x => leBytes 4 x.idx.toNat ++ leBytes 4 x.cnt.toNat ++ leBytes 8 x.start.toNat ++ leBytes 8 x.stop.toNat) 152
/-- A side-store. -/
def recsImage (rs : List Rec) : List Byte := rs.flatMap fun r => r.toList.flatMap fun x => leBytes 4 x.toNat
/-- The rows of an operand tile. -/
def oRowsImage (r : ORows) : List Byte := r.toList.flatMap fun x => x.toList
/-- The rows of an accumulator tile. -/
def aRowsImage (r : ARows) : List Byte := r.toList.flatMap accRowBytes
/-- 16 bytes of a 112-bit register, zero-extended. -/
def wide (x : BitVec 112) : List Byte := leBytes 16 x.toNat

/-- Section 4. -/
def Thr.tilesImage (t : Thr) : List Byte :=
  (t.ot.toList.flatMap fun o => oRowsImage o.rows) ++ (t.ct.toList.flatMap fun c => aRowsImage c.rows) ++
  (t.ot.toList.flatMap fun o => padded [BitVec.ofNat 8 o.kc.toNat, BitVec.ofNat 8 o.scl.toNat] 8 ++ o.scales.toList.flatMap fun r => r.toList) ++
  (t.ct.toList.flatMap fun c => leBytes 16 c.status.toNat) ++
  t.arr.ra.toList.flatMap wide ++ t.arr.cb.toList.flatMap wide ++
  (t.arr.ea.toList.flatMap fun x => leBytes 2 x.toNat) ++ (t.arr.eb.toList.flatMap fun x => leBytes 2 x.toNat) ++
  padded (padded [BitVec.ofNat 8 t.arr.chainN] 8 ++ leBytes 8 t.arr.chainFmt.toNat) 64 ++
  t.arr.cells.toList.flatMap fun r => r.toList.flatMap fun x => leBytes 16 (x.signExtend 128).toNat
/-- Section 5. -/
def Thr.shadowImage (t : Thr) : List Byte :=
  (List.range t.T).flatMap fun k =>
    (t.va.toList ++ t.vb.toList).flatMap (fun v => laneBytes (v.tg.getD k (Vec.splat 0))) ++
    (t.ot.toList.take 4).flatMap (fun o => oRowsImage (o.shadow k)) ++ (t.ct.toList.take 4).flatMap fun c => aRowsImage (c.shadow k)
/-- A spool. -/
def Spool.image (s : Spool) : List Byte :=
  padded (s.blk.toList ++ leBytes 4 s.wpos.toNat ++ leBytes 4 s.rpos.toNat ++ leBytes 4 s.next.toNat ++
    leBytes 4 ((if s.bound then 1 else 0) + (if s.dir then 2 else 0) + (if s.handle then 4 else 0))) 320
/-- Section 9. -/
def Thr.memberImage (t : Thr) : List Byte :=
  padded ((t.skeins.toList.flatMap fun s => match s with
      | some k => leBytes 8 k.id.toNat ++ leBytes 8 k.obj.toNat
      | none => leBytes 8 0xFFFFFFFF ++ leBytes 8 0) ++
    padded [BitVec.ofNat 8 t.regions.length] 8 ++
    t.regions.reverse.flatMap fun r => leBytes 8 r.handler.toNat ++ leBytes 2 r.id.toNat ++
      [if r.sec then 1 else 0, BitVec.ofNat 8 r.depth] ++ leBytes 4 r.pos ++ leBytes 8 0) 256
/-- A result in flight: its port, what remains of its latency, and the result. -/
def Pend.image (T time : Nat) (q : Pend) : List Byte :=
  let id := match q.port with | .inl p => (Src.sport p).id | .inr p => (Src.vport p).id
  padded (leBytes 2 id ++ leBytes 2 (q.due - time) ++ [1]) 64 ++
    match q.port with | .inl _ => wordImage T q.word | .inr _ => q.val.image T
/-- The latch view of a stream. -/
def Strm.latchImage (x : Strm) (T time : Nat) : List Byte :=
  let ps := x.pend.take 256
  padded ((x.sl.toList.flatMap fun u => u.toList.flatMap fun w => leBytes 8 w.toNat) ++
    x.sport.toList.flatMap fun p => leBytes 8 p.val.toNat) 256 ++
  (x.vl.toList.flatMap fun u => u.toList.flatMap fun v => v.image T) ++ (x.vport.toList.flatMap fun p => p.val.image T) ++
  x.stage.toList.flatMap laneBytes ++ padded (leBytes 2 ps.length) 64 ++
  padded (ps.flatMap (Pend.image T time)) (256 * (64 + viSize T))
/-- The destination id of a landing; a save waits for the reads of block tables. -/
def LandDst.id : LandDst → Nat
  | .s n => n.val
  | .v .a n => 0x40 + n.val
  | .v .b n => 0x60 + n.val
  | .w n => 0x1FC + n.val
  | .lsr => 0xC2
  | .table _ => 0
/-- A landing of the landing buffer. -/
def Landing.image (T time : Nat) (l : Landing) : List Byte :=
  padded (padded (leBytes 2 l.dst.id ++ leBytes 2 (l.due - time) ++ [1]) 8 ++ leBytes 8 l.mask.toNat) 64 ++
    (l.data.getD VVal.zero).image T

/-- A section of the image of a thread (Table 2-7). The image has no place for the time from which a write of FMT or TSCALE acts (R78): one that does
not act yet is saved as the value last written, and acts at once after the restore (DESIGN CHOICE). -/
def Thr.section (t : Thr) (k : Nat) : List Byte :=
  let size := secSize t.T k
  match k with
  | 0 => padded ((t.s.toList.flatMap fun w => leBytes 8 w.toNat) ++
      leBytes 2 ((List.range 15).foldl (fun a i => a + if nth t.p (i + 1) then 2 ^ (i + 1) else 0) 0)) size
  | 1 => padded (loopImage t.prim.loops ++ loopImage t.sec.loops) size
  | 2 => padded ((t.va.toList ++ t.vb.toList).flatMap (fun v => laneBytes v.lanes) ++
      (t.qa.toList.drop 1 ++ t.qb.toList.drop 1).flatMap fun q => leBytes 8 q.toNat) size
  | 3 => (t.va.toList ++ t.vb.toList).flatMap (fun v => v.map.bytes) ++ t.ot.toList.flatMap (fun o => o.map.bytes) ++
      t.ct.toList.flatMap (fun c => c.map.bytes) ++ (t.ssA.toList ++ t.ssB.toList).flatMap (fun s => recsImage s.toList) ++
      (t.tsT.toList ++ t.tsC.toList).flatMap fun s => recsImage s.toList
  | 4 => t.tilesImage
  | 5 => t.shadowImage
  | 6 => padded (t.spools.toList.flatMap Spool.image ++ t.w.toList.flatMap (fun w => leBytes 8 w.toNat) ++
      [BitVec.ofNat 8 t.wrot, BitVec.ofNat 8 t.wout]) size
  | 7 => padded (leBytes 8 ((match t.fmtq.getLast? with | some e => e.2 | none => t.fmt).toNat) ++
      leBytes 4 ((match t.tscaleq.getLast? with | some e => e.2 | none => t.tscale).toNat) ++ leBytes 4 t.stat.toNat) size
  | 8 => t.win.toList.flatMap fun e => leBytes 8 e.1.toNat ++ leBytes 8 e.2.toNat
  | 9 => t.memberImage
  | 10 => t.prim.latchImage t.T t.time ++ t.sec.latchImage t.T t.time
  | _ => [false, true].flatMap fun sec =>
      padded ((t.land.filter fun l => l.sec = sec).flatMap (Landing.image t.T t.time)) (16 * (64 + viSize t.T))

/-- The header of a saved image (Table 2-2). -/
def Thr.header (t : Thr) : List Byte :=
  leBytes 4 0x46580001 ++
  leBytes 4 (1 + (if t.paired then 2 else 0) + (if t.duall then 4 else 0) + 8 * t.T + (if t.fusedl1 then 64 else 0) +
    (if t.priv then 128 else 0)) ++
  leBytes 8 t.prim.pc.toNat ++ leBytes 8 t.sec.pc.toNat ++ leBytes 8 t.prim.mpc.toNat ++ leBytes 8 t.sec.mpc.toNat ++
  leBytes 8 t.seed.toNat ++ leBytes 2 t.nrc.toNat ++ [BitVec.ofNat 8 t.prim.drem, BitVec.ofNat 8 t.sec.drem] ++
  leBytes 4 t.flags.toNat ++ leBytes 4 t.tid.toNat ++ leBytes 4 t.tgstr.toNat ++
  (List.range 12).flatMap fun k => leBytes 8 (secOff t.T k) ++ leBytes 8 (secSize t.T k)
/-- The complete image (R404). -/
def Thr.image (t : Thr) : List Byte := t.header ++ (List.range 12).flatMap t.section
/-- The full-empty bits of a scratchpad of `n` bytes: granule g in bit g mod 8 of byte g div 8 (R404). -/
def feImage (fe : List Nat) (n : Nat) : List Byte :=
  (List.range (n / 128)).map fun i => BitVec.ofNat 8 (fe.foldl (fun a g => if g / 8 = i then a + 2 ^ (g % 8) else a) 0)

/-! ### State taken from an image -/

/-- The header of an image and its sections; an absent one is `none`. -/
structure Ctxt where
  hdr : Img
  secs : Vector (Option Img) 12

/-- IFLAGS. -/
def Ctxt.flags (c : Ctxt) : BitVec 32 := c.hdr.lane 4
/-- T. -/
def Ctxt.T (c : Ctxt) : Nat := fld c.flags 5 3
/-- A section, or a default. -/
def Ctxt.sec {α : Type} (c : Ctxt) (k : Nat) (absent : α) (f : Img → α) : α := match nth c.secs k with | some a => f a | none => absent

/-- The fields of a window entry's word 1 (Table 7-5). -/
def winMask : Word := 0xFFFFFFFF0000000B
/-- A next-tile register's word as it reads (Table 2-5): reserved bits are zero, and with NULL every other field. -/
def wWord (w : Word) : Word := if w.msb then 0x8000000000000000 else w &&& 0x0000FFFFFFFFFFFF
/-- The loop stack at an offset. -/
def Img.loops (a : Img) (o : Nat) : List Lvl :=
  (List.range (min 6 (a.num o 1))).map fun i =>
    let b := o + 8 + 24 * i
    ⟨BitVec.ofNat 32 (a.num b 4), BitVec.ofNat 32 (a.num (b + 4) 4), a.word (b + 8), a.word (b + 16)⟩
/-- The rows of an operand tile at an offset. -/
def Img.oRows (a : Img) (o : Nat) : ORows := Vector.ofFn fun r => Vector.ofFn fun b => a.getD (o + 128 * r.val + b.val) 0
/-- The rows of an accumulator tile at an offset. -/
def Img.aRows (a : Img) (o : Nat) : ARows := Vector.ofFn fun r => Vector.ofFn fun c => a.lane (o + 384 * r.val + 4 * c.val)
/-- Coordinate records at an offset. -/
def Img.rec (a : Img) (o : Nat) : Rec := Vector.ofFn fun k => a.lane (o + 4 * k.val)
/-- A spool at an offset. -/
def Img.spool (a : Img) (o pos : Nat) : Spool :=
  let f := a.num (o + 268) 4
  if f % 2 = 0 then Spool.zero
  else ⟨Vector.ofFn fun i => a.getD (o + i.val) 0, a.lane (o + 256), a.lane (o + 260), a.lane (o + 264), true, f / 2 % 2 = 1, f / 4 % 2 = 1, pos, []⟩
/-- A scalar port whose value can be read at once. -/
def Img.sportAt (a : Img) (o : Nat) : SPortV := ⟨a.word o, 0⟩

/-- A result in flight of an image. -/
def Img.pendAt (a : Img) (T o time : Nat) (mask : BitVec 64) (c : Clu) : Option Pend :=
  let due := time + a.num (o + 2) 2
  if a.num (o + 4) 1 % 2 = 0 then none
  else match srcOfId (a.num o 2) 0 with
    | some (.sport p) => some ⟨.inl p, due, due, allLanes, a.word (o + 64), VVal.zero⟩
    | some (.vport p) => some ⟨.inr p, due, due, mask, 0, a.vval T (o + 64) c⟩
    | _ => none
/-- A landing of an image, at its position in the outbound order; its data has arrived. -/
def Img.landAt (a : Img) (T o time seq : Nat) (sec : Bool) : Option Landing :=
  if a.num (o + 4) 1 % 2 = 0 then none
  else
    let id := a.num o 2
    let dst : Option LandDst :=
      if 0x1FC ≤ id && id < 0x200 then some (.w (Fin.ofNat 4 (id - 0x1FC)))
      else if id < 0x40 then some (.s (Fin.ofNat 64 id))
      else if id < 0x60 then some (.v .a (Fin.ofNat 32 (id - 0x40)))
      else if id < 0x80 then some (.v .b (Fin.ofNat 32 (id - 0x60)))
      else none
    let c : Clu := if id < 0x60 then .a else .b
    dst.map fun d => ⟨d, time + a.num (o + 2) 2, BitVec.ofNat 64 (a.num (o + 8) 8), .cluster 0 [], seq, time, sec,
      some (a.vval T (o + 64) c), none, 0, false, []⟩

/-- The latch view and what else a stream takes from an image. `first` is the number of results in flight of the streams before it. -/
def Ctxt.strm (c : Ctxt) (sec : Bool) (saved : Bool) (time first : Nat) (k : Option Keep) : Strm :=
  let T := c.T
  let x : Strm := { Strm.zero with
    pc := c.hdr.word (if sec then 0x10 else 0x08)
    mpc := c.hdr.word (if sec then 0x20 else 0x18)
    drem := min 64 (c.hdr.num (if sec then 0x33 else 0x32) 1)
    loops := c.sec 1 [] fun a => a.loops (if sec then 0x98 else 0) }
  if !saved then x
  else c.sec 10 x fun a =>
    let o := if sec then 152512 + 77312 * T else 0
    let v := viSize T
    let vi := fun (i : Nat) (own : Clu) => a.vval T (o + 0x100 + i * v) (Keep.clu k (strmBase sec + i) own)
    let pb := o + 0x100 + 46 * v + 576
    { x with
      sl := Vector.ofFn fun u => Vector.ofFn fun j => a.word (o + 24 * u.val + 8 * j.val)
      sport := Vector.ofFn fun p => a.sportAt (o + 0xA8 + 8 * p.val)
      vl := Vector.ofFn fun u => Vector.ofFn fun j => vi (3 * u.val + j.val) (bankClu u.val)
      vport := Vector.ofFn fun p => ⟨{ vi (30 + p.val) (if 6 ≤ p.val && p.val < 12 then .b else .a) with fromS := false }, 0⟩
      stage := Vector.ofFn fun i => a.vec (o + 0x100 + 46 * v + 256 * i.val)
      pend := (List.range 256).filterMap fun i =>
        a.pendAt T (pb + i * (64 + v)) time (match k with | some k => k.pmask.getD (first + i) allLanes | none => allLanes)
          (Keep.clu k (strmBase sec + 46 + i) .a) }

/-- The array registers of section 4. -/
def Img.arr (a : Img) (k : Option Keep) : ArrRegs :=
  let w := fun (o : Nat) => BitVec.ofNat 112 (a.num o 14)
  let spec := match k with | some k => k.spec | none => []
  { ra := Vector.ofFn fun i => w (0x618C0 + 16 * i.val)
    cb := Vector.ofFn fun i => w (0x61EC0 + 16 * i.val)
    ea := Vector.ofFn fun i => BitVec.ofNat 16 (a.num (0x624C0 + 2 * i.val) 2)
    eb := Vector.ofFn fun i => BitVec.ofNat 16 (a.num (0x62580 + 2 * i.val) 2)
    chainN := a.num 0x62640 1
    chainFmt := a.word 0x62648
    cells := Vector.ofFn fun i => Vector.ofFn fun j => w (0x62680 + 16 * (96 * i.val + j.val))
    spec := spec.foldl (fun s e => setNth s (e.1 / 96) (setNth (nth s (e.1 / 96)) (e.1 % 96) e.2)) ArrRegs.zero.spec
    foldAt := 0 }

/-- The thread of an image, as Table 2-3 fills it. `ref`, `priv`, `asid`, `prio`, `save` and `kern` come from the launch, and so do the
thread id and TGSTR of one that was never saved (R28); `keep` from the save. -/
def Ctxt.thread (c : Ctxt) (saved : Bool) (k : Option Keep) (base : Thr) : Thr :=
  let T := c.T
  let f := c.flags
  let z := Thr.zero
  let time := match k with | some k => k.time | none => 0
  let sh := fun (i n : Nat) => c.sec 5 [] fun a => (List.range T).map fun q => a.vec (q * 212992 + 256 * i + n)
  let reg := fun (i : Nat) (own : Clu) => (⟨c.sec 2 (Vec.splat 0) fun a => a.vec (256 * i),
    c.sec 3 MapD.none fun a => a.map (136 * i) (Keep.clu k i own), sh i 0, false⟩ : VVal)
  let prim := c.strm false saved time 0 k
  let q := fun (o : Nat) => Vector.ofFn (n := 16) fun i => if i.val = 0 then (0 : BitVec 64) else
    c.sec 2 0 fun a => a.word (0x4000 + o + 8 * (i.val - 1))
  { base with
    status := .running
    paired := bit f 1
    duall := bit f 2
    T := T
    fusedl1 := bit f 6
    prim := prim
    sec := if bit f 1 then c.strm true saved time prim.pend.length k else Strm.zero
    s := c.sec 0 z.s fun a => Vector.ofFn fun i => a.word (8 * i.val)
    p := c.sec 0 z.p fun a => Vector.ofFn fun i => i.val ≠ 0 && (a.num 0x200 2).testBit i.val
    va := Vector.ofFn fun i => reg i.val .a
    vb := Vector.ofFn fun i => reg (32 + i.val) .b
    qa := q 0
    qb := q 120
    ot := Vector.ofFn fun i =>
      { rows := c.sec 4 OTile.zero.rows fun a => a.oRows (12288 * i.val)
        kc := c.sec 4 0 fun a => BitVec.ofNat 2 (a.num (0x60000 + 776 * i.val) 1)
        scl := c.sec 4 0 fun a => BitVec.ofNat 2 (a.num (0x60001 + 776 * i.val) 1)
        scales := c.sec 4 OTile.zero.scales fun a => Vector.ofFn fun r => Vector.ofFn fun b => a.getD (0x60008 + 776 * i.val + 8 * r.val + b.val) 0
        map := c.sec 3 MapD.none fun a => a.map (136 * (64 + i.val)) .a
        sh := if i.val < 4 then c.sec 5 [] fun a => (List.range T).map fun n => a.oRows (n * 212992 + 0x4000 + 12288 * i.val) else [] }
    ct := Vector.ofFn fun i =>
      { rows := c.sec 4 ATile.zero.rows fun a => a.aRows (0x18000 + 36864 * i.val)
        status := c.sec 4 0 fun a => BitVec.ofNat 96 (a.num (0x61840 + 16 * i.val) 12)
        map := c.sec 3 MapD.none fun a => a.map (136 * (72 + i.val)) .a
        sh := if i.val < 4 then c.sec 5 [] fun a => (List.range T).map fun n => a.aRows (n * 212992 + 0x10000 + 36864 * i.val) else [] }
    arr := c.sec 4 ArrRegs.zero fun a => a.arr k
    ssA := c.sec 3 z.ssA fun a => Vector.ofFn fun i => Vector.ofFn fun r => a.rec (0x2A80 + 1024 * i.val + 16 * r.val)
    ssB := c.sec 3 z.ssB fun a => Vector.ofFn fun i => Vector.ofFn fun r => a.rec (0x4A80 + 1024 * i.val + 16 * r.val)
    tsT := c.sec 3 z.tsT fun a => Vector.ofFn fun i => Vector.ofFn fun r => a.rec (0x6A80 + 1536 * i.val + 16 * r.val)
    tsC := c.sec 3 z.tsC fun a => Vector.ofFn fun i => Vector.ofFn fun r => a.rec (0x9A80 + 1536 * i.val + 16 * r.val)
    flags := c.hdr.lane 0x34
    spools := c.sec 6 z.spools fun a => Vector.ofFn fun i => a.spool (320 * i.val) (match k with | some k => k.spos.getD i.val 0 | none => 0)
    w := c.sec 6 z.w fun a => Vector.ofFn fun i => wWord (a.word (0x1400 + 8 * i.val))
    wrot := c.sec 6 0 fun a => a.num 0x1420 1 % 4
    wout := c.sec 6 0 fun a => min 4 (a.num 0x1421 1)
    fmt := c.sec 7 z.fmt fun a => a.word 0 &&& fmtMask
    tscale := c.sec 7 z.tscale fun a => a.lane 8
    stat := c.sec 7 0 fun a => a.lane 12 &&& 0xF
    seed := c.hdr.word 0x28
    nrc := BitVec.ofNat 16 (c.hdr.num 0x30 2)
    win := c.sec 8 z.win fun a => Vector.ofFn fun i => (a.word (16 * i.val), a.word (16 * i.val + 8) &&& winMask)
    tid := if saved then c.hdr.lane 0x38 else base.tid
    tgstr := if saved then c.hdr.lane 0x3C else base.tgstr
    skeins := c.sec 9 z.skeins fun a => Vector.ofFn fun i =>
      if a.num (16 * i.val) 4 = 0xFFFFFFFF then none else some ⟨a.lane (16 * i.val), a.word (16 * i.val + 8)⟩
    regions := c.sec 9 [] fun a => ((List.range (min 4 (a.num 0x80 1))).map fun i =>
      let o := 0x88 + 24 * i
      (⟨a.word o, BitVec.ofNat 16 (a.num (o + 8) 2), a.num (o + 10) 1 % 2 = 1, a.num (o + 11) 1, a.num (o + 12) 4⟩ : Region)).reverse
    time := time
    seq := match k with | some k => k.seq | none => 0
    land := if !saved then [] else c.sec 11 [] fun a => [false, true].flatMap fun sec =>
      if sec && !bit f 1 then [] else (List.range 16).filterMap fun i =>
        a.landAt T ((if sec then 8192 + 4096 * T else 0) + i * (64 + viSize T)) time
          (match k with | some k => (if sec then k.lseq.2 else k.lseq.1).getD i 0 | none => 0) sec }

/-! ### Reading an image through a space -/

/-- What else a read of a range of a space by an agent of the device does: the translations it uses are kept, and it fires an injection that waits
for its bytes (R151, R383). -/
def Mach.probeRange (m : Mach) (asid : BitVec 16) (dva : Word) (n : Nat) : Mach :=
  match m.dev.engRange asid dva n false with
  | .ok ps => ps.foldl (fun (m : Mach) (p : Nat × Nat) => m.probeHome p.1 p.2)
      ((pieces dva.toNat n 0x10000).foldl (fun (m : Mach) (p : Nat × Nat) => m.learn asid (BitVec.ofNat 64 p.1)) m)
  | _ => m
/-- A range of a space holds poison. -/
def Dev.rangePoisoned (d : Dev) (asid : BitVec 16) (a : Word) (n : Nat) : Bool :=
  match d.engRange asid a n false with | .ok ps => ps.any fun p => d.poisoned p.1 p.2 | _ => false
/-- Bytes of a space as an image, or the page that stops the read; `none` for the second means a fault. -/
def Dev.imgAt (d : Dev) (asid : BitVec 16) (dva : Word) (n : Nat) : Except (Option Word) Img :=
  match d.engRange asid dva n false with
  | .ok ps => .ok ((ps.flatMap fun p => d.bytes p.1 p.2).toArray)
  | .absent a => .error (some a)
  | .fault _ => .error none
/-- The offset and length of a section. -/
def Img.sect (h : Img) (k : Nat) : Nat × Nat := (h.num (0x40 + 16 * k) 8, h.num (0x48 + 16 * k) 8)
/-- The header and the sections of an image; sections 10 and 11 are read only from a saved one. -/
def Dev.ctxt (d : Dev) (asid : BitVec 16) (base : Word) : Except (Option Word) Ctxt := do
  let h ← d.imgAt asid base 256
  let T := fld (h.lane 4) 5 3
  let saved := bit (h.lane 4) 0
  let l ← (List.range 12).mapM fun k =>
    let (o, n) := h.sect k
    if o = 0 || (10 ≤ k && !saved) then (.ok none : Except (Option Word) (Option Img))
    else (d.imgAt asid (base + BitVec.ofNat 64 o) (min n (secSize T k))).map some
  pure ⟨h, Vector.ofFn fun k => l.getD k.val none⟩
/-- The ranges that reading the header and the present sections of an image reads. -/
def Dev.ctxtReads (d : Dev) (asid : BitVec 16) (base : Word) : List (Word × Nat) :=
  (base, 256) :: match d.imgAt asid base 256 with
    | .error _ => []
    | .ok h => (List.range 12).filterMap fun k =>
      let (o, n) := h.sect k
      if o = 0 then none else some (base + BitVec.ofNat 64 o, min n (secSize (fld (h.lane 4) 5 3) k))
/-- What else reading ranges does. -/
def Mach.probeAll (m : Mach) (asid : BitVec 16) (rs : List (Word × Nat)) : Mach := rs.foldl (fun (m : Mach) r => m.probeRange asid r.1 r.2) m
/-- Some bytes of the ranges are homed on a die whose clocks are stopped: the read waits (R391). -/
def Dev.readsStop (d : Dev) (asid : BitVec 16) (rs : List (Word × Nat)) : Bool :=
  rs.any fun r => match d.engRange asid r.1 r.2 false with | .ok ps => ps.any fun p => d.stops p.1 p.2 | _ => false

end Sys2Proof.Machine
end

