-- ==== Sys2Proof/Machine/System.lean ====
section
/-! DEFINITION. System operations (R211, R212). -/

namespace Sys2Proof.Machine

/-- A trigger of `sys` with its operand count. -/
def sysOp (g : Grd) (src : Src) (nops : Nat) (op : Ctx → Issue → Issue) (s : State) : Host.Outcome State Fault Refusal :=
  slot (fun pre b => trigger pre b g src .sys nops op) s
/-- A privileged trigger of `sys` (R179). -/
def privOp (g : Grd) (src : Src) (nops : Nat) (op : Ctx → Issue → Issue) (s : State) : Host.Outcome State Fault Refusal :=
  slot (fun pre b => privileged pre b g (trigger pre b g src .sys nops op)) s

/-- The special register of an id as `rdsr` delivers it, zero-extended (R78, R211, Table 4-4): FMT as operations of this A-cycle use it (R101,
R197), TSCALE as last written. -/
def Mach.special (m : Mach) (id : Nat) : Word :=
  match id with
  | 0xC0 => m.t.fmt
  | 0xC1 => m.t.tscaleReg.setWidth 64
  | 0xC2 => m.t.seed
  | 0xC3 => m.t.nrc.setWidth 64
  | 0xC4 => m.st.mpc
  | 0xC5 => m.t.flags.setWidth 64
  | 0xC6 => m.t.stat.setWidth 64
  | 0xC7 => (m.core.poolb[0]).setWidth 64
  | 0xC8 => (m.core.poolb[1]).setWidth 64
  | 0xC9 => (m.core.poolb[2]).setWidth 64
  | 0xCA => m.core.injAddr
  | _ => m.core.injCtl.setWidth 64

/-- RDSR (R211): the value read in step 1; causes that depend on the id are operation checks of its slot. -/
def execRdsr (g : Grd) (src : Src) (s : State) : Host.Outcome State Fault Refusal :=
  sysOp g src 1 (fun c b =>
    let v := c.v.word
    let n := v.toNat
    if n < 0xC0 || 0xFF < n then b.trapAt c.slot 0x06
    else if 0xCC ≤ n then b.trapWith c.slot 0x01 (fld v 9 0) false 0
    else if 0xCA ≤ n && !c.pre.t.priv then b.trapAt c.slot 0x05
    else b.resultS .sysr 0 (c.pre.special n)) s
/-- PCRD (R211): no operand. -/
def execPcrd (g : Grd) (src : Src) (s : State) : Host.Outcome State Fault Refusal :=
  sysOp g src 0 (fun c b => b.resultS .sysr 0 (bundleAddr c.pre.st.pc c.pre.isSec)) s
/-- BRKP (R211): halts the thread at the boundary after its bundle when a debugger is attached. -/
def execBrkp (g : Grd) (src : Src) (s : State) : Host.Outcome State Fault Refusal :=
  sysOp g src 1 (fun c b => { b with brk := some (c.v.word.setWidth 16) }) s

/-- IVQW (R212, R152): the 32-byte command enters the die's queue of 64. Its milestone address translates at issue; one that does not
is kept without address (R363). The command, like the header that `ctxld` reads, is read at home at issue, and waits for no write-back of the thread that is
still in the outbound queue (DESIGN CHOICE: Table 8-1 gives the operation no event). -/
def execIvqw (g : Grd) (src : Src) (s : State) : Host.Outcome State Fault Refusal :=
  privOp g src 1 (fun c b =>
    let m := c.pre
    let a := c.v.word
    let die := m.core.die
    if 64 ≤ (nth m.dev.ivq die).length then b.stallBy .other
    else if a.toNat % 32 ≠ 0 then b.trapAt c.slot 0x07
    else match m.t.win? a 32 true false with
      | none => b.trapAt c.slot 0x08
      | some dva => match m.xlate m.t.asid dva false m.t.priv with
        | .fault => b.xfault dva
        | .absent => { b with freeze := true, waitFor := [dva] }
        | .ok pa _ _ =>
          if m.dev.stops pa 32 then { b with freeze := true } else
          let b := { b with now := b.now.probeHome pa 32 }
          let w := fun i => BitVec.ofNat 64 (m.dev.num (pa + 8 * i) 8)
          let q : Ivq := ⟨w 0, w 1, w 2, w 3, m.t.ref, m.t.win? (w 2) 16 true true, m.t.asid, false⟩
          b.modD fun d => { d with ivq := setNth d.ivq die (nth d.ivq die ++ [q]) }) s

/-- ERRRD (R212, R374): a word of the die's oldest error record, all ones when none is held; w[8] removes the record. -/
def execErrrd (g : Grd) (src : Src) (s : State) : Host.Outcome State Fault Refusal :=
  privOp g src 1 (fun c b =>
    let w := c.v.word
    let die := c.pre.core.die
    let q := nth c.pre.dev.errs die
    let b := b.resultS .sysr 0 (match q.recs with | [] => BitVec.allOnes 64 | r :: _ => nth r (fld w 2 0))
    if bit w 8 then b.modD fun d => { d with errs := setNth d.errs die { nth d.errs die with recs := q.recs.drop 1 } }
    else b) s

/-- The thread on a place of this core, if any: a paired thread occupies both (R24). -/
def Mach.onPlace (m : Mach) (p : Nat) : Option Thr :=
  let on := fun (t : Thr) => if t.live then some t else none
  if p = 2 * m.core.num then on m.thr0
  else if p = 2 * m.core.num + 1 then (if m.thr0.paired then on m.thr0 else on m.thr1)
  else none

/-- Write a record through a space: where a page of it is not in place the write waits, and what does not translate is not written. -/
def Mach.putRecord (m : Mach) (o : Owner) (asid : BitVec 16) (dva : Word) (bs : List Byte) : Mach :=
  if m.dev.behind o then m.modD fun d => d.putLater o asid (.record dva bs)
  else match m.dev.engRange asid dva bs.length true with
    | .ok ps => if ps.any fun p => m.dev.stops p.1 p.2 then m.modD fun d => d.putLater o asid (.record dva bs)
      else m.modD fun d => d.writeRanges ps bs false
    | .absent a => m.modD fun d => (d.waitPage asid a).putLater o asid (.record dva bs)
    | .fault _ => m

/-- CTXSV (R212): raises the request of the thread on place p; the record and the flag follow its save, or come at once when the
place holds no thread. -/
def execCtxsv (g : Grd) (src : Src) (s : State) : Host.Outcome State Fault Refusal :=
  privOp g src 3 (fun c b =>
    let m := c.pre
    let p := (b.sl .sys 0).toNat
    let r := b.sl .sys 1
    let f : Fin 32 := Fin.ofNat 32 (fld c.v.word 4 0)
    if 575 < p then b.trapAt c.slot 0x06
    else match m.t.win? r 16 false true with
      | none => b.trapAt c.slot 0x08
      | some dva => match m.xlate m.t.asid dva true m.t.priv with
        | .fault => b.xfault dva
        | .absent => { b with freeze := true, waitFor := [dva] }
        | .ok _ _ _ =>
          match m.onPlace p with
          | none =>
            let b := b.setFlags (BitVec.ofNat 32 (2 ^ f.val))
            { b with now := b.now.putRecord none m.t.asid dva (List.replicate 16 0xFF) }
          | some t =>
            let b := { b with now := b.now.modRef t.ref fun t => { t with preq := true } }
            b.modD fun d => { d with ctxWaits := d.ctxWaits ++ [⟨m.t.ref, f, some (m.t.asid, dva), some t.ref, none⟩] }) s

/-- The thread saved at an area of which the device keeps nothing, as its image gives it: it belongs to no launch that the device holds, and has the
kernel, space and priority of the thread that asks for it (DESIGN CHOICE). -/
def Thr.fromArea (t : Thr) (launch : Nat) (area : Word) (h : Img) (now : Nat) : Saved :=
  let f := h.lane 4
  ⟨⟨launch, h.lane 0x38, none⟩, t.asid, area, t.prio, true, t.kern, true, 0, [], now, 0, [], [],
    decide (2 * rset (min 4 (fld f 5 3)) ≤ (t.kern.pool[0]).toNat) && !bit f 1, [], ⟨0, 0, [], [], [], [], ([], [])⟩⟩
/-- CTXLD (R212): queues the thread saved at an area; one whose header has a wrong MAGIC or SAVED = 0 restores nothing and is counted. A header that
does not translate is left to the restore (R357). -/
def execCtxld (g : Grd) (src : Src) (s : State) : Host.Outcome State Fault Refusal :=
  privOp g src 2 (fun c b =>
    let m := c.pre
    let a := b.sl .sys 0
    let f : Fin 32 := Fin.ofNat 32 (fld c.v.word 4 0)
    if a.toNat % 0x10000 ≠ 0 then b.trapAt c.slot 0x07
    else
      let queue := fun (b : Issue) (h : Img) => b.modD fun d =>
        let (x, d) := match d.saved.find? fun x => x.area = a && x.asid = m.t.asid with
          | some x => (x, d)
          | none =>
            let x := m.t.fromArea d.launchNext a h d.acyc
            (x, { d with launchNext := d.launchNext + 1, saved := d.saved ++ [x] })
        { d with saved := d.saved.map fun y =>
          if y.ref = x.ref then { y with auto := true, since := d.acyc, boost := 0, done := y.done ++ [(m.t.ref, f)] } else y }
      match m.coreRange a 256 false with
      | .absent p => { b with freeze := true, waitFor := [p] }
      | .fault _ => queue b #[]
      | .ok ps =>
        if ps.any fun p => m.dev.stops p.1 p.2 then { b with freeze := true } else
        let h : Img := (ps.flatMap fun p => m.dev.bytes p.1 p.2).toArray
        if h.num 0 4 ≠ 0x46580001 || !bit (h.lane 4) 0 then
          (b.setFlags (BitVec.ofNat 32 (2 ^ f.val))).modD fun d => d.count m.core.die 12
        else queue { b with now := ps.foldl (fun (n : Mach) (p : Nat × Nat) => n.probeHome p.1 p.2) b.now } h) s

/-- QSCE (R212): stops placements on a die and raises the request of every thread there; the flag follows when all are saved. -/
def execQsce (g : Grd) (src : Src) (s : State) : Host.Outcome State Fault Refusal :=
  privOp g src 2 (fun c b =>
    let m := c.pre
    let d := (b.sl .sys 0).toNat
    let f : Fin 32 := Fin.ofNat 32 (fld c.v.word 4 0)
    if 3 < d || !bit m.dev.dies d then b.trapAt c.slot 0x06
    else
      let b := b.modD fun x => { x with qstop := x.qstop ||| BitVec.ofNat 4 (2 ^ d) }
      if m.core.die ≠ d then b.setFlags (BitVec.ofNat 32 (2 ^ f.val))
      else
        let ask := fun (t : Thr) => if t.live then { t with preq := true } else t
        let b := { b with now := { b.now with thr0 := ask b.now.thr0, thr1 := ask b.now.thr1 } }
        b.modD fun x => { x with ctxWaits := x.ctxWaits ++ [⟨m.t.ref, f, none, none, some d⟩] }) s

end Sys2Proof.Machine
end

