-- ==== Sys2Proof/Machine/Home.lean ====
section
/-! DEFINITION. Operations at home slices (R162, R294–R306, R192, R198, R201–R203, R405): which of a thread's queued operations may
perform, what each does, and the monitors, bindings and replicas that follow. -/

namespace Sys2Proof.Machine

/-! ### The outbound order (R162, R294, Table 8-4) -/

/-- Every segment of a command that an earlier drain waits for has performed: a marker moves nothing. -/
def CmdK.quiet : CmdK → Bool | .enq => true | _ => false
/-- What a thread's commands issued before a time have to do is done, their signals that wait for a page among it. -/
def Mach.quietBefore (m : Mach) (time : Nat) : Bool :=
  !m.dev.cmds.any (fun c => c.own = m.t.ref && c.time < time && !c.kind.quiet) &&
  !m.dev.later.any fun x => x.own = some m.t.ref && x.time < time

/-- A queued operation may perform now: a drain once everything of the thread before it has performed, an acquiring one once every read before it is
bound, any other one after the operations that order, touch its bytes, or come before it in chapter 12's order. -/
def Mach.hopReady (m : Mach) (h : Hop) : Bool :=
  let t := m.t
  let earlier := t.hops.filter fun x => x.before h
  let bound := !t.land.any fun l => l.issued < h.time && l.data.isNone
  let range := m.dev.hopRange t.asid h
  let free := earlier.all fun x => !x.op.orders && !meets (m.dev.hopRange t.asid x) range && !(h.op.isAm && x.op.isAm)
  let read := !m.unboundOn (fun l => l.issued ≤ h.time) range
  let runs := range.all fun r => !m.dev.stops r.1 r.2
  if h.op.drains then earlier.isEmpty && bound && m.quietBefore h.time && read && runs && !m.strayed t.ref h.cyc
  else match h.op with
    | .fence _ _ _ _ | .consume => (earlier.all fun x => !x.op.orders && x.op.writeOnly) && bound
    | .atom _ _ _ _ _ ord _ => free && read && runs && (ord = 0 || bound)
    | _ => free && read && runs

/-! ### Answers -/

/-- The data of a landing that waits for a home operation. -/
def Mach.answer (m : Mach) (h : Hop) (v : VVal) (poison : Option Word) : Mach :=
  m.modT fun t => { t with land := t.land.map fun l =>
    if l.src = .home && l.seq = h.seq && l.issued = h.time then { l with data := some v, poison := poison } else l }
/-- A translation fault of a home operation (R358): its landing is not made, and the fault waits to be reported. -/
def Mach.hopFault (m : Mach) (h : Hop) : Mach :=
  m.modT fun t =>
    let mine := fun (l : Landing) => l.src = .home && l.seq = h.seq && l.issued = h.time
    { t with
      land := t.land.filter fun l => !mine l
      wout := if h.op = .ntreq then t.wout - 1 else t.wout
      xfaults := t.xfaults ++ [⟨h.dva, (t.land.find? mine).map fun l => l.due⟩] }
/-- A scalar as an answer. -/
def Mach.answerW (m : Mach) (h : Hop) (w : Word) : Mach := m.answer h (vvalOfScalar w) none

/-! ### Atomics (Table 12-10, R405) -/

/-- The new memory value, as a number of `size` bytes. -/
def atomValue (op : AtomOp) (size old x cmp : Nat) : Nat :=
  let s := fun (v : Nat) => (BitVec.ofNat (8 * size) v).toInt
  let l := fun (v : Nat) => (BitVec.ofNat 32 v : Lane)
  match op with
  | .addI => (old + x) % 2 ^ (8 * size)
  | .addF32 => (fadd32 (l old) (l x)).toNat
  | .addBf16 =>
    let half := fun (k : Nat) => bf16.rne ((bf16.dec (fld (l old) (k + 15) k)).add (bf16.dec (fld (l x) (k + 15) k)))
    half 0 + 65536 * half 16
  | .minI => if s x < s old then x else old
  | .minN => min old x
  | .maxI => if s old < s x then x else old
  | .maxN => max old x
  | .and => old &&& x
  | .or => old ||| x
  | .xor => old ^^^ x
  | .swp => x
  | .cas => if old = cmp then x else old

/-- An atomic performs: a read and a write of the word in one step, the write an ordinary one (R405). -/
def Mach.doAtom (m : Mach) (h : Hop) (pa : Nat) (op : AtomOp) (size : Nat) (sgn : Bool) (x cmp : Word) : Mach :=
  let m := m.probeHome pa size
  if m.dev.poisoned pa size then m.answer h VVal.zero (m.dev.firstBad [(pa, size)])
  else
    let bs := if inMgmt pa then m.dev.mgmtRead pa size else m.dev.bytes pa size
    let new := atomValue op size (leNat bs) x.toNat cmp.toNat
    (m.writePa m.t.ref pa (leBytes size new) false m.t.priv).answerW h (extend size sgn bs)

/-! ### Heaps (R295–R298) -/

/-- The rank of a score: larger is better, −0 equals +0. -/
def scoreKey (x : Lane) : Int := if bit x 31 then -(fld x 30 0 : Int) else (fld x 30 0 : Int)
/-- A score is NaN. -/
def scoreNan (x : Lane) : Bool := 0x7F800000 < fld x 30 0
/-- One entry precedes another in key order (R297). -/
def heapBefore (a b : Lane × BitVec 32) : Bool :=
  scoreKey b.1 < scoreKey a.1 || (scoreKey a.1 = scoreKey b.1 && a.2.toNat < b.2.toNat)
/-- Insert an entry behind those that it does not precede. -/
def heapInsert (x : Lane × BitVec 32) : List (Lane × BitVec 32) → List (Lane × BitVec 32)
  | [] => [x]
  | y :: ys => if heapBefore x y then x :: y :: ys else y :: heapInsert x ys

/-- Write bytes of an object from an offset on, given its physical parts in order. -/
def Dev.pokeParts (d : Dev) : List (Nat × Nat) → Nat → List Byte → Dev
  | [], _, _ => d
  | (p, n) :: ps, o, bs =>
    if o < n then (if bs.isEmpty then d else d.poke (p + o) (bs.take (n - o))).pokeParts ps 0 (bs.drop (n - o)) else d.pokeParts ps (o - n) bs
/-- What is left of an object's physical parts from an offset on. -/
def partsFrom : List (Nat × Nat) → Nat → List (Nat × Nat)
  | [], _ => []
  | (p, n) :: ps, o => if o < n then (p + o, n - o) :: ps else partsFrom ps (o - n)
/-- Replace or add a heap, its COUNT and CAP as its header shows them. -/
def Dev.setHeap (d : Dev) (k : Heap) : Dev :=
  (({ d with heaps := d.heaps.filter (fun x => x.pa ≠ k.pa) ++ [k] } : Dev).pokeNum k.pa 4 k.entries.length).pokeNum (k.pa + 4) 4 k.cap
/-- A heap is over: what its entry area then holds is open. -/
def Dev.dropHeap (d : Dev) (pa : Nat) : Dev :=
  match d.heap? pa with
  | none => d
  | some k =>
    let d1 := { d with heaps := d.heaps.filter (fun x => x.pa ≠ pa), free := d.free + 8 * k.cap }
    d1.pokeParts k.parts 64 ((List.range (8 * k.cap)).map fun i => Config.freeByte (d.free + i))

/-- `hinit` (R296): a new empty heap, whose entries read as zero. -/
def Dev.doHinit (d : Dev) (pa cap : Nat) (parts : List (Nat × Nat)) : Dev :=
  let d := (d.dropHeap pa).setHeap ⟨pa, cap, [], parts⟩
  (partsFrom parts 64).foldl (fun d p => d.wrote p.1 p.2) (d.poke (pa + 8) ([1, 0, 0, 0, 0, 0, 0, 0] ++ List.replicate 48 0))
/-- `hoffer` (R297): the report and the device after it. -/
def Dev.doHoffer (d : Dev) (pa : Nat) (e : Lane × BitVec 32) : Nat × Dev :=
  match d.heap? pa with
  | none => (0, d)
  | some k =>
    if scoreNan e.1 then (3, d.pokeNum (pa + 12) 4 ((d.num (pa + 12) 4 + 1) % 2 ^ 32))
    else if k.entries.length < k.cap then (1, d.setHeap { k with entries := heapInsert e k.entries })
    else match k.entries.getLast? with
      | some z => if heapBefore e z then (2, d.setHeap { k with entries := heapInsert e k.entries.dropLast }) else (0, d)
      | none => (0, d)
/-- The bytes that `htake` writes at o (R298). -/
def Dev.heapReport (d : Dev) (pa n : Nat) : List Byte :=
  let es := match d.heap? pa with | some k => k.entries.take n | none => []
  leBytes 4 es.length ++ leBytes 4 (d.num (pa + 4) 4) ++ leBytes 4 (d.num (pa + 12) 4) ++ leBytes 4 0 ++
    es.flatMap fun e => leBytes 4 e.1.toNat ++ leBytes 4 e.2.toNat
/-- RESET and FREE of `htake` (R298). -/
def Dev.afterTake (d : Dev) (pa : Nat) (reset free : Bool) : Dev :=
  let d := if reset then
      let d := match d.heap? pa with | some k => d.setHeap { k with entries := [] } | none => d.pokeNum pa 4 0
      d.pokeNum (pa + 12) 4 0
    else d
  if free then (d.dropHeap pa).pokeNum (pa + 8) 4 (d.num (pa + 8) 4 / 2 * 2) else d

/-! ### The bitmap allocator (R299–R301) -/

/-- Bit g of GMASK. -/
def Dev.poolGroup (d : Dev) (pa g : Nat) : Bool := bit (d.byte (pa + 16 + g / 8)) (g % 8)
/-- The address of the byte that holds bit g of row r, given the pool's physical parts. -/
def poolByte (parts : List (Nat × Nat)) (r g : Nat) : Nat := (partPa parts (64 + 16 * r + g / 8)).getD 0
/-- Bit g of row r. -/
def Dev.poolBit (d : Dev) (parts : List (Nat × Nat)) (r g : Nat) : Bool := bit (d.byte (poolByte parts r g)) (g % 8)
/-- Change bit g of row r. -/
def Dev.flipPool (d : Dev) (parts : List (Nat × Nat)) (r g : Nat) : Dev :=
  d.poke (poolByte parts r g) [d.byte (poolByte parts r g) ^^^ BitVec.ofNat 8 (2 ^ (g % 8))]

/-- The loop of R300: pages still to find, the group, misses, the pages found; it stops after 128 misses in a row. `fuel` bounds
its turns. -/
def Dev.allocLoop (pa : Nat) (parts : List (Nat × Nat)) (want : Nat) : Nat → Dev → Nat → Nat → List Nat → Option Nat → List Nat × Option Nat × Dev
  | 0, d, _, _, pages, cur => (pages, cur, d)
  | fuel + 1, d, g, misses, pages, cur =>
    if want ≤ pages.length || 128 ≤ misses then (pages, cur, d)
    else
      let g := (g + 1) % 128
      let r := if d.poolGroup pa g then (List.range (d.poolRows pa)).find? fun r => d.poolBit parts r g else none
      match r with
      | some r => Dev.allocLoop pa parts want fuel (d.flipPool parts r g) g 0 (pages ++ [(d.num (pa + 12) 4 + 128 * r + g) % 2 ^ 32]) (some g)
      | none => Dev.allocLoop pa parts want fuel d g (misses + 1) pages cur

/-- `balloc` (R300): its report and the device after it. The new cursor of an allocation that finds no page is not stated: a free
value. -/
def Dev.doBalloc (d : Dev) (pa : Nat) (parts : List (Nat × Nat)) (count cursor : Nat) : List Byte × Dev :=
  let free := d.num pa 4
  if free < d.num (pa + 4) 4 + count then (leBytes 4 0 ++ leBytes 4 1 ++ leBytes 4 cursor ++ leBytes 4 free, d)
  else
    let (pages, cur, d) := Dev.allocLoop pa parts count (129 * 65) d cursor 0 [] none
    let n := pages.length
    let d1 := { d with free := d.free + 1 }.pokeNum pa 4 (free - n)
    (leBytes 4 n ++ leBytes 4 (if n = count then 0 else 2) ++ leBytes 4 (cur.getD (Config.freeChoice d.free % 128)) ++
      leBytes 4 (free - n) ++ pages.flatMap (leBytes 4), d1)
/-- One page of `bfree` (R301). -/
def Dev.freePage (d : Dev) (pa : Nat) (parts : List (Nat × Nat)) (p : Nat) : Dev :=
  let base := d.num (pa + 12) 4
  let r := (p - base) / 128
  let g := (p - base) % 128
  if base ≤ p && r < d.poolRows pa && d.poolGroup pa g && !d.poolBit parts r g then
    (d.flipPool parts r g).pokeNum pa 4 ((d.num pa 4 + 1) % 2 ^ 32)
  else d.pokeNum (pa + 0x20) 4 ((d.num (pa + 0x20) 4 + 1) % 2 ^ 32)

/-! ### Milestones, bindings, monitors (R192, R302–R306) -/

/-- Entries of a die's monitor table in use (R10). -/
def Dev.tableUsed (d : Dev) (die : Nat) : Nat :=
  (d.mons.filter fun k => !k.polled && d.homeDie k.pa = die).length + (d.binds.filter fun k => !k.polled && d.homeDie k.pa = die).length +
    (d.lanes.flatMap fun l => l.2.entries.flatMap fun e => e.binds.filter fun b => d.homeDie b.2 = die).length
/-- The table of an address's home die is full (R192, R306). -/
def Dev.tableFull (d : Dev) (pa : Nat) : Bool := 4096 ≤ d.tableUsed (d.homeDie pa)

/-- `msarm` at home (R303). -/
def Mach.doMsarm (m : Mach) (own : TRef) (pa bytes arrv : Nat) (scope : BitVec 3) (eff : Nat) : Mach :=
  let m := m.msPoison pa 1 false
  let gen := m.dev.num (pa + 12) 4
  let w1 := (gen + 1) % 2 ^ 32 * 2 ^ 32 + 16 + scope.toNat
  let m := m.modD fun d => { (d.pokeNum pa 8 (arrv * 2 ^ 40 + bytes)).pokeNum (pa + 8) 8 w1 with
    miles := d.miles.filter (fun k => k.pa ≠ pa) ++ [⟨pa, own, eff⟩] }
  if bytes = 0 && arrv = 0 then m.msComplete pa 0 false else m
/-- `msarv` at home (R304): a narrower effective scope poisons with SCOPE. -/
def Mach.doMsarv (m : Mach) (pa n eff : Nat) : Mach :=
  match m.dev.miles.find? fun k => k.pa = pa with
  | none => m
  | some k => if eff < k.effective then m.msComplete pa 3 false else m.msCount pa 0 n
/-- `msbind` at home (R306). -/
def Mach.doMsbind (m : Mach) (b : Bind) : Mach :=
  let w := m.dev.num (b.pa + 8) 8
  if bitsOf w 5 5 = 1 then m.fireBind b (bitsOf w 6 6 = 1) false
  else m.modD fun d => { d with binds := d.binds ++ [{ b with polled := d.tableFull b.pa }] }
/-- A monitor's word differs: its thread reads no older value of it (R166). -/
def Mach.fireMon (m : Mach) (k : Mon) : Mach :=
  (m.modD fun d => { d with mons := d.mons.erase k }.didRead k.own k.pa k.size none).setFlag k.own k.flag

/-! ### Skeins and dispensers (R198, R201–R203) -/

/-- A skein object's fields as reads return them (Table 9-7). -/
def Dev.showSkein (d : Dev) (k : SkObj) : Dev :=
  d.poke k.pa (leBytes 4 k.count ++ leBytes 4 (1 + if k.ht then 2 else 0) ++ List.replicate 56 0)
/-- The instances that the collectives of a skein's members have armed so far. -/
def SkObj.armed (k : SkObj) : Nat := (k.collSeen.map fun e => e.2).foldl max 0
/-- A join performs (R202). The joiner takes part in no instance armed before: its first `coll` belongs to the next (R287; DEDUCED from "a thread that
joins after arming does not take part in the instance"). -/
def Dev.skJoin (d : Dev) (pa : Nat) (r : TRef) (clrht : Bool) : Dev :=
  match d.skein? pa with
  | none =>
    let k : SkObj := ⟨pa, 1, !clrht, [r], false, []⟩
    { d with skeins := d.skeins ++ [k] }.showSkein k
  | some k =>
    let k := { k with count := k.count + 1, members := insertRef r (k.members.filter (· ≠ r))
                      collSeen := (k.collSeen.filter fun e => e.1 ≠ r) ++ [(r, k.armed)] }
    ({ d with skeins := d.skeins.map fun x => if x.pa = pa then k else x } : Dev).showSkein k
/-- A leave performs (R203); a collective that still counts on the thread is poisoned (R287). -/
def Dev.skLeave (d : Dev) (pa : Nat) (r : TRef) : Dev :=
  match d.skein? pa with
  | none => d
  | some k =>
    if !k.members.contains r then d
    else
      let d := d.collLeave pa r
      let k := { k with count := k.count - 1, members := k.members.filter (· ≠ r) }
      if k.count = 0 then ({ d with skeins := d.skeins.filter fun x => x.pa ≠ pa } : Dev).poke pa (List.replicate 64 0)
      else ({ d with skeins := d.skeins.map fun x => if x.pa = pa then k else x } : Dev).showSkein k

/-- A dispenser answers a next-tile request (R198, R42): bit 63 alone when none is left. -/
def Dev.nextTile (d : Dev) (pa : Nat) : Word × Dev :=
  let k := d.num pa 4
  let nx := d.num (pa + 8) 2
  let ny := d.num (pa + 10) 2
  if nx = 0 || ny = 0 || d.num (pa + 4) 4 ≤ k then (BitVec.ofNat 64 (2 ^ 63), d)
  else (BitVec.ofNat 64 (k % nx + k / nx % ny * 2 ^ 16 + k / (nx * ny) % 65536 * 2 ^ 32), d.pokeNum pa 4 ((k + 1) % 2 ^ 32))

/-! ### Launch events (R199, R314) -/

/-- A packet enters a die's launch queue, or its overflow list (R314). -/
def Dev.enterQueue (d : Dev) (die : Nat) (p : Packet) : Dev :=
  if (nth d.lqueue die).length < 256 && (nth d.lover die).isEmpty then { d with lqueue := setNth d.lqueue die (nth d.lqueue die ++ [p]) }
  else { d with lover := setNth d.lover die (nth d.lover die ++ [p]) }
/-- A launch event: the packet is read and enters the queue of the issuing thread's die. -/
def Mach.submit (m : Mach) (bytes : List Byte) (poison : Bool) (flag : Option (Fin 32)) (park : Bool) : Mach :=
  let t := m.t
  let die := m.core.die
  let aff := BitVec.ofNat 32 (leNat ((bytes.drop 0x24).take 4))
  let fw := match m.dev.launches.find? fun l => l.id = t.ref.launch with | some l => l.pkt.firmware | none => false
  m.modD fun d => d.enterQueue die ⟨bytes, t.asid, min (fld aff 17 16) t.prio, fw, none, false, some (t.ref, flag, park), die, poison⟩

/-! ### Performing -/

/-- The completion of a drain or a fence. -/
def Mach.orderSignal (m : Mach) (h : Hop) (flag : Option (Fin 32)) (ms : Option (Word × Bool)) : Mach :=
  let o := h.owner m.t.ref
  let m := match ms with
    | some (a, arv) => if arv then m.msCountV o m.t.asid a 0 1 else m
    | none => m
  match flag with | some f => m.flagAfter o m.t.asid m.t.ref f | none => m

/-- An operation on a poisoned object does not perform: a landing or a report carries poison (R370). -/
def Mach.badObject (m : Mach) (h : Hop) (parts : List (Nat × Nat)) : Mach :=
  let r := m.t.ref
  match h.op with
  | .htake off f _ _ n => ((m.engFull r (unitsOf off (16 + 8 * n) 16)).poisonSpad r off (16 + 8 * n)).setFlag r f
  | .balloc off f n _ => ((m.engFull r (unitsOf off (16 + 4 * n) 16)).poisonSpad r off (16 + 4 * n)).setFlag r f
  | .bfree _ f fv => if fv then m.setFlag r f else m
  | _ => m.answer h VVal.zero (m.dev.firstBad parts)

/-- An operation performs at its object's physical address and parts. -/
def Mach.performAt (m : Mach) (h : Hop) (pa : Nat) (parts : List (Nat × Nat)) : Mach :=
  let r := m.t.ref
  match h.op with
  | .atom op size sgn x cmp _ _ => m.doAtom h pa op size sgn x cmp
  | .hinit cap => m.modD fun d => d.doHinit pa cap parts
  | .hoffer score row =>
    let (rep, d) := m.dev.doHoffer pa (score, row)
    { m with dev := d }.answerW h (BitVec.ofNat 64 rep)
  | .htake off f reset free n =>
    let bs := m.dev.heapReport pa n
    ((m.modD fun d => d.afterTake pa reset free).engPut r off bs false).setFlag r f
  | .balloc off f n cursor =>
    let (bs, d) := m.dev.doBalloc pa parts n cursor
    ({ m with dev := d }.engPut r off bs false).setFlag r f
  | .bfree pages f fv =>
    let m := m.modD fun d => pages.foldl (fun d p => d.freePage pa parts p) d
    if fv then m.setFlag r f else m
  | .msarm bytes arrv scope eff => m.doMsarm r pa bytes arrv scope eff
  | .msarv n _ eff => m.doMsarv pa n eff
  | .msbind f pf pfv => m.doMsbind ⟨pa, r, f, if pfv then some pf else none, false, false, h.dva, m.t.asid⟩
  | .monitor f size expect => m.modD fun d =>
      let k : Mon := ⟨pa, r, f, size, expect, d.tableFull pa, false⟩
      { d with mons := d.mons ++ [{ k with hit := !k.polled && d.differs k }] }
  | .skjoin clrht => m.modD fun d => d.skJoin pa r clrht
  | .skleave => m.modD fun d => d.skLeave pa r
  | .ntreq =>
    let (w, d) := m.dev.nextTile pa
    { m with dev := d }.answerW h w
  | .launch f park => (m.probeHome pa 64).submit (m.dev.bytes pa 64) ((m.probeHome pa 64).dev.poisoned pa 64) f park
  | .store bs => m.writePa r pa bs false m.t.priv
  | .writeBack bs p own => m.modD fun d =>
      let half := fun (d : Dev) (k : Nat) => d.write (pa + 64 * k) ((bs.drop (64 * k)).take 64) (bit p k)
      own.foldl (fun d w => d.didWrite w pa 128) (half (half d 0) 1)
  | .drain _ f ms => m.orderSignal h f ms
  | .fence _ _ f ms => m.orderSignal h f ms
  | .consume => m

/-- What reading and writing a range meets. -/
def Mach.rwRange (m : Mach) (dva : Word) (n : Nat) : RangeR :=
  match m.coreRange dva n true with | .ok _ => m.coreRange dva n false | r => r
/-- The physical parts of a home operation's object as it performs: it reads and writes objects, reads a monitor's word, a milestone it binds and a
packet, and writes a store's bytes. The whole of a heap that is made and of a pool is translated (R295, R299). -/
def Mach.hopParts (m : Mach) (h : Hop) : RangeR :=
  match h.op with
  | .writeBack _ _ _ => .ok [(h.dva.toNat, 128)]
  | .drain _ _ _ | .fence _ _ _ _ | .consume => .ok []
  | .monitor _ size _ => m.coreRange h.dva size false
  | .msbind _ _ _ => m.coreRange h.dva 16 false
  | .launch _ _ => m.coreRange h.dva 64 false
  | .store bs => m.coreRange h.dva bs.length true
  | .hinit cap => m.rwRange h.dva (64 + 8 * cap)
  | .balloc _ _ _ _ | .bfree _ _ _ => (match m.rwRange h.dva 64 with
    | .ok ((pa, _) :: _) => if inMgmt pa then .ok [(pa, 64)] else m.rwRange h.dva (64 + 16 * m.dev.poolRows pa)
    | r => r)
  | .atom _ size _ _ _ _ _ => m.rwRange h.dva size
  | .msarm _ _ _ _ | .msarv _ _ _ | .ntreq => m.rwRange h.dva 16
  | .hoffer _ _ | .htake _ _ _ _ _ | .skjoin _ | .skleave => m.rwRange h.dva 64

/-- The operation acts on an object that the home slice keeps. -/
def HopOp.object : HopOp → Bool
  | .atom _ _ _ _ _ _ _ | .store _ | .writeBack _ _ _ | .launch _ _ | .drain _ _ _ | .fence _ _ _ _ | .consume => false
  | _ => true
/-- The parts of an operation's object whose poison counts: of a live heap, all of it (R370). -/
def Dev.objParts (d : Dev) (pa : Nat) (parts : List (Nat × Nat)) (o : HopOp) : List (Nat × Nat) :=
  match o with
  | .hoffer _ _ | .htake _ _ _ _ _ => (match d.heap? pa with | some k => k.parts | none => parts)
  | _ => parts

/-- An operation of the acting thread leaves the outbound order and performs, or waits for its page. -/
def Mach.performHop (m : Mach) (h : Hop) : Mach :=
  let gone := fun (m : Mach) => m.modT fun t => { t with hops := t.hops.filter fun x => !(x.seq = h.seq && x.time = h.time && x.sec = h.sec) }
  match m.hopParts h with
  | .fault _ => (gone m).hopFault h
  | .absent a => m.modD fun d => d.waitPage m.t.asid a
  | .ok parts =>
    let own := match h.op with | .writeBack _ _ _ => true | _ => false
    let m := if own then gone m
      else (pieces h.dva.toNat (parts.map fun p => p.2).sum 0x10000).foldl (fun m p =>
        let a := BitVec.ofNat 64 p.1
        let r := m.xlate m.t.asid a true m.t.priv
        m.cacheXlate m.t.asid a (match r with | .ok _ _ _ => r | _ => m.xlate m.t.asid a false m.t.priv)) (gone m)
    let m := m.ordered h.op
    let pa := (parts.head?.map fun p => p.1).getD 0
    if !h.op.object then m.performAt h pa parts
    else if inMgmt pa then
      let n := m.dev.free
      (m.modD fun d => { d with free := d.free + 2 }).answerW h (Config.freeLane n ++ Config.freeLane (n + 1))
    else
      let ps := m.dev.objParts pa parts h.op
      let m := ps.foldl (fun (m : Mach) (p : Nat × Nat) => m.probeHome p.1 p.2) m
      if ps.any fun p => m.dev.poisoned p.1 p.2 then m.badObject h ps
      else
        let m := m.performAt h pa parts
        m.modD fun d => ps.foldl (fun d p => d.didWrite m.t.ref p.1 p.2) d

/-- HOME_OPERATION_PERFORM (R294): one of a place's operations that may perform, of the device's choice, performs at its home slice. -/
def execHomeOperationPerform (pl : Place) (s : State) : Host.Outcome State Fault Refusal :=
  event (fun m0 =>
    let m := m0.at_ pl
    let ready := m.t.hops.filter m.hopReady
    match ready[Config.freeChoice m.dev.free % max ready.length 1]? with
    | none => m0
    | some h => ((m.modD fun d => { d with free := d.free + 1 }).performHop h).at_ m0.cur) s

/-! ### Monitors, bindings, replicas -/

/-- MONITOR_FIRE (R192): the home slice has seen the word differ. -/
def execMonitorFire (k : Nat) (s : State) : Host.Outcome State Fault Refusal :=
  event (fun m => match m.dev.mons[k]? with
    | some x => if x.hit then m.fireMon x else m
    | none => m) s
/-- MONITOR_POLL (R192): a monitor without a table entry reads its word again. -/
def execMonitorPoll (k : Nat) (s : State) : Host.Outcome State Fault Refusal :=
  event (fun m => match m.dev.mons[k]? with
    | some x =>
      if !x.polled || m.dev.stops x.pa x.size then m
      else
        let m := m.probeHome x.pa x.size
        if m.dev.differs x then m.fireMon x else m
    | none => m) s
/-- BIND_POLL (R306): a binding without a table entry reads word 1. -/
def execBindPoll (k : Nat) (s : State) : Host.Outcome State Fault Refusal :=
  event (fun m => match m.dev.binds[k]? with
    | some b =>
      if !b.polled || m.dev.stops b.pa 16 then m
      else
        let w := m.dev.num (b.pa + 8) 8
        let m := m.probeHome (b.pa + 8) 8
        if bitsOf w 5 5 = 1 then (m.modD fun d => { d with binds := d.binds.erase b }).fireBind b (bitsOf w 6 6 = 1) b.peer else m
    | none => m) s
/-- REPLICA_INVALIDATE (R146, R282): the invalidation reaches a replica that a write left behind, or, behind those, a block map cache
entry. -/
def execReplicaInvalidate (k : Nat) (s : State) : Host.Outcome State Fault Refusal :=
  event (fun m => m.modD fun d =>
    match d.repl[k]? with
    | some e => if e.c.staleAt = none then d else { d with repl := d.repl.eraseIdx k }
    | none => match d.bmc[k - d.repl.length]? with
      | some e => if e.c.staleAt = none then d else { d with bmc := d.bmc.eraseIdx (k - d.repl.length) }
      | none => d) s

/-! ### Steps that waited for a page (R38, R153) -/

/-- A thread leaves the skein whose object stands at an address. -/
def Mach.leaveAt (m : Mach) (o : Owner) (r : TRef) (asid : BitVec 16) (dva : Word) : Mach :=
  m.atHome o asid dva (.leave r dva) fun m pa => m.modD fun d => d.skLeave pa r
/-- IVQMAL: an invalidation command is counted, and its fault recorded (R351, R363). -/
def Dev.ivqMal (d : Dev) (die : Nat) (q : Ivq) : Dev :=
  (d.count die 10).record die { Rec0.plain 1 0x48 with tid := q.own.tid, asid := q.asid.toNat }
/-- The head of a die's invalidation queue leaves it. -/
def Dev.ivqPop (d : Dev) (die : Nat) : Dev := { d with ivq := setNth d.ivq die (nth d.ivq die).tail }
/-- The arrival of the command at the head of a die's queue at its milestone: the command stays at the head while that has to wait, so that commands
complete in the order in which they were written (R152). One whose address faults is dropped with IVQMAL (R363). -/
def Mach.ivqArrive (m : Mach) (die : Nat) (q : Ivq) : Mach :=
  let mal := m.modD fun d => (d.ivqPop die).ivqMal die q
  let wait := m.modD fun d => { d with ivq := setNth d.ivq die ({ q with done := true } :: (nth d.ivq die).tail) }
  match q.msDva with
  | none => mal
  | some a => match m.dev.xlate q.asid a true with
    | .ok pa _ _ => if m.dev.stops pa 16 then wait else (m.modD fun d => d.ivqPop die).msCount pa 0 1
    | .absent => wait.modD fun d => d.waitPage q.asid a
    | .fault => mal
/-- A child of a `launchw` has completed: a parked parent with no other becomes runnable, waiting from now (R199, R315). -/
def Mach.childDone (m : Mach) (r : TRef) : Mach :=
  let m := m.modRef r fun t => { t with kids := t.kids - 1 }
  m.modD fun d => { d with saved := d.saved.map fun s =>
    if s.ref = r then { s with kids := s.kids - 1, since := if s.kids = 1 then d.acyc else s.since, boost := if s.kids = 1 then 0 else s.boost } else s }
/-- The completion of a child reaches its parked parent, behind the child's other signals. -/
def Mach.childAfter (m : Mach) (o : Owner) (asid : BitVec 16) (r : TRef) : Mach :=
  if m.dev.behind o then m.modD fun d => d.putLater o asid (.child r) else m.childDone r
/-- One step that waited is made, or waits on. -/
def Mach.doLater (m : Mach) (x : Later) : Mach :=
  let o : Owner := x.own.map fun r => (r, x.seq, x.time)
  match x.k with
  | .count a n k => m.msCountV o x.asid a n k
  | .poison a c => m.msPoisonV o x.asid a c
  | .flag r f => m.flagAfter o x.asid r f
  | .image r off bs p => m.engWrite r off bs p
  | .spoil r off n => m.poisonSpad r off n
  | .full r gs => m.engFull r gs
  | .stat r b => m.engStat r b
  | .leave r a => m.leaveAt o r x.asid a
  | .record a bs => m.putRecord o x.asid a bs
  | .child r => m.childAfter o x.asid r
/-- Every step that waits is tried again, in order. -/
def Mach.runLater (m : Mach) : Mach := m.dev.later.foldl (fun m x => m.doLater x) (m.modD fun d => { d with later := [] })

/-- ENGINE_RETRY (R153): what waits for a page is tried again; a segment answered retry-later once 1,024 H-cycles have passed. -/
def execEngineRetry (cmd seg : Nat) (s : State) : Host.Outcome State Fault Refusal :=
  event (fun m =>
    let m := m.runLater
    match m.dev.cmd? cmd, m.dev.retryAt.find? fun e => e.1 = cmd && e.2.1 = seg with
    | some c, some e => if !m.enginesRun || m.dev.acyc < e.2.2.toNat then m else m.retry c seg
    | _, _ => m) s

end Sys2Proof.Machine
end

