-- ==== Sys2Proof/Machine/Launch.lean ====
section
/-! DEFINITION. Launches (chapter 13): `yield`, `launch`, `launchw`; the checks of Table 20-4; lanes and launch queues; completion. -/

namespace Sys2Proof.Machine

/-! ### Packets (Table 13-5) -/

/-- A field of a packet. -/
def Packet.num (p : Packet) (o n : Nat) : Nat := bf p.bytes o n
/-- An address of a packet. -/
def Packet.word (p : Packet) (o : Nat) : Word := BitVec.ofNat 64 (p.num o 8)
/-- KIMG. -/
def Packet.kimg (p : Packet) : Word := p.word 0
/-- CIMG. -/
def Packet.cimg (p : Packet) : Word := p.word 8
/-- NTHR. -/
def Packet.nthr (p : Packet) : Nat := p.num 0x10 4
/-- TGSTR. -/
def Packet.tgstr (p : Packet) : BitVec 32 := BitVec.ofNat 32 (p.num 0x14 4)
/-- SAVE. -/
def Packet.save (p : Packet) : Word := p.word 0x18
/-- SASTR. -/
def Packet.sastr (p : Packet) : Nat := p.num 0x20 4
/-- AFF. -/
def Packet.aff (p : Packet) : BitVec 32 := BitVec.ofNat 32 (p.num 0x24 4)
/-- CREC. -/
def Packet.crec (p : Packet) : Word := p.word 0x28
/-- CMS. -/
def Packet.cms (p : Packet) : Word := p.word 0x30
/-- The affinity of a packet allows a core (R317). -/
def Packet.allows (p : Packet) (die cluster : Nat) : Bool :=
  (fld p.aff 3 0 = 0 || bit p.aff die) && (fld p.aff 12 4 = 0 || bit p.aff (4 + cluster))

/-! ### Who waits to run (R316, R320) -/

/-- The scheduling quantum in A-cycles. -/
def quantumLen : Nat := 65536
/-- A launch of an id. -/
def Dev.launch? (d : Dev) (id : Nat) : Option Launch := d.launches.find? fun l => l.id = id
/-- The current priority of the unplaced threads of a launch (R44). -/
def Launch.prio (l : Launch) : Nat := min 3 (l.pkt.prio + l.boost)
/-- A launch has threads that have never been placed. -/
def Launch.waits (l : Launch) : Bool := l.nextTid < l.nthr
/-- A saved thread waits to be restored: a parked parent only once its children have completed (R315). -/
def Saved.waits (s : Saved) : Bool := s.auto && s.kids = 0
/-- The current priority of a saved thread (R44). -/
def Saved.level (s : Saved) : Nat := min 3 (s.prio + s.boost)
/-- A waiting thread, unplaced since an A-cycle, may use a core (R317 condition 1): its affinity allows it, or with STRICT = 0 no allowed
core has taken it within a quantum. -/
def Dev.mayUse (d : Dev) (p : Packet) (since die cluster : Nat) : Bool :=
  p.allows die cluster || (!bit p.aff 13 && since + quantumLen ≤ d.acyc)
/-- A waiting saved thread may use a core; one of no launch that the device holds has no affinity. -/
def Dev.mayRestore (d : Dev) (s : Saved) (die cluster : Nat) : Bool :=
  match d.launch? s.ref.launch with | some l => d.mayUse l.pkt s.since die cluster | none => true
/-- The header flags of an image, as far as they can be read. -/
def Dev.iflags (d : Dev) (asid : BitVec 16) (base : Word) : BitVec 32 :=
  match d.imgAt asid base 256 with | .ok h => h.lane 4 | .error _ => 0
/-- A core of a cluster of a die has been retired (R373, R381): it is given to no thread any more. -/
def Dev.lacksCore (d : Dev) (die cluster : Nat) : Bool :=
  d.retired.any fun e => (e.1 = 0 || e.1 = 5) && !bit e.2.2 63 && e.2.2.toNat / 8 = 9 * die + cluster
/-- The threads of a launch can hold all eight cores of a cluster, which FUSEDL1 = 1 asks for (R137, R317): they are eight or more, and no core of the
cluster is retired (R381); of a launch that the device does not hold the number is not known. -/
def Dev.fusedFits (d : Dev) (launch : Nat) (flags : BitVec 32) (die cluster : Nat) : Bool :=
  !bit flags 6 || (!d.lacksCore die cluster && (match d.launch? launch with | some l => decide (8 ≤ l.nthr) | none => true))
/-- The priority and kernel of every thread that waits for a core of a die and cluster and that R317 allows to use it: one whose affinity does not allow
that core waits for others (DESIGN CHOICE of what `yield` looks at, R193). -/
def Dev.waiting (d : Dev) (die cluster : Nat) : List (Nat × Kern) :=
  ((d.launches.filter fun l => l.waits && d.mayUse l.pkt l.since die cluster && d.fusedFits l.id (d.iflags l.pkt.asid l.pkt.cimg) die cluster).map
    fun l => (l.prio, l.kern)) ++
  (d.saved.filter fun s => s.waits && d.mayRestore s die cluster && d.fusedFits s.ref.launch (d.iflags s.asid s.area) die cluster).map
    fun s => (s.level, s.kern)

/-! ### YIELD, LAUNCH, LAUNCHW (R193, R199, R314) -/

/-- YIELD (R193): a waypoint of a primary or single stream; it also yields to a waiting thread of no lower priority whose kernel asks
for these pool boundaries. -/
def execYield (g : Grd) (src : Src) (s : State) : Host.Outcome State Fault Refusal :=
  seqOp g src 0 (fun c b =>
    let m := c.pre
    if m.isSec then b
    else
      let rival := (m.dev.waiting m.core.die (m.core.cluster % 9)).any fun w => m.t.prio ≤ w.1 && w.2.pool = m.t.kern.pool
      let b := if rival then b.modT fun t => { t with preq := true } else b
      { b with wayp := true }) s

/-- The launch packets of a core's threads that are still in their outbound queues. -/
def Mach.launchesOut (m : Mach) : Nat :=
  ((m.thr0.hops ++ m.thr1.hops).filter fun h => match h.op with | .launch _ _ => true | _ => false).length
/-- The die's launch queue and its overflow list are both full (R363). -/
def Mach.launchFull (m : Mach) : Bool :=
  let d := m.dev
  let die := m.core.die
  256 + nth d.overCap die ≤ (nth d.lqueue die).length + (nth d.lover die).length + m.launchesOut

/-- `launch` and `launchw` (R199): the launch event enters the outbound order; `launchw` parks the thread at its next waypoint. -/
def launchOp (park : Bool) (g : Grd) (src : Src) (s : State) : Host.Outcome State Fault Refusal :=
  seqOp g src 2 (fun c b =>
    let a := c.v.word
    let f := fld (b.sl .seq 0) 5 0
    let b := if b.now.launchFull then b.stallBy .full else b
    if a.toNat % 64 ≠ 0 then b.trapAt c.slot 0x07
    else match c.pre.t.win? a 64 true false with
      | none => b.trapAt c.slot 0x08
      | some dva =>
        let b := b.hop dva (.launch (if f < 32 then some (Fin.ofNat 32 f) else none) park)
        if park then b.modT fun t => { t with park := true, kids := t.kids + 1 } else b) s
/-- LAUNCH (R199). -/
def execLaunch (g : Grd) (src : Src) (s : State) : Host.Outcome State Fault Refusal := launchOp false g src s
/-- LAUNCHW (R199, R315). -/
def execLaunchw (g : Grd) (src : Src) (s : State) : Host.Outcome State Fault Refusal := launchOp true g src s

/-! ### CRC32C (R85) -/

/-- One bit of the reflected CRC32C. -/
def crcBit (c : BitVec 32) : BitVec 32 := if bit c 0 then (c >>> 1) ^^^ 0x82F63B78 else c >>> 1
/-- One byte. -/
def crcByte (c : BitVec 32) (b : Byte) : BitVec 32 := (List.range 8).foldl (fun c _ => crcBit c) (c ^^^ b.setWidth 32)
/-- CRC32C of bytes. -/
def crc32c (bs : List Byte) : BitVec 32 := ~~~(bs.foldl crcByte 0xFFFFFFFF)

/-! ### Launch checks (R362, Table 20-4) -/

/-- Why a launch does not start now: a failed check's reason, or a page that firmware must bring in first. -/
inductive NoLaunch where
  | reason (n : Nat)
  | page (dva : Word)
  deriving DecidableEq, Repr

/-- What a read that fails makes of a launch. -/
def unread (e : Option Word) : NoLaunch := match e with | some p => .page p | none => .reason 3
/-- A read that must translate; poisoned bytes cannot be read (DESIGN CHOICE). -/
def Dev.need (d : Dev) (asid : BitVec 16) (dva : Word) (n : Nat) : Except NoLaunch Img :=
  match d.imgAt asid dva n with
  | .ok a => if d.rangePoisoned asid dva n then .error (.reason 3) else .ok a
  | .error e => .error (unread e)
/-- An address that must translate for a kind of access; a write to a page that is not in place will wait for it. -/
def Dev.needAt (d : Dev) (asid : BitVec 16) (dva : Word) (n : Nat) (write : Bool) : Except NoLaunch Unit :=
  match d.engRange asid dva n write with | .fault _ => .error (.reason 3) | _ => .ok ()
/-- A check. -/
def failIf (b : Bool) (n : Nat) : Except NoLaunch Unit := if b then .error (.reason n) else .ok ()

/-- The boundaries of a POOLREQ are legal (R129). -/
def poolOk (p : Vector (BitVec 32) 3) (T : Nat) : Bool :=
  let b0 := (p[0]).toNat
  let b1 := (p[1]).toNat
  let b2 := (p[2]).toNat
  b0 % 0x10000 = 0 && b1 % 0x10000 = 0 && b2 % 0x10000 = 0 && b0 + 0x10000 ≤ b1 && b1 ≤ b2 && b2 ≤ 0x200000 &&
    [0, 0x10000, 0x20000, 0x40000].contains (b2 - b1) && rset T ≤ b0

/-- The kernel header of an image (Table 4-10). -/
def Img.kern (h : Img) (kimg : Word) : Kern where
  img := kimg
  nprim := h.word 8
  nsec := h.word 0x10
  boff := h.word 0x18
  moff := h.word 0x20
  mlen := h.word 0x28
  lat := Vector.ofFn fun i => h.getD (0x30 + i.val) 0
  pool := Vector.ofFn fun i => h.lane (0x40 + 4 * i.val)
/-- The header's own fields are wrong (R85). -/
def Img.kernBad (h : Img) : Bool :=
  h.num 0 4 ≠ 0x46584B01 || h.num 4 2 ≠ 1 || h.num 6 2 ≠ 0 || h.num 0x18 8 % 64 ≠ 0 || h.num 0x20 8 % 4 ≠ 0 ||
    (h.bytes 0x50 48).any (· ≠ 0) || (h.bytes 0x30 12).any (· = 0) || (h.bytes 0x3C 4).any (· ≠ 0)
/-- A window section breaks R147. -/
def Img.winBad (a : Img) : Bool :=
  (List.range 256).any fun i =>
    let npg := a.num (16 * i) 4
    bit (a.getD (16 * i + 8) 0) 3 && (npg = 0 || 2 ^ 32 < a.num (16 * i + 4) 4 + npg || 2 ^ 32 < a.num (16 * i + 12) 4 + npg)
/-- The bundles of a kernel, as a range of its image. -/
def Kern.bundles (k : Kern) : Nat := 24 * (k.nprim.toNat + k.nsec.toNat)

/-- What passes the checks: the kernel, and the bytes of its header and bundles that MEAS2 measures (R399). -/
structure Checked where
  kern : Kern
  bytes : List Byte

/-- A context image's own fields are wrong (R28). -/
def Img.ctxtBad (c : Img) : Bool := c.num 0 4 ≠ 0x46580001 || fld (c.lane 4) 31 8 ≠ 0 || 4 < fld (c.lane 4) 5 3
/-- A present section has a wrong length or offset (R29, R403). -/
def Img.sectsBad (c : Img) : Bool :=
  (List.range 12).any fun i => let (o, n) := c.sect i; o ≠ 0 && (o % 64 ≠ 0 || n ≠ secSize (fld (c.lane 4) 5 3) i)

/-- The checks of Table 20-4 in table order. Where a header whose own fields fail says that bundles or sections lie is not looked at: it names no
place (DESIGN CHOICE). -/
def Dev.checkLaunch (d : Dev) (p : Packet) : Except NoLaunch Checked := do
  let asid := p.asid
  failIf (p.reserved || p.num 0x38 8 ≠ 0 || fld p.aff 31 18 ≠ 0 || fld p.aff 15 14 ≠ 0) 1
  failIf (p.nthr = 0 || 2 ^ 24 < p.nthr || p.tgstr.toNat % 64 ≠ 0) 2
  failIf (p.save.toNat % 0x10000 ≠ 0 || p.crec.toNat % 16 ≠ 0 || p.poison) 3
  d.needAt asid p.save 1 false
  d.needAt asid p.save 1 true
  if p.crec ≠ 0 then d.needAt asid p.crec 16 true
  let h ← d.need asid p.kimg 128
  let c ← d.need asid p.cimg 256
  let k := h.kern p.kimg
  let f := c.lane 4
  let T := fld f 5 3
  failIf (!h.kernBad && 2 ^ 48 ≤ k.boff.toNat + k.bundles) 3
  let body ← if h.kernBad then (.ok #[] : Except NoLaunch Img) else d.need asid (p.kimg + k.boff) k.bundles
  let sects := if c.ctxtBad || c.sectsBad then [] else (List.range 12).filter fun i => (c.sect i).1 ≠ 0
  let _ ← sects.mapM fun i => d.need asid (p.cimg + BitVec.ofNat 64 (c.sect i).1) (secSize T i)
  failIf h.kernBad 4
  failIf ((k.nsec ≠ 0) != bit f 1) 4
  failIf ((crc32c body.toList).toNat ≠ h.num 0x4C 4) 4
  failIf c.ctxtBad 5
  failIf c.sectsBad 6
  failIf (!poolOk k.pool T) 7
  let ctx ← match d.ctxt asid p.cimg with | .ok x => (.ok x : Except NoLaunch Ctxt) | .error e => .error (unread e)
  failIf (ctx.sec 8 false Img.winBad) 8
  failIf (p.sastr % 0x10000 ≠ 0 || p.sastr < leastStride T ((k.pool[1]).toNat - (k.pool[0]).toNat)) 9
  failIf (bit f 6 && k.pool[1] = k.pool[2]) 10
  pure ⟨k, h.toList ++ body.toList⟩

/-! ### Completion (R313) -/

/-- The owner of the steps by which a launch completes, which keep their order (R313): no thread has its id. -/
def launchOwner (id : Nat) : Owner := some (⟨id, 0xFFFFFFFF, none⟩, 0, 0)
/-- The completion record (Table 13-6), as engine writes. -/
def Mach.putCrec (m : Mach) (o : Owner) (p : Packet) (status : Nat) (exit0 exitor : BitVec 8) (nhalt : Nat) : Mach :=
  if p.crec = 0 then m
  else m.putRecord o p.asid p.crec
    ([BitVec.ofNat 8 status, exit0, exitor, 0] ++ leBytes 4 nhalt ++ leBytes 8 m.dev.milepost)
/-- The parent's side of a completion (R199, R315): its flag, and a parked parent has one child less to wait for. -/
def Mach.toParent (m : Mach) (o : Owner) (p : Packet) : Mach :=
  match p.parent with
  | none => m
  | some (r, flag, park) =>
    let m := match flag with | some f => m.flagAfter o p.asid r f | none => m
    if park then m.childAfter o p.asid r else m
/-- An entry or packet that starts no thread: its record, CMS poisoned with TRAP, its parent (R312, R362). -/
def Mach.noLaunch (m : Mach) (p : Packet) (status : Nat) : Mach :=
  let o := launchOwner m.dev.launchNext
  let m := (m.modD fun d => { d with launchNext := d.launchNext + 1 }).putCrec o p status 0 0 0
  let m := if p.cms = 0 then m else m.msPoisonV o p.asid p.cms 4
  m.toParent o p

/-- The ranges that a launch's check reads. -/
def Dev.launchReads (d : Dev) (p : Packet) : List (Word × Nat) :=
  (p.kimg, 128) :: (match d.imgAt p.asid p.kimg 128 with
    | .ok h => let k := h.kern p.kimg; if h.kernBad then [] else [(p.kimg + k.boff, k.bundles)]
    | .error _ => []) ++ d.ctxtReads p.asid p.cimg

/-- Wait for a page, if it is a page that is waited for. -/
def Dev.waitFor (d : Dev) (asid : BitVec 16) (a : Option Word) : Dev := match a with | some p => d.waitPage asid p | none => d
/-- A launch is checked, measured when its context is measured, and its threads become runnable; a failed one is reported (R362). The
page that it waits for first, `none` while a stopped die holds its bytes (R391). The number of the launch, when it starts. -/
def Mach.startLaunch (m : Mach) (p : Packet) : Except (Option Word) (Mach × Option Nat) :=
  let reads := m.dev.launchReads p
  if m.dev.readsStop p.asid reads then .error none
  else
  let m := m.probeAll p.asid reads
  match m.dev.checkLaunch p with
  | .error (.page a) => .error (some a)
  | .error (.reason n) =>
    let m := m.noLaunch p 1
    .ok (m.modD fun d => d.record p.die { Rec0.plain 1 0x43 with detail := BitVec.ofNat 64 n, asid := p.asid.toNat }, none)
  | .ok c =>
    let id := m.dev.launchNext
    .ok (m.modD fun d =>
      { d with
        launches := d.launches ++ [⟨id, p, c.kern, p.nthr, 0, 0, 0, 0, 0, false, d.acyc, 0⟩]
        launchNext := id + 1
        meas := if d.measured.contains p.asid.toNat then
            setNth d.meas 2 (Config.sha256 (leBytes 32 (nth d.meas 2).toNat ++ leBytes 32 (Config.sha256 c.bytes).toNat))
          else d.meas }, some id)

/-- LAUNCH_COMPLETION (R313): every thread of a launch has ended. -/
def execLaunchCompletion (l : Nat) (s : State) : Host.Outcome State Fault Refusal :=
  event (fun m => match m.dev.launch? l with
    | none => m
    | some x =>
      if x.ended < x.nthr then m
      else
        let m := m.modD fun d =>
          { d with launches := d.launches.filter fun y => y.id ≠ l
                   lanes := d.lanes.map fun e => (e.1, { e.2 with live := e.2.live.filter (· ≠ l) }) }
        let o := launchOwner l
        let m := m.putCrec o x.pkt (if x.fault then 3 else 0) x.exit0 x.exitor x.nhalt
        let m := if x.pkt.cms = 0 then m else m.msCountV o x.pkt.asid x.pkt.cms 0 1
        m.toParent o x.pkt) s

/-! ### Device launch queues (R314) -/

/-- LAUNCH_QUEUE_ADMIT (R314): a packet moves from the overflow list into the queue. -/
def execLaunchQueueAdmit (die : Nat) (s : State) : Host.Outcome State Fault Refusal :=
  event (fun m => m.modD fun d =>
    match nth d.lover die with
    | p :: rest =>
      if (nth d.lqueue die).length < 256 then
        { d with lover := setNth d.lover die rest, lqueue := setNth d.lqueue die (nth d.lqueue die ++ [p]) }
      else d
    | [] => d) s
/-- LAUNCH_QUEUE_DEPARTURE (R362): the oldest packet leaves the queue and is checked. -/
def execLaunchQueueDeparture (die : Nat) (s : State) : Host.Outcome State Fault Refusal :=
  event (fun m => match nth m.dev.lqueue die with
    | [] => m
    | p :: rest => match m.startLaunch p with
      | .error a => m.modD fun d => d.waitFor p.asid a
      | .ok (m, _) => m.modD fun d => { d with lqueue := setNth d.lqueue die rest }) s

/-! ### Lanes (R307–R312, R364, R365) -/

/-- WIDX_WRITE (R309). -/
def execWidxWrite (lane : Nat) (v : BitVec 32) (s : State) : Host.Outcome State Fault Refusal :=
  event (fun m => if m.dev.lnrdy && lane < laneCount then m.modD fun d => d.writeWidx lane v else m.modD fun d => d.count 0 11) s
/-- LANE_RESET (R365). -/
def execLaneReset (lane : Nat) (s : State) : Host.Outcome State Fault Refusal :=
  event (fun m => if m.dev.lnrdy && lane < laneCount then m.modD fun d => d.resetLane lane else m.modD fun d => d.count 0 11) s

/-- EFLAGS of an entry (Table 13-4). -/
def LEntry.eflags (e : LEntry) : Nat := bf e.bytes 4 4
/-- The number of dependences: NDEP = 3 waits on none (R311). -/
def LEntry.ndep (e : LEntry) : Nat := bitsOf e.eflags 3 2 % 3
/-- Observe a dependence of an entry: bound at its milestone's home, seen at once when that is DONE, or left to polling when the
monitor table is full or the address does not translate (R312). -/
def Dev.watchDep (d : Dev) (asid : BitVec 16) (e : LEntry) (i : Nat) : LEntry :=
  match d.xlate asid (BitVec.ofNat 64 (bf e.bytes (8 + 8 * i) 8)) false with
  | .ok pa _ _ =>
    let w := d.num (pa + 8) 8
    if bitsOf w 5 5 = 1 then { e with seen := e.seen ++ [(i, decide (bitsOf w 6 6 = 1))] }
    else if d.tableFull pa then e
    else { e with binds := e.binds ++ [(i, pa)] }
  | _ => e

/-- LANE_ENTRY_READ (R309, R311, R364): a lap stops the lane, a wrong SEQ stops it, else the entry is read and RIDX advances. -/
def execLaneEntryRead (lane : Nat) (s : State) : Host.Outcome State Fault Refusal :=
  event (fun m =>
    let l := m.dev.lane lane
    if !l.en || l.stopped || l.widx = l.ridx || m.dev.readsStop l.asid [(l.lbase + BitVec.ofNat 64 (l.ridx.toNat % l.rsize * 128), 128)] then m
    else if l.lapped then m.modD fun d => d.lap lane
    else
      let a := l.lbase + BitVec.ofNat 64 (l.ridx.toNat % l.rsize * 128)
      match m.dev.imgAt l.asid a 128 with
      | .error (some p) => m.modD fun d => d.waitPage l.asid p
      | .error none => m
      | .ok b =>
        if b.num 0 4 ≠ l.ridx.toNat then
          let l := { l with seqerr := true, lostlo := l.ridx, losthi := l.ridx }
          m.modD fun d => (d.setLane lane l).laneRecord lane 0x45 l
        else
          let e : LEntry := ⟨l.ridx, b.toList, [], [], m.dev.rangePoisoned l.asid a 128⟩
          let e := (List.range e.ndep).foldl (fun e i => m.dev.watchDep l.asid e i) e
          (m.probeRange l.asid a 128).modD fun d => d.setLane lane { l with ridx := l.ridx + 1, entries := l.entries ++ [e] }) s

/-- DEPENDENCE_POLL (R312): word 1 of each dependence of the lane's next entry that holds no binding is read. -/
def execDependencePoll (lane : Nat) (s : State) : Host.Outcome State Fault Refusal :=
  event (fun m =>
    let l := m.dev.lane lane
    match l.entries with
    | [] => m
    | e :: rest =>
      let at_ := fun (i : Nat) => match m.dev.xlate l.asid (BitVec.ofNat 64 (bf e.bytes (8 + 8 * i) 8)) false with | .ok pa _ _ => some pa | _ => none
      let open_ := (List.range e.ndep).filter fun i => !e.seen.any (fun x => x.1 = i) && !(e.binds.any fun x => x.1 = i) &&
        !((at_ i).any fun pa => m.dev.stops pa 16)
      let e' := open_.foldl (fun e i => m.dev.watchDep l.asid e i) e
      let m := (open_.filterMap at_).foldl (fun (m : Mach) pa => m.probeHome (pa + 8) 8) m
      m.modD fun d => d.setLane lane { l with entries := e' :: rest }) s

/-- The die whose ready pool a lane's launch enters: the lowest that DMASK allows, or 0 (R316). -/
def Packet.poolDie (p : Packet) : Nat := ((List.range 4).find? fun d => bit p.aff d).getD 0

/-- LANE_ENTRY_START (R312): the lane's next entry starts its launch, completes as a MARK, or, on a poisoned dependence, starts with no
launch and STATUS 2. -/
def execLaneEntryStart (lane : Nat) (s : State) : Host.Outcome State Fault Refusal :=
  event (fun m =>
    let l := m.dev.lane lane
    match l.entries with
    | [] => m
    | e :: _ =>
      let ready := (List.range e.ndep).all fun i => e.seen.any fun x => x.1 = i
      let barrier := bitsOf e.eflags 1 1 = 1
      if !ready || (barrier && !l.live.isEmpty) then m
      else
        let reserved := bitsOf e.eflags 31 4 ≠ 0 || bitsOf e.eflags 3 2 = 3 || ((e.bytes.drop 0x18).take 40).any (· ≠ 0)
        let p : Packet := ⟨e.bytes.drop 64, l.asid, fld l.lcfg 9 8, bit l.lcfg 1, some (lane, e.k), reserved, none, 0, e.poison⟩
        let p := { p with die := p.poolDie }
        let gone := fun (m : Mach) (id : List Nat) => m.modD fun d =>
          let l := d.lane lane
          d.setLane lane { l with entries := l.entries.tail, live := l.live ++ id }
        if bitsOf e.eflags 0 0 = 1 then gone m []
        else if e.seen.any fun x => x.2 then gone (m.noLaunch p 2) []
        else match m.startLaunch p with
          | .error a => m.modD fun d => d.waitFor l.asid a
          | .ok (m, id) => gone m id.toList) s

end Sys2Proof.Machine
end

