-- ==== Sys2Proof/Machine/Moves.lean ====
section
/-! DEFINITION. Plain moves: the empty slot, register moves, spool ports and special registers (R68, R73–R79, R275, R382). -/

namespace Sys2Proof.Machine

/-- NOP (R68): the empty slot does nothing. -/
def execNop (_slot : Fin 8) (s : State) : Host.Outcome State Fault Refusal := slot (fun _ b => b) s

/-- MOVE (R73–R75): one source to one destination; ERRINJ_ADDR is RWP (R78). -/
def execMove (g : Grd) (src : Src) (dst : Dst) (s : State) : Host.Outcome State Fault Refusal :=
  slot (fun pre b =>
    let go := guarded pre b g src fun v mask b => b.write dst v mask
    match dst with
    | .errinjAddr => privileged pre b g go
    | .opnd u j => guarded pre b g src fun v mask b => (b.write dst v mask).setLsrc u j.val src mask
    | _ => go) s

/-- SPOOL_READ (R239, R275): the slot at RPOS, with the map of the winder's pattern; the spool advances once (R73). -/
def execSpoolRead (g : Grd) (sp : Fin 16) (dst : Dst) (s : State) : Host.Outcome State Fault Refusal :=
  slot (fun pre b =>
    let go := guarded pre b g (.spool sp) fun v mask b => b.write dst v mask
    match dst with
    | .errinjAddr => privileged pre b g go
    | .opnd u j => guarded pre b g (.spool sp) fun v mask b => (b.write dst v mask).setLsrc u j.val (.spool sp) mask
    | _ => go) s

/-- Writing a spool write port (R70, R74, R275): slot WPOS mod NSLOT, lanes without guard as zero bits, no map; WPOS advances once. -/
def Issue.pushSpool (b : Issue) (pre : Mach) (sp : Fin 16) (slot : Nat) (v : Val) (mask : BitVec 64) : Issue :=
  let x := nth pre.t.spools sp.val
  if !x.bound then b.trapAt slot 0x06
  else if !x.handle && x.total ≤ x.wpos.toNat then b.trapAt slot 0x12
  else if x.nslot ≤ x.filled then b.stallBy .other
  else
    let bytes := bytesOfVec (mergeVec mask (Vec.splat 0) v.vval.lanes)
    let b := b.modT fun t => t.putSpad (x.slotOff x.wpos) bytes false
    if b.pushed.contains sp then b
    else
      let b := b.modT fun t =>
        let y := nth t.spools sp.val
        { t with spools := setNth t.spools sp.val { y with wpos := y.wpos + 1 } }
      { b with pushed := sp :: b.pushed }

/-- SPOOL_WRITE (R239, R275). -/
def execSpoolWrite (g : Grd) (src : Src) (sp : Fin 16) (s : State) : Host.Outcome State Fault Refusal :=
  slot (fun pre b => guarded pre b g src fun v mask b => b.pushSpool pre sp g.slot.val v mask) s

/-- WRITE_TSCALE (R78): the value acts on matrix triggers issued 4 or more A-cycles later. -/
def execWriteTscale (g : Grd) (src : Src) (s : State) : Host.Outcome State Fault Refusal :=
  slot (fun pre b => guarded pre b g src fun v _ b =>
    b.modT fun t => { t with tscaleq := t.tscaleq ++ [(t.time + 4, v.word.setWidth 32)] }) s

/-- WRITE_MPC (R78): from the next bundle onward. -/
def execWriteMpc (g : Grd) (src : Src) (s : State) : Host.Outcome State Fault Refusal :=
  slot (fun pre b => guarded pre b g src fun v _ b => b.modSt fun x => { x with mpc := v.word }) s

/-- WRITE_STAT (R79): writing 1 clears. -/
def execWriteStat (g : Grd) (src : Src) (s : State) : Host.Outcome State Fault Refusal :=
  slot (fun pre b => guarded pre b g src fun v _ b => { b with clrS := b.clrS ||| (v.word.setWidth 32 &&& 15#32) }) s

/-- ERRINJ_CTL after a write (R382, R383): LEVEL and KIND as written, FIRED clear, ARM unless LEVEL or KIND is reserved. -/
def injOf (w : Word) : BitVec 32 :=
  let x := w.setWidth 32
  if 4 < fld x 11 8 || fld x 1 0 = 3 then x &&& 0x00000F03#32 else x &&& 0x80000F03#32

/-- WRITE_ERRINJ_CTL (R382, R383). -/
def execWriteErrinjCtl (g : Grd) (src : Src) (s : State) : Host.Outcome State Fault Refusal :=
  slot (fun pre b => privileged pre b g (guarded pre b g src fun v _ b =>
    b.modC fun c => { c with injCtl := injOf v.word })) s

end Sys2Proof.Machine
end

