-- ==== Sys2Proof/Machine/Scalar.lean ====
section
/-! DEFINITION. The scalar ALUs (R205, R206, Table 9-8): `sa0` in slot 1, `sa1` in slot 2. -/

namespace Sys2Proof.Machine

/-- A scalar ALU operation: its operands are the latches after the trigger's value is in the last one; the result goes to the
unit's port at i + LAT[cls] (R205). -/
def saOp (g : Grd) (src : Src) (nops cls : Nat) (f : Word → Word → Word → Word) (s : State) : Host.Outcome State Fault Refusal :=
  slot (fun pre b => trigger pre b g src (saUnit g.slot.val) nops fun c b =>
    b.resultS (portS c.u) cls (f (b.sl c.u 0) (b.sl c.u 1) (b.sl c.u 2))) s

/-- Leading zeros of 64 bits; 64 for 0. -/
def clz64 (a : Word) : Nat := if a = 0 then 64 else 63 - Nat.log2 a.toNat
/-- Trailing zeros of 64 bits; 64 for 0. -/
def ctz64 (a : Word) : Nat := ((List.range 64).find? fun i => bit a i).getD 64
/-- Set bits. -/
def popc64 (a : Word) : Nat := (List.range 64).foldl (fun n i => if bit a i then n + 1 else n) 0
/-- `bfx` (R206): pos = ctl[5:0], len = ctl[14:8]. -/
def bfxOf (a ctl : Word) : Word :=
  let len := fld ctl 14 8
  if len = 0 then 0 else zx (a >>> fld ctl 5 0) (min len 64)
/-- `bfi` (R206). -/
def bfiOf (a b ctl : Word) : Word :=
  let pos := fld ctl 5 0
  let m : Word := BitVec.ofNat 64 (2 ^ min (fld ctl 14 8) 64 - 1) <<< pos
  (a &&& ~~~m) ||| ((b <<< pos) &&& m)

/-- ADD (Table 9-8). -/
def execAdd (g : Grd) (src : Src) (s : State) : Host.Outcome State Fault Refusal :=
  saOp g src 2 0 (fun a b _ => a + b) s
/-- SUB (Table 9-8). -/
def execSub (g : Grd) (src : Src) (s : State) : Host.Outcome State Fault Refusal :=
  saOp g src 2 0 (fun a b _ => a - b) s
/-- MUL (Table 9-8). -/
def execMul (g : Grd) (src : Src) (s : State) : Host.Outcome State Fault Refusal :=
  saOp g src 2 1 (fun a b _ => a * b) s
/-- MULH_I64 (Table 9-8). -/
def execMulhI64 (g : Grd) (src : Src) (s : State) : Host.Outcome State Fault Refusal :=
  saOp g src 2 1 (fun a b _ => BitVec.ofInt 64 (a.toInt * b.toInt / 2 ^ 64)) s
/-- MULH_N64 (Table 9-8). -/
def execMulhN64 (g : Grd) (src : Src) (s : State) : Host.Outcome State Fault Refusal :=
  saOp g src 2 1 (fun a b _ => BitVec.ofNat 64 (a.toNat * b.toNat / 2 ^ 64)) s
/-- AND (Table 9-8). -/
def execAnd (g : Grd) (src : Src) (s : State) : Host.Outcome State Fault Refusal :=
  saOp g src 2 0 (fun a b _ => a &&& b) s
/-- OR (Table 9-8). -/
def execOr (g : Grd) (src : Src) (s : State) : Host.Outcome State Fault Refusal :=
  saOp g src 2 0 (fun a b _ => a ||| b) s
/-- XOR (Table 9-8). -/
def execXor (g : Grd) (src : Src) (s : State) : Host.Outcome State Fault Refusal :=
  saOp g src 2 0 (fun a b _ => a ^^^ b) s
/-- ANDN (Table 9-8). -/
def execAndn (g : Grd) (src : Src) (s : State) : Host.Outcome State Fault Refusal :=
  saOp g src 2 0 (fun a b _ => a &&& ~~~b) s
/-- SHL (Table 9-8). -/
def execShl (g : Grd) (src : Src) (s : State) : Host.Outcome State Fault Refusal :=
  saOp g src 2 0 (fun a b _ => a <<< (b.toNat % 64)) s
/-- SHR_N64 (Table 9-8). -/
def execShrN64 (g : Grd) (src : Src) (s : State) : Host.Outcome State Fault Refusal :=
  saOp g src 2 0 (fun a b _ => a >>> (b.toNat % 64)) s
/-- SHR_I64 (Table 9-8). -/
def execShrI64 (g : Grd) (src : Src) (s : State) : Host.Outcome State Fault Refusal :=
  saOp g src 2 0 (fun a b _ => a.sshiftRight (b.toNat % 64)) s
/-- ROTL (Table 9-8). -/
def execRotl (g : Grd) (src : Src) (s : State) : Host.Outcome State Fault Refusal :=
  saOp g src 2 0 (fun a b _ => a.rotateLeft (b.toNat % 64)) s
/-- MIN_I64 (Table 9-8). -/
def execMinI64 (g : Grd) (src : Src) (s : State) : Host.Outcome State Fault Refusal :=
  saOp g src 2 0 (fun a b _ => if a.slt b then a else b) s
/-- MIN_N64 (Table 9-8). -/
def execMinN64 (g : Grd) (src : Src) (s : State) : Host.Outcome State Fault Refusal :=
  saOp g src 2 0 (fun a b _ => if a.ult b then a else b) s
/-- MAX_I64 (Table 9-8). -/
def execMaxI64 (g : Grd) (src : Src) (s : State) : Host.Outcome State Fault Refusal :=
  saOp g src 2 0 (fun a b _ => if a.slt b then b else a) s
/-- MAX_N64 (Table 9-8). -/
def execMaxN64 (g : Grd) (src : Src) (s : State) : Host.Outcome State Fault Refusal :=
  saOp g src 2 0 (fun a b _ => if a.ult b then b else a) s
/-- CMPEQ (Table 9-8). -/
def execCmpeq (g : Grd) (src : Src) (s : State) : Host.Outcome State Fault Refusal :=
  saOp g src 2 0 (fun a b _ => b2w (a = b)) s
/-- CMPLT_I64 (Table 9-8). -/
def execCmpltI64 (g : Grd) (src : Src) (s : State) : Host.Outcome State Fault Refusal :=
  saOp g src 2 0 (fun a b _ => b2w (a.slt b)) s
/-- CMPLT_N64 (Table 9-8). -/
def execCmpltN64 (g : Grd) (src : Src) (s : State) : Host.Outcome State Fault Refusal :=
  saOp g src 2 0 (fun a b _ => b2w (a.ult b)) s
/-- CMPLE_I64 (Table 9-8). -/
def execCmpleI64 (g : Grd) (src : Src) (s : State) : Host.Outcome State Fault Refusal :=
  saOp g src 2 0 (fun a b _ => b2w (a.sle b)) s
/-- CMPLE_N64 (Table 9-8). -/
def execCmpleN64 (g : Grd) (src : Src) (s : State) : Host.Outcome State Fault Refusal :=
  saOp g src 2 0 (fun a b _ => b2w (a.ule b)) s
/-- SEL (Table 9-8). -/
def execSel (g : Grd) (src : Src) (s : State) : Host.Outcome State Fault Refusal :=
  saOp g src 3 0 (fun a b c => if c = 0 then b else a) s
/-- CLZ (Table 9-8). -/
def execClz (g : Grd) (src : Src) (s : State) : Host.Outcome State Fault Refusal :=
  saOp g src 1 0 (fun a _ _ => BitVec.ofNat 64 (clz64 a)) s
/-- CTZ (Table 9-8). -/
def execCtz (g : Grd) (src : Src) (s : State) : Host.Outcome State Fault Refusal :=
  saOp g src 1 0 (fun a _ _ => BitVec.ofNat 64 (ctz64 a)) s
/-- POPC (Table 9-8). -/
def execPopc (g : Grd) (src : Src) (s : State) : Host.Outcome State Fault Refusal :=
  saOp g src 1 0 (fun a _ _ => BitVec.ofNat 64 (popc64 a)) s
/-- SEXT_I8 (Table 9-8). -/
def execSextI8 (g : Grd) (src : Src) (s : State) : Host.Outcome State Fault Refusal :=
  saOp g src 1 0 (fun a _ _ => sx a 8) s
/-- SEXT_I16 (Table 9-8). -/
def execSextI16 (g : Grd) (src : Src) (s : State) : Host.Outcome State Fault Refusal :=
  saOp g src 1 0 (fun a _ _ => sx a 16) s
/-- SEXT_I32 (Table 9-8). -/
def execSextI32 (g : Grd) (src : Src) (s : State) : Host.Outcome State Fault Refusal :=
  saOp g src 1 0 (fun a _ _ => sx a 32) s
/-- ZEXT_N8 (Table 9-8). -/
def execZextN8 (g : Grd) (src : Src) (s : State) : Host.Outcome State Fault Refusal :=
  saOp g src 1 0 (fun a _ _ => zx a 8) s
/-- ZEXT_N16 (Table 9-8). -/
def execZextN16 (g : Grd) (src : Src) (s : State) : Host.Outcome State Fault Refusal :=
  saOp g src 1 0 (fun a _ _ => zx a 16) s
/-- ZEXT_N32 (Table 9-8). -/
def execZextN32 (g : Grd) (src : Src) (s : State) : Host.Outcome State Fault Refusal :=
  saOp g src 1 0 (fun a _ _ => zx a 32) s
/-- BFX (Table 9-8). -/
def execBfx (g : Grd) (src : Src) (s : State) : Host.Outcome State Fault Refusal :=
  saOp g src 2 0 (fun a b _ => bfxOf a b) s
/-- BFI (Table 9-8). -/
def execBfi (g : Grd) (src : Src) (s : State) : Host.Outcome State Fault Refusal :=
  saOp g src 3 0 (fun a b c => bfiOf a b c) s

end Sys2Proof.Machine
end

