-- ==== Sys2Proof/Machine/Runs.lean ====
section
/-! DEFINITION. From a checked slot to its meaning: the trigger rows of Table 4-5 in id order, each with the meaning that `exec` calls
for it. -/

namespace Sys2Proof.Machine

/-- The meaning of a slot row: guard, source, state. -/
abbrev Meaning := Grd → Src → State → Host.Outcome State Fault Refusal

/-- The meanings of the triggers of seq in id order from 0x200 (Table 4-5). -/
def seqRuns : List Meaning :=
  [execBr, execBrc, execBrx, execCall, execCallx, execRet, execLoop, execLend] ++
  [execLbrk, execWait, execWaita, execYield, execHalt, execTrap, execDual, execFmtw] ++
  [execNtreq, execLaunch, execLaunchw, execSecgo, execSecstop, execFset, execFclr, execSkjoin] ++
  [execSkleave, execCropen, execCrclose, execCrabort]

/-- The meanings of the triggers of sys in id order from 0x220 (Table 4-5). -/
def sysRuns : List Meaning :=
  [execRdsr, execPcrd, execBrkp, execIvqw, execErrrd, execCtxsv, execCtxld, execQsce]

/-- The meanings of the triggers of sa0, sa1 in id order from 0x240 (Table 4-5). -/
def saRuns : List Meaning :=
  [execAdd, execSub, execMul, execMulhI64, execMulhN64, execAnd, execOr, execXor] ++
  [execAndn, execShl, execShrN64, execShrI64, execRotl, execMinI64, execMinN64, execMaxI64] ++
  [execMaxN64, execCmpeq, execCmpltI64, execCmpltN64, execCmpleI64, execCmpleN64, execSel, execClz] ++
  [execCtz, execPopc, execSextI8, execSextI16, execSextI32, execZextN8, execZextN16, execZextN32] ++
  [execBfx, execBfi]

/-- The meanings of the triggers of ls in id order from 0x280 (Table 4-5). -/
def lsRuns : List Meaning :=
  [execLdI8, execLdN8, execLdI16, execLdN16, execLdI32, execLdN32, execLdI64, execStN8] ++
  [execStN16, execStN32, execStN64, execInvr, execWbr, execPrefl, execLdl]

/-- The meanings of the triggers of fa0, fa1, fb0, fb1 in id order from 0x290 (Table 4-5). -/
def faRuns : List Meaning :=
  [execFaddF32, execFaddBf16, execFaddF16, execFsubF32, execFsubBf16, execFsubF16, execFmulF32, execFmulBf16] ++
  [execFmulF16, execFmaF32, execFmaBf16, execFmaF16, execFminF32, execFminBf16, execFminF16, execFmaxF32] ++
  [execFmaxBf16, execFmaxF16, execFabsF32, execFnegF32, execFrndF32, execFcmpeqF32, execFcmpltF32, execFcmpleF32] ++
  [execFcmpunF32, execVadd, execVsub, execVmul, execVminI32, execVminN32, execVmaxI32, execVmaxN32] ++
  [execVand, execVor, execVxor, execVshl, execVshrN32, execVshrI32, execVcmpeq, execVcmpltI32] ++
  [execVcmpltN32, execVsel, execVcasF32, execVcasI32, execVcasN32, execVbperm, execVlperm, execVredF32] ++
  [execVredI32, execVredN32, execVscanF32, execVscanI32, execVcmpact, execVcvtfI32, execVcvtiF32, execVcvtBf16] ++
  [execVcvtF16, execCmset, execCmaff, execCmtrn, execCmst, execCmslc, execCmidx, execCmclr] ++
  [execVknfN32, execVknfF32, execNrcinc, execQand, execQor, execQxor, execQandn, execQcnt] ++
  [execQffs, execVbcast]

/-- The meanings of the triggers of sfa, sfb in id order from 0x310 (Table 4-5). -/
def sfRuns : List Meaning :=
  [execExp, execExp2, execLog, execRcp, execRsqrt, execTanh, execSigm, execSin] ++
  [execCos, execErf]

/-- The meanings of the triggers of vma, vmb in id order from 0x330 (Table 4-5). -/
def vmRuns : List Meaning :=
  [execVld, execVldl, execVst, execVldf, execVldfc, execVstf, execVfe, execVfeclr] ++
  [execVldq, execVstq]

/-- The meanings of the triggers of mx in id order from 0x350 (Table 4-5). -/
def mxRuns : List Meaning :=
  [execMldt, execMstt, execMmov, execMzer, execMqs, execMqss, execMqsr, execMfold] ++
  [execMdrn, execMkat, execMsts, execMcrr]

/-- The meanings of the triggers of xf in id order from 0x380 (Table 4-5). -/
def xfRuns : List Meaning :=
  [execXcvtBf16, execXcvtF16, execXcvtE4m3, execXcvtE5m2, execXcvtE2m3, execXcvtE3m2, execXcvtE2m1, execXcvtI8] ++
  [execXcvtN8, execXcvtI4, execXcvtN4, execXexpBf16, execXexpF16, execXexpE4m3, execXexpE5m2, execXexpE2m3] ++
  [execXexpE3m2, execXexpE2m1, execXexpI8, execXexpN8, execXexpI4, execXexpN4, execXexpQ4k, execXtrnN8] ++
  [execXtrnN16, execXtrnN32, execXqntE4m3, execXqntE5m2, execXqntE2m3, execXqntE3m2, execXqntE2m1, execXqntI8] ++
  [execXqntQ4k, execXzipN8, execXzipN16, execXunzN8, execXunzN16]

/-- The meanings of the triggers of en in id order from 0x3b0 (Table 4-5). -/
def enRuns : List Meaning :=
  [execWind, execUnwindSpool, execSpadv, execCopy, execGath, execScat, execKvg, execCmpx] ++
  [execXchg, execColl, execDrain, execFence, execPrefh, execMigr, execEnq]

/-- The meanings of the triggers of am in id order from 0x3e0 (Table 4-5). -/
def amRuns : List Meaning :=
  [execAaddI32, execAaddI64, execAaddF32, execAaddBf16, execAminI32, execAminI64, execAminN32, execAminN64] ++
  [execAmaxI32, execAmaxI64, execAmaxN32, execAmaxN64, execAandN32, execAandN64, execAorN32, execAorN64] ++
  [execAxorN32, execAxorN64, execAswpN32, execAswpN64, execAcasN32, execAcasN64, execHinit, execHoffer] ++
  [execHtake, execBalloc, execBfree, execMsarm, execMsarv, execMsbind]

/-- The meaning of a trigger id (Table 4-5). -/
def trigRun (id : Nat) : Option Meaning :=
  if id < 0x220 then seqRuns[id - 0x200]?
  else if id < 0x240 then sysRuns[id - 0x220]?
  else if id < 0x280 then saRuns[id - 0x240]?
  else if id < 0x290 then lsRuns[id - 0x280]?
  else if id < 0x310 then faRuns[id - 0x290]?
  else if id < 0x330 then sfRuns[id - 0x310]?
  else if id < 0x350 then vmRuns[id - 0x330]?
  else if id < 0x380 then mxRuns[id - 0x350]?
  else if id < 0x3B0 then xfRuns[id - 0x380]?
  else if id < 0x3E0 then enRuns[id - 0x3B0]?
  else amRuns[id - 0x3E0]?

/-- What a checked slot does: the meaning of its row (`Raw.instr`). -/
def runRaw (r : Raw) (s : State) : Host.Outcome State Fault Refusal :=
  match r with
  | .empty n => execNop n s
  | .move dest g src =>
    if 0x200 ≤ dest then (match trigRun dest with | some f => f g src s | none => .next s)
    else if 0xB0 ≤ dest && dest < 0xC0 then execSpoolWrite g src (Fin.ofNat 16 (dest - 0xB0)) s
    else if dest = 0xC1 then execWriteTscale g src s
    else if dest = 0xC4 then execWriteMpc g src s
    else if dest = 0xC6 then execWriteStat g src s
    else if dest = 0xCB then execWriteErrinjCtl g src s
    else match dstOfId dest with
      | some d =>
        match src with
        | .spool sp => execSpoolRead g sp d s
        | _ => execMove g src d s
      | none => .next s

end Sys2Proof.Machine
end

