-- ==== Sys2Proof/Machine/Sched.lean ====
section
/-! DEFINITION. The scheduler and the context engine (R37–R39, R44, R131, R194, R315–R320, R352–R357): placement, pool changes, quanta,
ageing, saves, restores, and the end of a thread. -/

namespace Sys2Proof.Machine

/-! ### What a place leaves in the scratchpad region (R131) -/

/-- The bytes of a range of a memory, counted from its start. -/
def Mem.window (m : Mem) (lo n : Nat) : Mem := (m.filter fun c => lo ≤ c.1 && c.1 < lo + n).map fun c => (c.1 - lo, c.2)
/-- A memory without a range. -/
def Mem.without (m : Mem) (lo n : Nat) : Mem := m.filter fun c => !(lo ≤ c.1 && c.1 < lo + n)
/-- A memory whose range of `n` addresses from `lo` is replaced by entries that lie in it. -/
def Mem.splice (m : Mem) (lo n : Nat) (x : Mem) : Mem :=
  let r := m.without lo n
  r.takeWhile (fun c => c.1 < lo) ++ x ++ r.dropWhile fun c => c.1 < lo
/-- A memory that holds some bytes from address 0 on. -/
def Mem.ofBytes (bs : List Byte) : Mem := bs.zipIdx.filterMap fun e => if e.1 = 0 then none else some (e.2, e.1)
/-- Granule numbers of a range, counted from its start. -/
def granWindow (gs : List Nat) (lo n : Nat) : List Nat := (gs.filter fun g => lo ≤ g && g < lo + n).map (· - lo)
/-- Granule numbers with those of a range replaced. -/
def granMerge (gs : List Nat) (lo n : Nat) (new : List Nat) : List Nat :=
  (gs.filter fun g => !(lo ≤ g && g < lo + n)) ++ new.map (· + lo)

/-- The acting place's thread leaves the core; its scratchpad stays in the region. -/
def Mach.vacate (m : Mach) : Mach :=
  let t := m.t
  let base := m.spadBase - (m.core.poolb[0]).toNat
  let n := m.spadSize
  let m := m.modC fun c =>
    { c with
      left := c.left.splice base n ((t.spad.window 0 n).map fun e => (e.1 + base, e.2))
      leftFe := granMerge c.leftFe (base / 16) (n / 16) t.fe
      leftPoison := granMerge c.leftPoison (base / 16) (n / 16) t.spadPoison }
  m.setT Thr.zero

/-- A thread comes to a place: the scratchpad it finds is what is given, or what the region holds, cleared when the core's previous
occupant belonged to another space; the fill writes its register set, whose poison it clears (R369). The first collision goes to the even place (R31). -/
def Mach.install (m : Mach) (pl : Place) (t : Thr) (spad : Option (Mem × List Nat)) : Mach :=
  let other := m.core.lastAsid ≠ some t.asid
  let m := m.modC fun c =>
    { c with
      lastAsid := some t.asid
      winNext := .p0
      regPoison :=
        let n := rset t.T / 16
        let lo := match pl with | .p0 => 0 | .p1 => n
        c.regPoison.filter fun g => !(lo ≤ g && g < lo + n)
      left := if other then [] else c.left
      leftFe := if other then [] else c.leftFe
      leftPoison := if other then [] else c.leftPoison }
  let m := match pl with | .p0 => { m with thr0 := t } | .p1 => { m with thr1 := t }
  let a := m.at_ pl
  let base := a.spadBase - (m.core.poolb[0]).toNat
  let n := a.spadSize
  let t := match spad with
    | some (b, fe) => { t with spad := b, fe := fe, spadPoison := [] }
    | none => { t with spad := m.core.left.window base n, fe := granWindow m.core.leftFe (base / 16) (n / 16)
                       spadPoison := granWindow m.core.leftPoison (base / 16) (n / 16) }
  (a.setT t).at_ m.cur

/-! ### Who may be placed where (R130, R131, R315, R317) -/

/-- What a waiting thread needs of a core. -/
structure Want where
  prio : Nat
  kern : Kern
  asid : BitVec 16
  T : Nat
  paired : Bool
  launch : Nat
  flags : BitVec 32
  child : Option TRef

/-- The parent that a packet's launch is to replace on its place (R315). -/
def Packet.parkedBy (p : Packet) : Option TRef := match p.parent with | some (r, _, true) => some r | _ => none
/-- The need of a launch's next thread. -/
def Dev.wantOf (d : Dev) (l : Launch) : Want :=
  let f := d.iflags l.pkt.asid l.pkt.cimg
  ⟨l.prio, l.kern, l.pkt.asid, fld f 5 3, bit f 1, l.id, f, if l.nextTid = 0 then l.pkt.parkedBy else none⟩
/-- The need of a saved thread. -/
def Dev.wantSaved (d : Dev) (s : Saved) : Want :=
  let f := d.iflags s.asid s.area
  ⟨s.level, s.kern, s.asid, min 4 (fld f 5 3), bit f 1, s.ref.launch, f, none⟩

/-- The place waits for the first thread of a parked parent's child (R315): the child is not placed yet and may use the core, and its POOLREQ, once
known, matches the core's boundaries. -/
def Mach.keptFor (m : Mach) (pl : Place) : Option TRef :=
  let d := m.dev
  let comes := fun (r : TRef) =>
    (d.lqueue.toList ++ d.lover.toList).any (fun q => q.any fun p => p.parkedBy = some r) ||
    d.launches.any fun l => l.nextTid = 0 && l.pkt.parkedBy = some r && l.kern.pool = m.core.poolb &&
      d.mayUse l.pkt l.since m.core.die (m.core.cluster % 9)
  (d.saved.find? fun s => s.kids ≠ 0 && s.parkPl.contains pl && comes s.ref).map fun s => s.ref
/-- The place is not kept for another. -/
def Mach.notKept (m : Mach) (w : Want) (pl : Place) : Bool := match m.keptFor pl with | some r => w.child = some r | none => true
/-- A place is free for a thread. -/
def Mach.openFor (m : Mach) (w : Want) (pl : Place) : Bool :=
  !(match pl with | .p0 => m.thr0.live | .p1 => m.thr1.live || m.thr0.paired) && m.notKept w pl
/-- The core takes new threads: in service, its die not stopped, no pool change in progress. -/
def Mach.coreTakes (m : Mach) : Bool :=
  !m.core.failing && !m.core.retired && !bit m.dev.qstop m.core.die && m.core.reconf.isNone && 5 ≤ m.dev.stageNo
/-- Neither place of the core holds a thread. -/
def Mach.coreFree (m : Mach) : Bool := !m.thr0.live && !m.thr1.live
/-- The cluster of the core can be given to the thread's kernel as FUSEDL1 asks (R317 condition 4). -/
def Mach.fits (m : Mach) (w : Want) : Bool := m.dev.fusedFits w.launch w.flags m.core.die (m.core.cluster % 9)
/-- The places that the parked parent of a child left (R315). -/
def Mach.parkedAt (m : Mach) (w : Want) : List Place := match w.child.bind m.dev.savedOf with | some x => x.parkPl | none => []
/-- The place that R317 gives a thread on this core: the lowest-numbered, but for a child the place that its parent left (R315). -/
def Mach.placeFor (m : Mach) (w : Want) : Option Place :=
  if !m.coreTakes || !m.fits w || m.core.poolb ≠ w.kern.pool then none
  else if m.coreFree then
    if w.paired then (if m.openFor w .p0 && m.openFor w .p1 then some .p0 else none)
    else
      let one := m.core.twoSets w.T && m.openFor w .p1
      if m.openFor w .p0 && !(one && m.parkedAt w = [.p1]) then some .p0 else if one then some .p1 else none
  else
    let here := if m.thr0.live then m.thr0 else m.thr1
    if w.paired || here.paired || here.kern ≠ w.kern || here.asid ≠ w.asid || !m.core.twoSets w.T || !m.core.twoSets here.T then none
    else if m.openFor w .p0 then some .p0 else if m.openFor w .p1 then some .p1 else none
/-- The core may be changed for a thread (R131, R317); a place that is kept for a child is no free core's (R315). -/
def Mach.changeFor (m : Mach) (w : Want) : Bool :=
  m.coreTakes && m.fits w && m.coreFree && m.core.poolb ≠ w.kern.pool && m.notKept w .p0 && m.notKept w .p1
/-- The thread can be served by this core now. -/
def Mach.serves (m : Mach) (w : Want) : Bool := (m.placeFor w).isSome || m.changeFor w

/-! ### Whose turn it is (R315, R318) -/

/-- A runnable thread that waits for a place: the next of a launch, or a saved one with its number among those. -/
inductive Claim where
  | launch (l : Launch)
  | saved (k : Nat) (s : Saved)
/-- The kernel that a claim is served for, as its launch numbers it. -/
def Claim.key : Claim → Nat | .launch l => l.id | .saved _ s => s.ref.launch
/-- The thread id of a claim. -/
def Claim.tid : Claim → Nat | .launch l => l.nextTid | .saved _ s => s.ref.tid.toNat
/-- What a claim needs. -/
def Claim.want (d : Dev) : Claim → Want | .launch l => d.wantOf l | .saved _ s => d.wantSaved s
/-- The ranges that a claim's placement reads. -/
def Claim.reads (d : Dev) : Claim → BitVec 16 × List (Word × Nat)
  | .launch l => (l.pkt.asid, d.ctxtReads l.pkt.asid l.pkt.cimg)
  | .saved _ s => (s.asid, let T := min 4 (fld (d.iflags s.asid s.area) 5 3); [(s.area, ctxSize T), (s.area + BitVec.ofNat 64 (spOff T), s.spad + s.spad / 128)])
/-- The page that a claim's placement waits for. -/
def Dev.claimPage (d : Dev) (c : Claim) : Option Word :=
  let (asid, rs) := c.reads d
  rs.findSome? fun r => match d.engRange asid r.1 r.2 false with | .absent p => some p | _ => none
/-- A page or a stopped die holds a claim back. -/
def Dev.claimHeld (d : Dev) (c : Claim) : Bool := (d.claimPage c).isSome || (let (asid, rs) := c.reads d; d.readsStop asid rs)

/-- The threads that this core may take. -/
def Mach.claims (m : Mach) : List Claim :=
  let d := m.dev
  let die := m.core.die
  let cl := m.core.cluster % 9
  (((d.launches.filter fun l => l.waits && d.mayUse l.pkt l.since die cl).map Claim.launch) ++
    ((d.saved.zipIdx.filter fun s => s.1.waits && d.mayRestore s.1 die cl).map fun s => Claim.saved s.2 s.1)).filter fun c => m.serves (c.want d)
/-- The order of claims of one level: round-robin over kernels from the one served last, then thread ids (R318). -/
def Claim.before (rr : Nat) (a b : Claim) : Bool :=
  let late := fun (c : Claim) => decide (c.key ≤ rr)
  (!late a && late b) || (late a = late b && (a.key < b.key || (a.key = b.key && a.tid < b.tid)))
/-- The first of claims in that order. -/
def Claim.first (rr : Nat) : List Claim → Option Claim
  | [] => none
  | c :: cs => match Claim.first rr cs with | some x => some (if x.before rr c then x else c) | none => some c
/-- The thread that this core serves next (R315, R318): the first thread of a parked parent's child, else one of the highest level, which needs no
change of the core if there is such a one. -/
def Mach.nextClaim (m : Mach) : Option Claim :=
  let d := m.dev
  let cs := m.claims.filter fun c => !d.claimHeld c
  let fit := fun (c : Claim) => (m.placeFor (c.want d)).isSome
  let kids := cs.filter fun c => (c.want d).child.isSome && fit c
  let pool := if kids.isEmpty then cs else kids
  let top := (pool.map fun c => (c.want d).prio).foldl max 0
  let high := pool.filter fun c => (c.want d).prio = top
  Claim.first (nth d.rr top) (if high.any fit then high.filter fit else high)
/-- A kernel has been served at a level: the next turn of that level begins behind it (R318). -/
def Dev.served (d : Dev) (level kernel : Nat) : Dev := { d with rr := setNth d.rr level kernel }

/-- Begin to change the pool boundaries (R131). -/
def Mach.reconfigure (m : Mach) (pool : Vector (BitVec 32) 3) : Mach :=
  m.modC fun c => { c with reconf := some (m.dev.acyc + 16384, pool) }

/-- POOL_RECONFIGURE_DONE (R131): 16,384 A-cycles after it began the region and the scratchpad are zero, L1 holds no lines. -/
def execPoolReconfigureDone (s : State) : Host.Outcome State Fault Refusal :=
  event (fun m => match m.core.reconf with
    | some (at_, pool) =>
      if m.dev.acyc < at_ || !m.coreFree || m.core.l1.any (fun l => l.dirty && m.dev.stops (128 * l.line) 128) then m
      else (m.flushLines m.core.l1).modC fun c =>
        { c with poolb := pool, reconf := none, l1 := [], left := [], leftFe := [], leftPoison := [], regPoison := [] }
    | none => m) s

/-! ### Placing a new thread (R27–R30, R317) -/

/-- The thread of a launch before the fill: what the packet gives. -/
def Launch.base (l : Launch) (tid acyc : Nat) (prio : Nat) : Thr :=
  { Thr.zero with
    ref := ⟨l.id, BitVec.ofNat 32 tid, none⟩
    tid := BitVec.ofNat 32 tid
    asid := l.pkt.asid
    prio := prio
    save := l.pkt.save + BitVec.ofNat 64 (tid * l.pkt.sastr)
    kern := l.kern
    tgstr := l.pkt.tgstr
    placedAt := acyc }
/-- A thread that ends at its restore, or whose image can no longer be read at its fill (R357): it issues no bundle. -/
def Thr.restfail (t : Thr) (attached : Bool) : Thr :=
  if attached then { t with status := .running, halted := some (.fault 0x47 0) }
  else t.startEnd 0xFE (some ⟨1, 0x47, 0, 0, BitVec.allOnes 64, BitVec.allOnes 64⟩)

/-- Place the next thread of a launch. The thread of a device launch reads no copy that its launch event has left behind (R163 case 5); one that takes its
parked parent's place takes it outside its level's turn (R315). -/
def Mach.placeNext (m : Mach) (l : Launch) (pl : Place) : Mach :=
  let base := l.base l.nextTid m.dev.acyc l.prio
  let m := m.probeAll l.pkt.asid (m.dev.ctxtReads l.pkt.asid l.pkt.cimg)
  let fill := fun (t : Thr) =>
    let m := m.install pl t none
    m.modD fun d =>
      let d := if (d.wantOf l).child.isSome then d else d.served l.prio l.id
      let d := if l.pkt.parent.isSome then d.shun base.ref m.core.die else d
      { d with launches := d.launches.map fun x => if x.id = l.id then { x with nextTid := x.nextTid + 1 } else x }
  match m.dev.ctxt l.pkt.asid l.pkt.cimg with
  | .ok c => fill { c.thread (bit c.flags 0) none base with priv := bit c.flags 7 && l.pkt.firmware }
  | .error _ => fill (base.restfail (m.dev.dbg.attached.contains l.id))

/-- THREAD_PLACEMENT (R317, R318): the thread whose turn it is comes to its place when it is a launch's, or the free core is changed for it; pages that
claims wait for are asked for (R153). -/
def execThreadPlacement (s : State) : Host.Outcome State Fault Refusal :=
  event (fun m =>
    let m := m.claims.foldl (fun (m : Mach) c => match c with
      | .launch l => m.modD fun d => d.waitFor l.pkt.asid (d.claimPage c)
      | .saved _ _ => m) m
    match m.nextClaim with
    | some (.launch l) => match m.placeFor (m.dev.wantOf l) with
      | some pl => m.placeNext l pl
      | none => m.reconfigure l.kern.pool
    | _ => m) s

/-! ### Quanta and ageing (R44, R319) -/

/-- The placed threads of the core. -/
def Mach.placedThr (m : Mach) : List Thr := (if m.thr0.live then [m.thr0] else []) ++ (if m.thr1.live then [m.thr1] else [])
/-- Of threads, the one of lowest priority, placed longest among equals. -/
def lowest : List Thr → Option Thr
  | [] => none
  | t :: ts => match lowest ts with
    | none => some t
    | some u => if t.prio < u.prio || (t.prio = u.prio && t.placedAt ≤ u.placedAt) then some t else some u

/-- QUANTUM_BOUNDARY (R319): the scheduler of the core's die raises at most one pre-emption request. -/
def execQuantumBoundary (s : State) : Host.Outcome State Fault Refusal :=
  event (fun m =>
    let q := m.dev.acyc / quantumLen
    if q ≤ m.dev.quantum then m
    else
      let m := m.modD fun d => { d with quantum := q }
      let ws := (List.range 9).flatMap fun c => m.dev.waiting m.core.die c
      if ws.isEmpty then m
      else
        let p := (ws.map fun w => w.1).foldl max 0
        let low := lowest (m.placedThr.filter fun t => t.prio < p)
        let old := lowest (m.placedThr.filter fun t => t.prio = p && t.placedAt + m.dev.slice * quantumLen ≤ m.dev.acyc)
        match low <|> old with
        | some t => m.modRef t.ref fun t => { t with preq := true }
        | none => m) s

/-- A thread that waits since `since` and has risen by `boost` levels has waited another 2^24 A-cycles (R44). -/
def Dev.aged (d : Dev) (since boost level : Nat) : Bool := since + 2 ^ 24 * (boost + 1) ≤ d.acyc && level < 3
/-- AGEING_PROMOTION (R44): a thread that has waited 2^24 A-cycles unplaced rises a level; saved threads are numbered first, then
launches. -/
def execAgeingPromotion (k : Nat) (s : State) : Host.Outcome State Fault Refusal :=
  event (fun m =>
    let d := m.dev
    match d.saved[k]? with
    | some x =>
      if x.waits && d.aged x.since x.boost x.level then { m with dev := { d with saved := d.saved.set k { x with boost := x.boost + 1 } } } else m
    | none => match d.launches[k - d.saved.length]? with
      | some l =>
        if l.waits && d.aged l.since l.boost l.prio then
          { m with dev := { d with launches := d.launches.set (k - d.saved.length) { l with boost := l.boost + 1 } } }
        else m
      | none => m) s

/-! ### Context operations that wait (R212) -/

/-- Every thread of the core's die is saved: the flags of `qsce`. -/
def Mach.drainedDie (m : Mach) : Mach :=
  if !m.coreFree then m
  else
    let done := m.dev.ctxWaits.filter fun w => w.die = some m.core.die
    done.foldl (fun m w => m.setFlag w.own w.flag)
      (m.modD fun d => { d with ctxWaits := d.ctxWaits.filter fun w => w.die ≠ some m.core.die })
/-- The `ctxsv` operations that wait for a thread: its save area and id, or, for a thread that ended instead, all ones; the flag follows the
record. -/
def Mach.answerCtxsv (m : Mach) (r : TRef) (area : Option Word) : Mach :=
  let done := m.dev.ctxWaits.filter fun w => w.target = some r
  let bs := match area with
    | some a => leBytes 8 a.toNat ++ leBytes 8 r.tid.toNat
    | none => List.replicate 16 0xFF
  done.foldl (fun m w =>
      let o := launchOwner m.dev.launchNext
      let m := m.modD fun d => { d with launchNext := d.launchNext + 1 }
      match w.record with
      | some (asid, a) => (m.putRecord o asid a bs).flagAfter o asid w.own w.flag
      | none => m.setFlag w.own w.flag)
    (m.modD fun d => { d with ctxWaits := d.ctxWaits.filter fun w => w.target ≠ some r })

/-! ### Saves (R37, R404, R357) -/

/-- The bytes of a thread's save area. -/
def Mach.areaSize (m : Mach) : Nat := spOff m.t.T + m.spadSize + m.spadSize / 128
/-- Step 2 of R37: what the thread triggered completes; an L1 miss becomes a result in flight of `ls.r`. -/
def Mach.quiesce (m : Mach) : Mach :=
  let m := m.drainTiles
  let m := m.modT fun t =>
    let mine := fun (sec : Bool) => (t.land.filter fun l => l.dst = .lsr && l.sec = sec).map fun l =>
      (⟨.inl .lsr, l.due, l.due, allLanes, (l.data.getD VVal.zero).scalar, VVal.zero⟩ : Pend)
    { t with prim := { t.prim with pend := t.prim.pend ++ mine false }, sec := { t.sec with pend := t.sec.pend ++ mine true }
             land := t.land.filter fun l => l.dst ≠ .lsr || l.poison.isSome }
  m.modT Thr.doRestart
/-- The thread has stopped and nothing it issued is still on its way (R37 steps 1–4). -/
def Thr.saveReady (t : Thr) : Bool :=
  t.status = .saving && t.halted = none && t.xfaults.isEmpty && t.unw.all (fun u => t.time < u.due) && t.hops.isEmpty &&
    t.land.all (fun l => l.data.isSome) && t.spools.toList.all fun s => s.skip.isEmpty
/-- The physical units that take poison: a granule of the scratchpad, a landing in the buffer, a result in flight. -/
def Thr.areaPoison (t : Thr) (S : Nat) (d : Dev) : Dev :=
  let spot := fun (d : Dev) (off n : Nat) => match d.engRange t.asid (t.save + BitVec.ofNat 64 off) n true with
    | .ok ps => ps.foldl (fun d p => d.poisonPa p.1 p.2) d
    | _ => d
  let d := (t.spadPoison.filter fun g => 16 * g < S).foldl (fun d g => spot d (spOff t.T + 16 * g) 16) d
  let d := if t.land.any fun l => l.poison.isSome then spot d (secOff t.T 11) 64 else d
  if t.unw.any fun u => u.cause = 0x81 then spot d (secOff t.T 10) 64 else d

/-- CONTEXT_SAVE (R37, R404): the image and the scratchpad go to the save area, and the places are released. -/
def execContextSave (pl : Place) (s : State) : Host.Outcome State Fault Refusal :=
  event (fun m0 =>
    let m := m0.at_ pl
    if !m.t.saveReady || m.t.saveFrom + 2 ^ 26 ≤ m.dev.milepost then m0
    else match m.dev.engRange m.t.asid m.t.save m.areaSize true with
      | .fault _ => m0
      | .absent a => (m.modD fun d => d.waitPage m.t.asid a).at_ m0.cur
      | .ok ps =>
        if ps.any fun p => m.dev.stops p.1 p.2 then m0
        else
        let m := m.quiesce
        let S := m.spadSize
        let m := m.probeSpad (List.range (S / 16))
        let t := m.t
        let img := padded t.image (spOff t.T) ++ Mem.readN t.spad 0 S ++ feImage t.fe S
        let asked := m.dev.ctxWaits.any fun w => w.target = some t.ref
        let base := match m.dev.launch? t.ref.launch with | some l => l.pkt.prio | none => t.prio
        let fw := match m.dev.launch? t.ref.launch with | some l => l.pkt.firmware | none => false
        let x : Saved :=
          ⟨t.ref, t.asid, t.save, base, fw, t.kern, !asked, t.kids, if !t.park then [] else if t.paired then [.p0, .p1] else [pl], m.dev.acyc, 0, [],
           t.skeins.toList.filterMap fun k => k.map fun k => k.obj, m.core.twoSets t.T && !t.paired, t.unw.filter fun u => u.cause ≠ 0x81, t.keep⟩
        let m := m.modD fun d =>
          let d := d.writeRanges ps img false
          { t.areaPoison S d with saved := d.saved ++ [x] }
        let m := m.vacate
        ((m.answerCtxsv t.ref (some t.save)).drainedDie).at_ m0.cur) s

/-- The CLASS of the error record of a fatal end (Table 21-3). -/
def faultClass (code : Nat) : Nat := if code < 0x80 then 1 else if code = 0x81 then 4 else 3
/-- A thread has a fatal end (R354): it halts first when a debugger is attached. -/
def Mach.fatalEnd (m : Mach) (code : Nat) (addr : Word) : Mach :=
  m.modT fun t =>
    if m.dev.dbg.attached.contains t.ref.launch then { t with halted := some (.fault code addr) }
    else t.startEnd 0xFE (some ⟨faultClass code, code, 0, addr, t.prim.pc, t.sec.pc⟩)

/-- The acting thread's save fails: what its area then holds is open, landings still recorded are discarded (R363), and the thread has a fatal end
(R357). -/
def Mach.saveFails (m : Mach) : Mach :=
  let t := m.t
  let m := (pieces t.save.toNat m.areaSize 0x10000).foldl (fun m p =>
    match m.dev.engRange t.asid (BitVec.ofNat 64 p.1) p.2 true with
    | .ok qs =>
      let f := m.dev.free
      m.modD fun d => { d with free := f + p.2 }.writeRanges qs ((List.range p.2).map fun i => Config.freeByte (f + i)) false
    | _ => m) m
  (m.modT fun t => { t with land := [], wout := 0, preq := false, park := false }).fatalEnd 0x46 0
/-- SAVEFAIL (R357): the area faults, meets an uncorrectable error (`err` of `x`), or the save has not been done 2^26 A-cycles after it began. -/
def execSavefail (x : SaveEnd) (s : State) : Host.Outcome State Fault Refusal :=
  event (fun m0 =>
    let m := m0.at_ x.pl
    let t := m.t
    let fault := match m.dev.engRange t.asid t.save m.areaSize true with | .fault _ => true | _ => false
    if t.status ≠ .saving || t.halted ≠ none || !(fault || x.err || t.saveFrom + 2 ^ 26 ≤ m.dev.milepost) then m0
    else m.saveFails.at_ m0.cur) s

/-! ### Restores (R39, R357) -/

/-- The scratchpad of a save area, or the page that stops the read. -/
def Dev.areaSpad (d : Dev) (s : Saved) (T S : Nat) : Except (Option Word) (Mem × List Nat) := do
  let a := s.area + BitVec.ofNat 64 (spOff T)
  let b ← d.imgAt s.asid a S
  let f ← d.imgAt s.asid (a + BitVec.ofNat 64 S) (S / 128)
  pure (Mem.ofBytes b.toList, (List.range (S / 16)).filter fun g => bit (f.getD (g / 8) 0) (g % 8))

/-- A saved thread comes to a place; results in flight and landings keep their offsets. A poisoned, unreadable or invalid area ends it with
RESTFAIL (R357). -/
def Mach.restoreAt (m : Mach) (k : Nat) (x : Saved) (pl : Place) : Mach :=
  let w := m.dev.wantSaved x
  let base : Thr := { Thr.zero with
    ref := x.ref, tid := x.ref.tid, asid := x.asid, prio := x.level, save := x.area, kern := x.kern, placedAt := m.dev.acyc, unw := x.unw
    skeins := Vector.ofFn fun i => (x.members[i.val]?).map fun o => ⟨BitVec.ofNat 32 (fld o 37 6), o⟩ }
  let S := x.spad
  let m := m.probeAll x.asid [(x.area, ctxSize w.T), (x.area + BitVec.ofNat 64 (spOff w.T), S + S / 128)]
  let go := fun (t : Thr) (sp : Option (Mem × List Nat)) =>
    let m := m.install pl t sp
    let m := m.modD fun d => { (d.served x.level x.ref.launch) with saved := d.saved.eraseIdx k }
    x.done.foldl (fun (m : Mach) e => m.setFlag e.1 e.2) m
  let fail := go (base.restfail (m.dev.dbg.attached.contains x.ref.launch)) none
  match m.dev.ctxt x.asid x.area with
  | .error _ => fail
  | .ok c =>
    if c.hdr.num 0 4 ≠ 0x46580001 || !bit c.flags 0 || 4 < c.T || m.dev.rangePoisoned x.asid x.area (spOff w.T + S + S / 128) then fail
    else match m.dev.areaSpad x c.T S with
      | .error _ => fail
      | .ok sp => go { c.thread true (some x.keep) base with priv := bit c.flags 7 && x.firmware } (some sp)
/-- CONTEXT_RESTORE (R39): a saved thread whose turn it is comes to its place, or the free core is changed for it; the page that its area waits for is
asked for (R153). -/
def execContextRestore (k : Nat) (s : State) : Host.Outcome State Fault Refusal :=
  event (fun m => match m.dev.saved[k]? with
    | none => m
    | some x =>
      let m := if m.claims.any fun c => match c with | .saved i _ => i = k | .launch _ => false then
          m.modD fun d => d.waitFor x.asid (d.claimPage (.saved k x)) else m
      match m.nextClaim with
      | some (.saved i _) =>
        if i ≠ k then m
        else match m.placeFor (m.dev.wantSaved x) with
          | none => m.reconfigure x.kern.pool
          | some pl => m.restoreAt k x pl
      | _ => m) s

/-! ### The waypoint bound (R352, R353) -/

/-- The waypoint bound is missed; a debug halt does not defer it, but for the halt of a fatal end. -/
def Thr.overdue (t : Thr) : Bool :=
  t.status = .running && (match t.halted with | some (.fault _ _) => false | _ => true) && ((t.preq && 2 ^ 22 ≤ t.wayp) || 2 ^ 24 ≤ t.wayp)
/-- NOWAYPOINT (R353). -/
def execNowaypoint (pl : Place) (s : State) : Host.Outcome State Fault Refusal :=
  event (fun m0 =>
    let m := m0.at_ pl
    if m.t.overdue then (m.fatalEnd 0x40 0).at_ m0.cur else m0) s

/-! ### The end of a thread (R194, R354, R355) -/

/-- A command holds its thread's end until its segments have performed: a winder's as long as it has a filled slot to write, or a free one for another
vector of its pattern; a marker has none (DESIGN CHOICE). -/
def Mach.holdsEnd (m : Mach) (c : Cmd) : Bool :=
  match c.kind with
  | .enq => false
  | .wind sp =>
    let x := nth m.t.spools sp.val
    x.bound && x.pos = c.seq &&
      (if x.dir then decide (x.filled ≠ 0) else x.filled < x.nslot && x.next.toNat < x.total && (x.dva m.t x.next.toNat).isSome)
  | _ => true
/-- Everything the thread triggered has completed, and the implied drain has been performed (R194 steps 2 and 3). -/
def Mach.endReady (m : Mach) : Bool :=
  let t := m.t
  (match t.status with | .ending _ _ => true | _ => false) && t.halted = none && t.land.isEmpty && t.tops.isEmpty && t.hops.isEmpty &&
    t.prim.pend.isEmpty && t.sec.pend.isEmpty && !m.dev.cmds.any (fun c => c.own = t.ref && m.holdsEnd c) &&
    !m.dev.later.any (fun x => x.own = some t.ref) && !m.strayed t.ref m.core.cyc
/-- A launch's counts after one of its threads has ended. -/
def Launch.oneEnded (l : Launch) (tid : BitVec 32) (exit : BitVec 8) (fatal : Bool) : Launch :=
  { l with ended := l.ended + 1, exit0 := if tid = 0 then exit else l.exit0, exitor := l.exitor ||| exit
           nhalt := if fatal then l.nhalt else l.nhalt + 1, fault := l.fault || fatal }
/-- The poisonings of R355. -/
def Mach.peerPoison (m : Mach) (r : TRef) (peers : List TRef) : Mach :=
  (m.dev.miles.filter fun k => k.armer = r ||
    ((k.armer.launch = r.launch || peers.contains k.armer) && m.dev.num (k.pa + 5) 3 ≠ 0)).foldl (fun m k => m.msPoison k.pa 4 true) m

/-- THREAD_END (R194, R354): drain, skeins, monitors and places; after a fatal end the poisonings and the record. -/
def execThreadEnd (pl : Place) (s : State) : Host.Outcome State Fault Refusal :=
  event (fun m0 =>
    let m := m0.at_ pl
    let t := m.t
    match t.status with
    | .ending exit fatal =>
      if !m.endReady then m0
      else
        let r := t.ref
        let m := m.ordered (.drain 1 none none)
        let objs := t.skeins.toList.filterMap fun k => k.map fun k => k.obj
        let peers := objs.flatMap fun o => match m.dev.skeinAt t.asid o with | some k => k.members | none => []
        let m := objs.foldl (fun (m : Mach) o => m.leaveAt none r t.asid o) m
        let m := m.modD fun d =>
          { d with
            mons := d.mons.filter fun k => k.own ≠ r
            binds := d.binds.filter fun k => k.own ≠ r
            cmds := d.cmds.filter fun c => !(c.own = r && (match c.kind with | .wind _ => true | _ => false))
            launches := d.launches.map fun l => if l.id = r.launch then l.oneEnded r.tid exit fatal.isSome else l }
        let rec_ := fun (m : Mach) => match fatal with
          | some f => (m.peerPoison r peers).modD fun d => d.record m.core.die (m.threadRec f.cls f.code f.detail f.addr t f.pcp f.pcs)
          | none => m
        let m := (rec_ m).vacate
        ((m.answerCtxsv r none).drainedDie).at_ m0.cur
    | _ => m0) s

end Sys2Proof.Machine
end

