-- ==== Sys2Proof/Machine/Cycle.lean ====
section
/-! DEFINITION. The core's A-cycle (R26, R31–R33, R87, R139–R141, R337–R340): what comes due before a bundle, fetching and checking a
bundle, the two streams together, the freeze, and the boundary after the bundles. -/

namespace Sys2Proof.Machine

/-! ### Fetching and running a bundle (R66, R67, R73, R84) -/

/-- What fetching the acting stream's next bundle gives: its checked moves and the slots it occupies, a trap of the fetch or decode class,
or a page that faults or is not in place; `stopped` when its home is a die whose clocks have stopped (R391). -/
inductive Fetch where
  | ok (rs : List Raw) (slots : List (Fin 8))
  | trap (r : TrapRec)
  | fault (dva : Word)
  | absent (dva : Word)
  | stopped

/-- The trap record of a slot that is no instruction (R84, Table 19-2). -/
def slotTrap (n : Fin 8) (e : SlotErr) : TrapRec :=
  match e with
  | .unassigned frm id => ⟨n.val, 0x01, id, frm, 0⟩
  | .guard g inv => ⟨n.val, 0x02, g + (if inv then 16 else 0), false, 0⟩

/-- The device virtual address of the acting stream's next bundle: BOFF + 24 k from the kernel image base (R66). -/
def Mach.fetchVa (m : Mach) : Word := m.t.kern.img + m.t.kern.boff + BitVec.ofNat 64 (24 * m.st.pc.toNat)
/-- Fetch and decode the acting stream's next bundle: 24 bytes, in the thread's space. Poison in them has no effect: it is not among the uses of R371
(DEDUCED). -/
def Mach.fetch (m : Mach) : Fetch :=
  if !m.t.inSection m.isSec m.st.pc then .trap ⟨0, 0x03, 0, false, 0⟩
  else match m.coreRange m.fetchVa 24 false with
    | .fault a => .fault a
    | .absent a => .absent a
    | .ok ps =>
      if ps.any fun p => m.dev.stops p.1 p.2 then .stopped
      else
        let b := bundleOfBytes (ps.flatMap fun p => m.dev.bytes p.1 p.2)
        match bundleRaw b with
        | .error (n, e) => .trap (slotTrap n e)
        | .ok rs => .ok rs (slotsOf b)

/-- A slot of class trigger (R73). -/
def isTrigSlot : Raw → Bool | .move dest _ _ => 0x200 ≤ dest | _ => false
/-- The bundle is a wait bundle (R189). -/
def isWaitBundle (rs : List Raw) : Bool := rs.any fun r => match r with | .move dest _ _ => dest = 0x209 | _ => false
/-- The flag guards of a wait bundle (R190): slot, flag, inversion. -/
def flagGuards (rs : List Raw) : List (Nat × Nat × Bool) :=
  rs.filterMap fun r => match r with
    | .move _ g _ => if g.slot.val = 0 || g.g.val = 0 then none else some (g.slot.val, g.g.val, g.inv)
    | _ => none

/-- A bundle in progress takes one slot's meaning. -/
def Issue.take (pre : Mach) (b : Issue) (r : Raw) : Issue :=
  match runRaw r ⟨pre, some b, []⟩ with
  | .next s => s.issue.getD b
  | _ => b
/-- The acting stream's operand latches with the values of triggers: an operation that starts finds every latch of its bundle written (R73). -/
def Issue.trigLatches {α : Type} (b : Issue) (take : Issue → α → Issue) (trigs : List α) : Issue :=
  let x := (trigs.foldl take b).now.st
  b.modSt fun y => { y with sl := x.sl, vl := x.vl, lsrc := x.lsrc }
/-- A bundle's moves over a start: every plain move and every trigger's value, then every operation, each in ascending slot order (R73). -/
def Issue.runBy {α : Type} (b : Issue) (take : Issue → α → Issue) (moves trigs : List α) : Issue :=
  let b := moves.foldl take b
  trigs.foldl take (b.trigLatches take trigs)
/-- The bundle of checked slots. -/
def Issue.run (pre : Mach) (b : Issue) (rs : List Raw) : Issue :=
  b.runBy (Issue.take pre) (rs.filter fun r => !isTrigSlot r) (rs.filter isTrigSlot)
/-- The bundle of `rs` read from `pre` and written into `now`. -/
def bundleOn (pre now : Mach) (rs : List Raw) : Issue :=
  let w := isWaitBundle rs
  Issue.run pre { now.start with isWait := w, flagG := if w then flagGuards rs else [] } rs

/-! ### What comes due before a bundle -/

/-- A landing is written to its destination (R139); one of `ls.r` joins the results in flight, which R87 selects from. -/
def Mach.applyLanding (m : Mach) (l : Landing) : Mach :=
  let v := l.data.getD VVal.zero
  match l.dst with
  | .s n => m.modT fun t => { t with s := setNth t.s n.val v.scalar }
  | .w n => m.modT fun t => { t with w := setNth t.w n.val (wWord v.scalar) }
  | .v c n =>
    let (x, lost) := (nth (match c with | .a => m.t.va | .b => m.t.vb) n.val).put v l.mask
    (m.modT fun t => match c with
      | .a => { t with va := setNth t.va n.val { x with fromS := false } }
      | .b => { t with vb := setNth t.vb n.val { x with fromS := false } }).modT fun t => t.orStatNow false false lost false
  | .lsr => m.modT fun t => t.setStrm l.sec { t.strm l.sec with pend := (t.strm l.sec).pend ++ [⟨.inl .lsr, l.due, l.due, allLanes, v.scalar, VVal.zero⟩] }
  | .table _ => m

/-- The landings of the acting thread that are due and have their data. -/
def Thr.landNow (t : Thr) : List Landing := t.land.filter fun l => l.due ≤ t.time && l.data.isSome
/-- The landings that are due are written; one that carries poison writes nothing and asks for the unwinding, which a thread that is
ending no longer makes (R371). -/
def Mach.landDue (m : Mach) : Mach :=
  let t := m.t
  let now := t.landNow
  let bad := now.filterMap fun l => l.poison
  let m := m.modT fun t =>
    { t with
      land := t.land.filter fun l => !(l.due ≤ t.time && l.data.isSome)
      wout := t.wout - (now.filter fun l => match l.dst with | .w _ => true | _ => false).length
      unw := if t.status = .running then t.unw ++ bad.map fun a => ⟨0x81, 0, none, a, t.time⟩ else t.unw }
  (now.filter fun l => l.poison.isNone).foldl Mach.applyLanding m

/-- Writes of FMT and TSCALE begin to act (R78). -/
def Thr.actSpecials (t : Thr) : Thr :=
  { t with
    fmt := ((t.fmtq.filter fun e => e.1 ≤ t.time).getLast?.map fun e => e.2).getD t.fmt
    fmtq := t.fmtq.filter fun e => t.time < e.1
    tscale := ((t.tscaleq.filter fun e => e.1 ≤ t.time).getLast?.map fun e => e.2).getD t.tscale
    tscaleq := t.tscaleq.filter fun e => t.time < e.1 }

/-- The results due at or before τ reach the acting stream's ports (R87). -/
def Mach.deliver (m : Mach) : Mach := m.retireTo (m.st.tau.getD m.t.time)
/-- The results of every stream of the acting place's thread. -/
def Mach.deliverAll (m : Mach) : Mach :=
  let m1 := m.deliver
  if m.t.paired && m.cur = .p0 then (m1.at_ .p1).deliver.at_ .p0 else m1

/-- A block table's read. -/
def LandDst.isTable : LandDst → Bool | .table _ => true | _ => false
/-- Landings by due time, equal times in issue order (R140). -/
def insertLand (q : Landing) : List Landing → List Landing
  | [] => [q]
  | r :: rs => if q.due < r.due then q :: r :: rs else r :: insertLand q rs
/-- What the acting thread has triggered completes (R376 step 2): tile operations and results, and its landings, in the order in which they were due;
one whose data has not come freezes the core from this thread time on. Those of s61 and s62 leave the trap word and the address (R340). -/
def Mach.complete (m : Mach) : Mach :=
  let now := m.t.time
  let far := now + 2 ^ 40
  let keep := (m.t.land.filter fun l => l.dst ≠ .s 61 && l.dst ≠ .s 62).foldl (fun l q => insertLand q l) []
  let m := (m.modT fun t => { t with land := keep.map fun l => if l.dst.isTable then l else { l with due := min l.due now } }).landDue.drainTiles
  let m := (m.modT fun t => { t with time := far, prim := { t.prim with tau := none }, sec := { t.sec with tau := none } }).deliverAll
  m.modT fun t => { t with time := now, settle := false }

/-- Kernel entry, before the first bundle, is a waypoint (R35). -/
def Mach.entry (m : Mach) : Mach := if m.t.time = 0 && m.t.prim.hold = .none then m.atWaypoint else m

/-- The acting stream reaches issue: its thread runs and no unwinding of it is due, it is not stopped, and its gap is over. -/
def Mach.reaches (m : Mach) : Bool :=
  m.t.status = .running && m.t.halted = none && !m.t.unw.any (fun u => u.due ≤ m.t.time) && !m.st.stopped && m.st.gap ≤ m.t.time
/-- The acting stream's fetch reads its bytes at home, through translations that are kept (R151, R383). -/
def Mach.fetched (m : Mach) : Mach :=
  if !m.reaches || !m.t.inSection m.isSec m.st.pc then m
  else match m.coreRange m.fetchVa 24 false with
    | .ok ps =>
      let m := (pieces m.fetchVa.toNat 24 0x10000).foldl (fun (m : Mach) (p : Nat × Nat) =>
        let a := BitVec.ofNat 64 p.1
        if (tlbHit m.core.tlb m.t.asid p.1).isSome then m else m.cacheXlate m.t.asid a (m.xlate m.t.asid a false m.t.priv)) m
      ps.foldl (fun (m : Mach) (p : Nat × Nat) => m.probeHome p.1 p.2) m
    | _ => m

/-- A thread whose time runs: running or ending, not halted. -/
def Thr.runs (t : Thr) : Bool :=
  t.halted = none && (match t.status with | .running => true | .ending _ _ => true | _ => false)

/-- What comes due on a place at the start of its A-cycle. -/
def Mach.dueOn (m : Mach) (pl : Place) : Mach :=
  let a := m.at_ pl
  if (match pl with | .p0 => m.thr0.runs | .p1 => m.thr1.runs && !m.thr0.paired) then
    let a := if a.t.settle then a.complete else a
    let a := ((a.modT Thr.actSpecials).settleTiles).landDue.deliverAll.entry.fetched
    (if a.t.paired then (a.at_ .p1).fetched else a).at_ m.cur
  else m
/-- What comes due on the core. -/
def Mach.due (m : Mach) : Mach := (m.dueOn .p0).dueOn .p1

/-! ### How a stream stands -/

/-- A stream's bundle in an A-cycle: none at issue; a trap of the fetch, decode or privilege class; a fetch that met a page; a stall, and
whether its cycle is a waypoint, with the slots it would occupy; or a bundle that would issue, trap by an operation check or freeze the core. -/
inductive Cand where
  | idle
  | early (r : TrapRec)
  | fault (dva : Word)
  | page (dva : Option Word)
  | held (h : Hold) (wayp : Bool) (slots : List (Fin 8))
  | ready (b : Issue) (rs : List Raw) (slots : List (Fin 8))

/-- The times after this one at which a stream's wait is evaluated again. -/
def Strm.evals (x : Strm) (time : Nat) : List Nat := match x.hold with | .waiting l => l.filter fun r => time < r | _ => []
/-- The stream waits for an evaluation that has not come (R190). -/
def Strm.heldTo (x : Strm) (time : Nat) : Bool := match x.hold with | .waiting l => !l.contains time && !(x.evals time).isEmpty | _ => false

/-- How the acting stream's bundle stands. -/
def Mach.cand (m : Mach) : Cand :=
  if !m.reaches then .idle
  else match m.fetch with
    | .trap r => .early r
    | .fault a => .fault a
    | .absent a => .page (some a)
    | .stopped => .page none
    | .ok rs slots =>
      let b := bundleOn m m rs
      match b.priv, b.verdict with
      | some r, _ => .early r
      | none, .stall h =>
        .held (match h with | .waiting _ => .waiting (m.st.evals m.t.time) | _ => h) (h.isWaypoint && !m.isSec) slots
      | none, _ => if m.st.heldTo m.t.time then .held m.st.hold false slots else .ready b rs slots

/-- The slots of a bundle that contends for them. -/
def Cand.slots : Cand → List (Fin 8) | .ready _ _ sl => sl | _ => []
/-- Two bundles share an occupied slot (R31). -/
def collide (a b : Cand) : Bool := a.slots.any b.slots.contains
/-- The bundle would freeze the core. -/
def Cand.freezes : Cand → Bool
  | .ready b _ _ => b.verdict = .freeze
  | .page _ => true
  | _ => false
/-- The pages a frozen core waits for. -/
def Cand.waitsFor : Cand → List Word | .ready b _ _ => b.waitFor | .page (some a) => [a] | _ => []
/-- The trap a bundle makes in this cycle. -/
def Cand.trap? : Cand → Option TrapRec
  | .early r => some r
  | .ready b _ _ => (match b.verdict with | .trap r => some r | _ => none)
  | _ => none
/-- The bundle traps before it could stall. -/
def Cand.isEarly : Cand → Bool | .early _ => true | _ => false
/-- The bundle would issue. -/
def Cand.goes : Cand → Bool | .ready b _ _ => b.verdict = .go | _ => false
/-- A bundle that lost its slots waits whole (R31). -/
def Cand.lose : Cand → Cand | .ready _ _ sl => .held .other false sl | c => c
/-- A bundle that a result interlock holds and that would lose its slots to the other's bundle waits for more than its results: it is not yet the time
τ at which it would issue if no result interlock held it (R87). Of two threads' bundles one that would have lost so wins next (R31). -/
def Cand.outbid (mine other : Cand) (wins : Bool) : Cand :=
  match mine with
  | .held .interlock w sl => if !wins && other.goes && sl.any other.slots.contains then .held .outbid w sl else mine
  | c => c
/-- The granules a bundle consumes (R133). -/
def Cand.eaten : Cand → List Nat | .ready b _ _ => b.eaten | _ => []

/-! ### The A-cycle's outcome -/

/-- The machine as the cycle found it and before the cycle's end, the places whose bundle issued, whose cycle is a waypoint, and whose bundle trapped; the
places' bundles for `brkp`. -/
structure Cyc where
  pre : Mach
  m : Mach
  issued : List Place
  wayp : List Place
  trapped : List Place
  brks : List (Place × Issue)

/-- Nothing has happened yet. -/
def Cyc.of (m : Mach) : Cyc := ⟨m, m, [], [], [], []⟩
/-- A fetch that meets a translation fault reports it (R358); the stream waits for the unwinding. -/
def Mach.fetchFault (m : Mach) (a : Word) : Mach :=
  (m.modT fun t => { t with xfaults := if t.xfaults.any (fun x => x.dva = a) then t.xfaults else t.xfaults ++ [⟨a, none⟩] }).stalled .other

/-- A bundle that does not issue: it waits, or its fetch has met a fault. A wait bundle whose thread's flags another bundle of the cycle changes is
evaluated again two cycles later (R190). -/
def Cyc.wait (c : Cyc) (pl : Place) (x : Cand) : Cyc :=
  let on := fun (f : Mach → Mach) => { c with m := (f (c.m.at_ pl)).at_ c.m.cur }
  match x with
  | .held h w _ =>
    let changed := (c.m.at_ pl).t.flags ≠ (c.pre.at_ pl).t.flags
    let c := on fun m => m.stalled (match h with | .waiting l => .waiting (if changed then l ++ [m.t.time + 2] else l) | _ => h)
    if w then { c with wayp := pl :: c.wayp } else c
  | .fault a => on fun m => m.fetchFault a
  | _ => c
/-- A bundle traps. -/
def Cyc.trap (c : Cyc) (pl : Place) (r : TrapRec) : Cyc :=
  { c with m := ((c.m.at_ pl).trapped r).at_ c.m.cur, trapped := pl :: c.trapped }
/-- A bundle has issued. -/
def Cyc.issue (c : Cyc) (pl : Place) (b : Issue) (m : Mach) : Cyc :=
  { c with m := m.at_ c.m.cur, issued := pl :: c.issued, wayp := if b.wayp then pl :: c.wayp else c.wayp, brks := (pl, b) :: c.brks }

/-- The bundle of a place, read from `pre`, over what the cycle has done so far. One that another bundle of the cycle leaves without room
waits. -/
def Cyc.go (c : Cyc) (pre : Mach) (pl : Place) (x : Cand) : Cyc :=
  match x with
  | .ready b0 rs _ =>
    let b := if c.issued.isEmpty && c.trapped.isEmpty then b0 else bundleOn (pre.at_ pl) (c.m.at_ pl) rs
    match b.verdict with
    | .trap r => c.trap pl r
    | .go => c.issue pl b b.commit
    | _ => c.wait pl (.held .other false [])
  | .early r => c.trap pl r
  | x => c.wait pl x

/-- The place whose bundle gives way in this cycle (R31, R133): of a paired thread the secondary; of two threads the loser of the collision,
when the winner's bundle issues. -/
def Mach.yields (m : Mach) (c0 c1 : Cand) : Option Place :=
  if m.thr0.paired then
    if collide c0 c1 || (c0.goes && c1.goes && c0.eaten.any c1.eaten.contains) then some .p1 else none
  else if !collide c0 c1 then none
  else match m.core.winNext with
    | .p0 => if c0.goes then some .p1 else none
    | .p1 => if c1.goes then some .p0 else none

/-- Two threads, one on each place, or one alone; the winner of a collision loses the next (R31). -/
def Mach.apart (m : Mach) (c0 c1 : Cand) (lost : Option Place) : Cyc :=
  let c := ((Cyc.of m).go m .p0 c0).go m .p1 c1
  match lost with | some pl => { c with m := c.m.modC fun c => { c with winNext := pl } } | none => c

/-- Both bundles of a paired thread issue (R33): the primary's writes are made over the secondary's, and flags and status change once. -/
def Mach.both (m : Mach) (rs0 rs1 : List Raw) : Option Cyc :=
  let b1 := bundleOn (m.at_ .p1) ((((m.at_ .p0).start.trigLatches (Issue.take (m.at_ .p0)) rs0)).now.at_ .p1) rs1
  let s1 := { b1 with now := b1.now.at_ .p0 }
  let w := isWaitBundle rs0
  let b0 := Issue.run (m.at_ .p0)
    { s1.now.start with setF := b1.setF, clrF := b1.clrF, setS := b1.setS, clrS := b1.clrS, popped := b1.popped, pushed := b1.pushed
                        wroteS63 := false, isWait := w, flagG := if w then flagGuards rs0 else [] } rs0
  if b0.verdict ≠ .go then none
  else
    let stop := b0.now.thr0.sec.stopped
    let m1 := ({ b1 with now := b0.now.at_ .p1, setF := 0, clrF := 0, setS := 0, clrS := 0 }.commit).modT fun t => { t with statNow := b0.now.thr0.statNow }
    let m1 := if stop then m1.modSt Strm.stop else m1
    let m0 := { b0 with now := m1.at_ .p0 }.commit
    some (((Cyc.of m).issue .p1 { b1 with wayp := false } m1).issue .p0 b0 m0)

/-- The two streams of a paired thread (R33, R339): a trap of either stops both. -/
def Mach.together (m : Mach) (c0 c1 : Cand) : Cyc :=
  let c := Cyc.of m
  match c0.trap?, c1.trap? with
  | some r, _ => c.trap .p0 r
  | none, some r => c.trap .p1 r
  | none, none => match c0, c1 with
    | .ready b0 rs0 _, .ready _ rs1 _ => match m.both rs0 rs1 with
      | some c => c
      | none => (c.issue .p0 b0 b0.commit).wait .p1 (.held .other false [])
    | .ready b0 _ _, x => (c.issue .p0 b0 b0.commit).wait .p1 x
    | x, .ready b1 _ _ => (c.issue .p1 { b1 with wayp := false } b1.commit).wait .p0 x
    | x, y => (c.wait .p0 x).wait .p1 y

/-! ### The freeze (R139, R153, R358) -/

/-- A thread's access has come due and cannot perform: a landing without its data, a fault not yet reported, a store on a page that is not
in place. -/
def Mach.lateOn (m : Mach) (pl : Place) : Bool :=
  let m := m.at_ pl
  let t := m.t
  (match t.status with | .running => true | .ending _ _ => true | _ => false) &&
  (t.land.any (fun l => l.due ≤ t.time && l.data.isNone) || t.xfaults.any (fun x => match x.due with | some d => d ≤ t.time | none => false) ||
   (!m.dev.pageWaits.isEmpty && t.hops.any fun h => !t.land.any (fun l => l.src = .home && l.seq = h.seq && l.issued = h.time) &&
      (match m.hopParts h with
        | .absent a => m.dev.pageWaits.any fun w => w.asid = t.asid && w.va.toNat / 0x10000 = a.toNat / 0x10000
        | _ => false)))
/-- The core freezes. -/
def Mach.late (m : Mach) : Bool := m.lateOn .p0 || m.lateOn .p1

/-- The core freezes for a bundle of the cycle. The occupancy of `ls` alone leaves no cycle to restart in (R208). -/
def Mach.freezeFor (m : Mach) (c0 c1 : Cand) : Mach :=
  let wait := fun (pl : Place) (c : Cand) (d : Dev) => (c.waitsFor).foldl (fun d a => d.waitPage (m.at_ pl).t.asid a) d
  let busy := m.core.cyc < m.core.lsFree && (c0.waitsFor ++ c1.waitsFor).isEmpty
  (m.modD fun d => wait .p1 c1 (wait .p0 c0 d)).frozenCycle.modC fun c => { c with frozen := !busy }

/-! ### Halting together (R46, R47) -/

/-- The far members of a skein are told of its halt, but for those of a device that knows (R47). -/
def Mach.tellHalt (m : Mach) (k : SkObj) (but : Option Nat) : Mach :=
  k.members.foldl (fun m r => match r.far with
    | some dev => if some dev = but then m else m.modD fun d => d.post m.core.die dev (.stop k.pa r.launch r.tid)
    | none => m) m
/-- The live skeins of a thread whose halt-together bit is set. -/
def Mach.htSkeins (m : Mach) (t : Thr) : List Nat :=
  t.skeins.toList.filterMap fun k => k.bind fun k => match m.dev.skeinAt t.asid k.obj with
    | some o => if o.ht then some o.pa else none
    | none => none
/-- The skeins of halted threads halt, the members on other devices are told, and every member here asks to halt at its next waypoint; a thread that
`step` runs does not. -/
def Mach.haltTogether (m : Mach) : Mach :=
  let halted := fun (t : Thr) => if t.live && t.halted ≠ none then m.htSkeins t else []
  let new := halted m.thr0 ++ halted m.thr1
  let m := if new.isEmpty then m else
    (m.dev.skeins.filter fun k => new.contains k.pa && !k.halted).foldl (fun m k => m.tellHalt k none)
      (m.modD fun d => { d with skeins := d.skeins.map fun k => if new.contains k.pa then { k with halted := true } else k })
  if !m.dev.skeins.any fun k => k.halted then m
  else
    let ask := fun (pl : Place) (t : Thr) =>
      let stepping := match m.dev.dbg.steps with | some (p, _) => p = pl | none => false
      if t.status = .running && t.halted = none && !stepping &&
          (m.htSkeins t).any (fun pa => match m.dev.skein? pa with | some k => k.halted | none => false) then { t with haltReq := true }
      else t
    { m with thr0 := ask .p0 m.thr0, thr1 := ask .p1 m.thr1 }

/-! ### The cycle -/

/-- The landings of this thread time stay over the bundle's writes (R140), but for a trap's (R340). -/
def Cyc.reland (c : Cyc) (pl : Place) (ls : List Landing) : Cyc :=
  if c.trapped.contains pl || (pl = .p0 && c.m.thr0.paired && c.trapped ≠ []) then c
  else { c with m := (ls.foldl Mach.applyLanding (c.m.at_ pl)).at_ c.m.cur }

/-- A breakpoint that has halted its bundle counts again once the bundle has issued, or its stream stands at another one: a trap has taken it to a handler,
or the thread has left the place (R45). -/
def Mach.unskip (m : Mach) (issued : List Place) : Mach :=
  let stands := fun (e : Place × TRef × Nat) => !issued.contains e.1 && (m.at_ e.1).t.ref = e.2.1 && (m.at_ e.1).st.pc.toNat = e.2.2
  m.modD fun d => { d with dbg := { d.dbg with skip := d.dbg.skip.filter stands } }
/-- A bundle of a `step` has issued (R64). On a paired thread only bundles of the named place's stream count, and the other stream issues freely meanwhile
(DESIGN CHOICE: the spec says n bundles of the thread). -/
def Mach.stepped (m : Mach) (issued : List Place) : Mach :=
  let m := m.unskip issued
  match m.dev.dbg.steps with
  | some (pl, n) =>
    if !issued.contains pl then m
    else if 1 < n then m.modD fun d => { d with dbg := { d.dbg with steps := some (pl, n - 1) } }
    else (((m.modD fun d => { d with dbg := { d.dbg with steps := none } }).at_ pl).modT fun t =>
      if t.halted = none then { t with halted := some .step } else t).at_ m.cur
  | none => m

/-- The end of the cycle: a `secgo` that waited acts, thread time passes, and boundaries that stop a thread are taken. -/
def Cyc.done (c : Cyc) : Mach :=
  let m := if c.issued.contains .p1 && c.m.thr0.paired then { c.m with thr0 := c.m.thr0.doRestart } else c.m
  let m := m.tick
  let m := m.stepped c.issued
  let m := c.brks.foldl (fun m e => (e.2.breakAfter (m.at_ e.1)).at_ m.cur) m
  let m := c.wayp.foldl (fun m pl => ((m.at_ pl).atWaypoint).at_ m.cur) m
  m.modD fun d => { d with pageWaits := d.pageWaits.filter fun w => !w.failed }

/-- The bundles of the cycle. -/
def Mach.issueBoth (m : Mach) (c0 c1 : Cand) (lost : Option Place) : Cyc :=
  if m.thr0.paired then m.together c0 c1 else m.apart c0 c1 lost

/-- One A-cycle of the core. A die whose clocks are stopped lets only the milepost counter run on (R391). A frozen core restarts in the
cycle after what it waited for has come (R139). -/
def Mach.cycle (m : Mach) : Mach :=
  let m := m.haltTogether
  if (nth m.dev.pwr m.core.die).tripped.isSome then m.modD fun d => d.mileposts 1
  else if m.late then m.frozenCycle
  else
    let n := m.due
    let c0 := (n.at_ .p0).cand
    let c1 := (n.at_ .p1).cand
    let lost := n.yields c0 c1
    let c0 := if lost = some .p0 then c0.lose else c0
    let c1 := if lost = some .p1 then c1.lose else c1
    let c0 := c0.outbid c1 (n.thr0.paired || n.core.winNext = .p0 || n.thr0.prim.hold = .outbid)
    let c1 := c1.outbid c0 (!n.thr0.paired && (n.core.winNext = .p1 || n.thr1.prim.hold = .outbid))
    if !(c0.isEarly || c1.isEarly) && (c0.freezes || c1.freezes) then m.freezeFor c0 c1
    else if m.core.frozen then m.frozenCycle.modC fun c => { c with frozen := false }
    else
      let c := n.issueBoth c0 c1 lost
      let l0 := (if m.thr0.runs then m.thr0.landNow else []).filter fun l => l.dst ≠ .lsr && l.poison.isNone
      let l1 := (if m.thr1.runs then m.thr1.landNow else []).filter fun l => l.dst ≠ .lsr && l.poison.isNone
      ((c.reland .p0 l0).reland .p1 l1).done

end Sys2Proof.Machine
end

