-- ==== Sys2Proof/Machine/Arrival.lean ====
section
/-! DEFINITION. What reaches a core in time (R87, R136, R139, R190, R207, R208, R244): results, tile operations, landings and their data, line
fills, and stalls that end. -/

namespace Sys2Proof.Machine

/-! ### Results, tiles, stalls -/

/-- RESULT_DELIVERY (R87): results whose due time has come stand on their ports. -/
def execResultDelivery (pl : Place) (s : State) : Host.Outcome State Fault Refusal :=
  event (fun m => let a := m.at_ pl; if a.t.live then a.deliver.at_ m.cur else m) s

/-- The debugger's deferred writes of the acting thread's tiles that are no longer busy (R48). -/
def Mach.tileWrites (m : Mach) : Mach :=
  let mine := m.dev.dbg.tileWrites.filter fun e => e.1 = m.cur
  mine.foldl (fun m e =>
    let free := fun (m : Mach) (t : TileId) => !m.t.busy.any fun b => b.tile = t && m.t.time < b.till
    let m' := m.modD fun d => { d with dbg := { d.dbg with tileWrites := d.dbg.tileWrites.erase e } }
    match e.2.1 with
    | .tchunk n c => if free m (.t n) then m'.modT fun t => t.setO n { nth t.ot n.val with rows := putChunkO (nth t.ot n.val).rows c.val e.2.2 } else m
    | .cchunk n c => if free m (.c n) then m'.modT fun t => t.setA n { nth t.ct n.val with rows := putChunkA (nth t.ct n.val).rows c.val e.2.2 } else m
    | _ => m') m
/-- TILE_OPERATION_COMPLETE (R244): tile operations that are due take effect; under a debug halt all that were triggered do (R46), and then
the debugger's deferred writes (R48). -/
def execTileOperationComplete (pl : Place) (s : State) : Host.Outcome State Fault Refusal :=
  event (fun m =>
    let a := m.at_ pl
    if !a.t.live then m
    else (if a.t.halted = none then a.settleTiles.tileWrites else a.drainTiles.tileWrites).at_ m.cur) s

/-- The acting stream's bundle has been held and would issue now. -/
def Mach.released (m : Mach) (pl : Place) (wait : Bool) : Bool :=
  let n := m.due.at_ pl
  (match n.st.hold with | .none => false | .waiting r => wait && r ≠ [] | _ => !wait) && n.cand.goes
/-- STALLED_BUNDLE_ISSUE (R87, R235, R239, R244, R264, R272): a bundle whose stall has ended issues whole in the core's A-cycle. -/
def execStalledBundleIssue (pl : Place) (s : State) : Host.Outcome State Fault Refusal :=
  event (fun m => if m.released pl false then m.cycle else m) s
/-- WAIT_RELEASE (R190): a wait bundle whose flags have changed, two A-cycles later, issues in the core's A-cycle and consumes its flags. -/
def execWaitRelease (pl : Place) (s : State) : Host.Outcome State Fault Refusal :=
  event (fun m => if m.released pl true then m.cycle else m) s

/-! ### Line fills (R136, R207) -/

/-- A write of this core to the line is still on its way. -/
def Mach.lineHeld (m : Mach) (n : Nat) : Bool :=
  [Place.p0, Place.p1].any fun pl => let a := m.at_ pl; a.t.hops.any fun h => h.op.writeOnly && meets [(128 * n, 128)] (m.dev.hopRange a.t.asid h)
/-- A load of the acting thread waits for a line. -/
def Mach.loadOf (m : Mach) (n : Nat) (l : Landing) : Bool := l.data.isNone && l.src.isL1 && meets [(128 * n, 128)] (m.landRanges l)
/-- The threads of the core with a load that waits for a line. -/
def Mach.waitFor (m : Mach) (n : Nat) : List TRef :=
  [Place.p0, Place.p1].filterMap fun pl => let a := m.at_ pl; if a.t.land.any (a.loadOf n) then some a.t.ref else none
/-- The fill of a line waits: for a write of this core to the line, or for what the thread it was allocated for had before that: an operation that orders
or that meets the line, and reads of the line that are not bound (R162, R166). -/
def Mach.fillHeld (m : Mach) (l : L1Line) : Bool :=
  m.lineHeld l.line || [Place.p0, Place.p1].any fun pl =>
    let a := m.at_ pl
    a.t.live && a.t.ref = l.who && (a.heldBy (fun h => h.time < l.at_) [(128 * l.line, 128)] ||
      a.unboundOn (fun k => k.issued < l.at_ && !k.src.isL1) [(128 * l.line, 128)])
/-- The 128 bytes of a line as a remote read for some threads finds them, with the poison of its halves. -/
def Mach.readL1 (m : Mach) (rs : List TRef) (n : Nat) : List Byte × BitVec 2 × Mach :=
  let (a, pa, m) := m.readLine rs (128 * n) 64
  let (b, pb, m) := m.readLine rs (128 * n + 64) 64
  (a ++ b, (if pa then 1 else 0) ||| (if pb then 2 else 0), m)
/-- The fill of a line lands: bytes that a store has written stay. -/
def L1Line.fill (l : L1Line) (bs : List Byte) (p : BitVec 2) : L1Line :=
  let a := bs.toArray
  { l with data := Vector.ofFn fun i => if bit l.have_ i.val then l.data[i] else a.getD i.val 0
           have_ := BitVec.allOnes 128, poison := p }
/-- The bytes that a line brings to a load which a store has passed over. -/
def Landing.brought (l : Landing) (o : Nat) (bs : List Byte) : Landing :=
  { l with seen := l.seen.map fun e => (e.1, some (e.2.getD (bs.getD (o + e.1) 0))) }
/-- A load of the acting thread takes what a line brings it. -/
def Mach.bringTo (m : Mach) (n : Nat) (bs : List Byte) (l : Landing) : Landing :=
  if !m.loadOf n l then l else match m.landRanges l with | [(p, _)] => l.brought (p % 128) bs | _ => l
/-- The bytes of a line reach the loads that stores have passed over. -/
def Mach.bring (m : Mach) (n : Nat) (bs : List Byte) : Mach :=
  let on := fun (m : Mach) (pl : Place) =>
    let a := m.at_ pl
    if pl = .p1 && a.t.paired then m
    else (a.modT fun t => { t with land := t.land.map (a.bringTo n bs) }).at_ m.cur
  on (on m .p0) .p1
/-- Complete the outstanding fill of a line, for the thread it was allocated for and those whose loads wait for it. -/
def Mach.fillLine (m : Mach) (n : Nat) : Mach :=
  match m.core.line n with
  | some l =>
    if !l.filling || m.fillHeld l then m
    else
      let (bs, p, m) := m.readL1 (l.who :: m.waitFor n) n
      (m.bring n bs).modC fun c => c.setLine (l.fill bs p)
  | none => m
/-- LINE_FILL_COMPLETE (R207, R209): the outstanding fill of a physical line lands. -/
def execLineFillComplete (line : Nat) (s : State) : Host.Outcome State Fault Refusal := event (fun m => m.fillLine line) s
/-- LS_OCCUPANCY_END (R208): the cycles for which an `invr` or `wbr` occupies `ls` are over. -/
def execLsOccupancyEnd (s : State) : Host.Outcome State Fault Refusal :=
  event (fun m => if m.core.cyc < m.core.lsFree then m else m.modC fun c => { c with lsFree := 0 }) s

/-! ### Landings and their data (R139, R210, R237) -/

/-- Replace a landing by what its data makes of it. -/
def Thr.setLand (t : Thr) (k : Nat) (l : Landing) : Thr := { t with land := t.land.set k l }
/-- A landing's read may be bound now: after earlier operations that order it or write its bytes, and after earlier reads of the same bytes
(R162, R166). -/
def Mach.mayBind (m : Mach) (l : Landing) : Bool :=
  let rs := m.landRanges l
  !rs.any (fun r => m.dev.stops r.1 r.2) && !m.heldBy (fun h => h.time < l.issued) rs &&
    !m.unboundOn (fun k => k.issued < l.issued || (k.issued = l.issued && k.seq < l.seq)) rs
/-- The landing's access meets a translation fault: it makes no landing (R358). -/
def Mach.landFault (m : Mach) (k : Nat) (l : Landing) (a : Word) : Mach :=
  m.modT fun t => { t with land := t.land.eraseIdx k, xfaults := t.xfaults ++ [⟨a, some l.due⟩] }
/-- The place of the first poisoned granule of vectors in a cluster's SRAM: cluster and offset. -/
def Dev.firstCsBad (d : Dev) (cl : Nat) (offs : List Nat) : Option Word :=
  (offs.findSome? fun o => (unitsOf o 256 16).find? fun u => d.csPoison.contains (cl, u)).map fun u => BitVec.ofNat 64 (cl * 2 ^ 32 + 16 * u)
/-- The 64 lanes of 256 bytes. -/
def lanesOf (bs : List Byte) : Vec :=
  let a := bs.toArray
  Vec.build fun i => BitVec.ofNat 32 (leNat [a.getD (4 * i) 0, a.getD (4 * i + 1) 0, a.getD (4 * i + 2) 0, a.getD (4 * i + 3) 0])

/-- The bytes of several 256-byte or scalar ranges, or the page that stops the first. -/
def Mach.bindRead (m : Mach) (l : Landing) (rs : List (Word × Nat)) : Except RangeR (List (List Byte) × Option Word × Mach) :=
  rs.foldlM (fun (acc : List (List Byte) × Option Word × Mach) r =>
    match acc.2.2.coreRange r.1 r.2 false with
    | .ok ps =>
      let (bs, bad, m) := acc.2.2.readParts m.t.ref ps
      .ok (acc.1 ++ [bs], acc.2.1 <|> (if bad then m.dev.firstBad ps else none), m)
    | e => .error e) ([], l.poison, m)

/-- The bytes a load finds: those that stores have passed over as they were. -/
def Landing.found (l : Landing) (bs : List Byte) : List Byte :=
  bs.zipIdx.map fun b => match l.seen.find? fun e => e.1 = b.2 with | some (_, some x) => x | _ => b.1
/-- The data of an L1 miss: its line is filled, or read by a load that only its translation had missed (R136). While the fill must wait for operations
behind which the line was allocated, a load before them reads for itself. -/
def Mach.bindL1 (m : Mach) (k : Nat) (l : Landing) (dva : Word) (size : Nat) (sgn : Bool) : Mach :=
  match m.xlate m.t.asid dva false m.t.priv with
  | .fault => m.landFault k l dva
  | .absent => m.modD fun d => d.waitPage m.t.asid dva
  | .ok pa pte bits =>
    let put := fun (m : Mach) (bs : List Byte) (bad : Bool) =>
      m.modT fun t => t.setLand k { l with data := some (vvalOfScalar (extend size sgn ((t.land.getD k l).found bs)))
                                           poison := if bad then some (BitVec.ofNat 64 (pa / 64 * 64)) else none }
    if inMgmt pa then
      let (bs, bad, m) := m.readPa m.t.ref pa size
      put m bs bad
    else
      let n := pa / 128
      let m := (m.cacheXlate m.t.asid dva (.ok pa pte bits)).fillLine n
      match m.core.line n with
      | some x =>
        if x.filling then
          let (bs, p, m) := m.readL1 [m.t.ref] n
          let own := (List.range size).map fun i =>
            if bit x.have_ (pa % 128 + i) && !l.seen.any (fun e => e.1 = i) then nth x.data (pa % 128 + i) else bs.getD (pa % 128 + i) 0
          put m own (bit p (pa % 128 / 64))
        else put m (x.bytes (pa % 128) size) (x.bad (pa % 128))
      | none =>
        if m.lineHeld n then m
        else match m.l1Room n with
          | none => m
          | some m =>
            let (bs, p, m) := m.readL1 (m.t.ref :: m.waitFor n) n
            let x := (L1Line.empty n m.t.ref m.t.time).fill bs p
            put ((m.bring n bs).modC fun c => { c with l1 := c.l1 ++ [x] }) (x.bytes (pa % 128) size) (x.bad (pa % 128))

/-- The block table of a `kvg` that has issued reaches it: its rows, unless an entry's page is not in place. -/
def Mach.arriveTable (m : Mach) (k : Nat) (l : Landing) (id : Nat) (dva : Word) (n : Nat) : Mach :=
  let (es, m1) := m.mapEntries l.issued dva n
  let waits := es.filterMap fun e => match e with | .wait p => some p | _ => none
  match waits with
  | [] => match m.dev.cmd? id with
    | some c => match c.kind with
      | .kvgLate blk win =>
        let rows := (m1.modT fun t => { t with win := win }).lateRows blk dva es
        let off := bf blk 0x30 4
        let ro := if off = 0xFFFFFFFF then none else some off
        (m1.modD fun d => d.setCmd { c with kind := .kvg rows (bf blk 0x28 4) (bf blk 0x2C 4) (bf blk 0x1C 4) ro }).modT fun t =>
          { t with land := t.land.eraseIdx k }
      | _ => m
    | none => m.modT fun t => { t with land := t.land.eraseIdx k }
  | p :: _ => match p with | some a => m.modD fun d => d.waitPage m.t.asid a | none => m

/-- Data for the `k`-th landing of the acting thread reaches the core. Poison anywhere in what it reads is its poison, also where a lane-guarded landing
takes none of those bytes (DESIGN CHOICE: R371 speaks of a value that reaches a register). -/
def Mach.arrive (m : Mach) (k : Nat) : Mach :=
  match m.t.land[k]? with
  | none => m
  | some l =>
    if l.data.isSome || !m.mayBind l then m
    else
      let bind := fun (rs : List (Word × Nat)) (f : List (List Byte) → VVal) =>
        match m.bindRead l rs with
        | .error (.fault a) => m.landFault k l a
        | .error (.absent a) => m.modD fun d => d.waitPage m.t.asid a
        | .error (.ok _) => m
        | .ok (bs, bad, m) => m.modT fun t => t.setLand k { l with data := some (f bs), poison := bad }
      match l.src with
      | .home => m
      | .table dva n => (match l.dst with | .table id => m.arriveTable k l id dva n | _ => m)
      | .l1 dva size sgn => m.bindL1 k l dva size sgn
      | .scalar dva size sgn => bind [(dva, size)] fun bs => vvalOfScalar (extend size sgn bs.flatten)
      | .vec dva tg => bind ((dva, 256) :: tg.map fun a => (a, 256)) fun bs =>
          ⟨lanesOf (bs.headD []), MapD.none, bs.tail.map lanesOf, false⟩
      | .cluster off tg =>
        let cl := m.core.cluster
        let m := (off :: tg).foldl (fun m o => m.probeCs cl o 256) m
        let v := fun (o : Nat) => lanesOf (Mem.readN (nth m.dev.csram cl) o 256)
        m.modT fun t => t.setLand k { l with data := some ⟨v off, MapD.none, tg.map v, false⟩
                                             poison := m.dev.firstCsBad cl (off :: tg) }

/-- LANDING_DATA_ARRIVAL (R139): the data waits in the landing buffer, or the frozen core restarts in the next A-cycle. -/
def execLandingDataArrival (pl : Place) (k : Nat) (s : State) : Host.Outcome State Fault Refusal :=
  event (fun m => ((m.at_ pl).arrive k).at_ m.cur) s
/-- LANDING_DUE (R139): landings whose thread time has come and whose data is there stand at their destinations before the bundle of that time
reads them; one whose data is not there freezes the core. The A-cycle that follows makes the same landings, over its bundle's writes (R140). -/
def execLandingDue (pl : Place) (s : State) : Host.Outcome State Fault Refusal :=
  event (fun m =>
    let a := m.at_ pl
    if !a.t.runs then m
    else if a.lateOn pl then m.modC fun c => { c with frozen := true }
    else ((a.t.landNow.filter fun l => l.dst ≠ .lsr && l.poison.isNone).foldl Mach.applyLanding a).at_ m.cur) s

end Sys2Proof.Machine
end

