-- ==== Sys2Proof/Machine/Unwind.lean ====
section
/-! DEFINITION. Unwinding (R358, R366, R371, R376–R379): translation faults of core accesses and the entry to a region's handler. -/

namespace Sys2Proof.Machine

/-! ### Translation faults (R358) -/

/-- A record of a fault of this thread. -/
def Mach.faultRec (m : Mach) (cls code : Nat) (addr : Word) : Mach :=
  let t := m.t
  m.modD fun d => d.record m.core.die (m.threadRec cls code 0 addr t t.prim.pc t.sec.pc)

/-- The first translation fault of a thread that can be reported now: one that withholds a landing is reported when the landing is due. -/
def Thr.xready (t : Thr) : Option XFault :=
  t.xfaults.find? fun x => match x.due with | some d => d ≤ t.time || t.status = .saving | none => true

/-- XLATEC (R358): a translation fault is reported, and the thread is to unwind at this bundle boundary; of a thread that is ending it is only
recorded (R366). A thread that was stopping for its save goes back to its unwinding. -/
def execXlatec (pl : Place) (s : State) : Host.Outcome State Fault Refusal :=
  event (fun m0 =>
    let m := m0.at_ pl
    match m.t.xready with
    | none => m0
    | some x =>
      if m.t.halted ≠ none then m0
      else
        let m := m.modT fun t => { t with xfaults := t.xfaults.erase x }
        (match m.t.status with
          | .empty => m0
          | .ending _ _ => m.faultRec 1 0x41 x.dva
          | _ => m.modT fun t => { t with unw := t.unw ++ [(⟨0x41, 0, none, x.dva, t.time⟩ : Unw)] }).at_ m0.cur) s

/-! ### The unwinding (R376, R377) -/

/-- The region an unwinding targets, with those that stay open outside it: for `crabort` the innermost with its id, for a checksum failure
the innermost the command belongs to, else the innermost. -/
def Thr.target (t : Thr) (u : Unw) : Option (Region × List Region) :=
  let hit : Region → Bool := fun r => if u.cause = 0x85 then r.id.toNat = u.code else match u.target with | some n => r.pos ≤ n | none => true
  match t.regions.dropWhile fun r => !hit r with
  | [] => none
  | r :: rest => some (r, rest)

/-- What the causes other than TRAP and ABORT do before the handler (R376 step 2, R377): landings since `cropen` are discarded, what was triggered
completes, and vectors, predicates, tiles, shadows, maps and bridges are undefined. -/
def Mach.discard (m : Mach) (pos : Nat) : Mach :=
  let m := m.modT fun t =>
    let gone := t.land.filter fun l => pos ≤ l.seq
    { t with
      land := t.land.filter fun l => l.seq < pos
      wout := t.wout - (gone.filter fun l => match l.dst with | .w _ => true | _ => false).length }
  let m := m.complete
  let n := m.dev.free
  let m := m.modD fun d => { d with free := d.free + undefineStep }
  m.modT fun t => { t.undefine n with unw := t.unw.filter fun u => u.cause ≠ 0x81 }

/-- An unwinding acts at the bundle boundary of this thread time. The cause word has the layout of Table 19-2, and the bundle address is that of
the bundle at which the handler's stream stands. -/
def Mach.unwindTo (m : Mach) (u : Unw) (r : Region) (rest : List Region) : Mach :=
  let m := if u.cause = 0x85 then m.complete else m.discard r.pos
  let m := m.cancelSince r.pos
  m.modT fun t =>
    let t := { t with status := .running }
    t.enter r rest (trapWord u.cause 0 false r.sec 0 u.code) (bundleAddr (t.strm r.sec).pc r.sec) t.time

/-- UNWIND (R376, R371, R389): the first unwinding that is due acts on its region, poisoned values of one boundary together, with a record each;
with no region open the thread has a fatal end (R354), which during a save is a SAVEFAIL and nothing else (R366). -/
def execUnwind (pl : Place) (s : State) : Host.Outcome State Fault Refusal :=
  event (fun m0 =>
    let m := m0.at_ pl
    let t := m.t
    let due := t.unw.filter fun u => u.due ≤ t.time
    match due with
    | [] => m0
    | u :: _ =>
      if t.halted ≠ none || !(t.status = .running || t.status = .saving) then m0
      else
        let these := if u.cause = 0x81 then due.filter fun x => x.cause = 0x81 else [u]
        let m := m.modT fun t => { t with unw := these.foldl (fun l x => l.erase x) t.unw }
        match m.t.target u with
        | some (r, rest) =>
          let m := if u.cause = 0x81 then these.foldl (fun m x => m.faultRec 4 0x81 x.addr) m
            else if u.cause = 0x41 then m.faultRec 1 0x41 u.addr else m
          (m.unwindTo u r rest).at_ m0.cur
        | none =>
          if u.cause = 0x82 || u.cause = 0x85 then m.at_ m0.cur
          else if t.status = .saving then m.saveFails.at_ m0.cur
          else
            let m := these.tail.foldl (fun m x => m.faultRec 4 0x81 x.addr) m
            (m.fatalEnd u.cause u.addr).at_ m0.cur) s

end Sys2Proof.Machine
end

