-- ==== Sys2Proof/Machine/Debug.lean ====
section
/-! DEFINITION. Debug stops (R45–R50, R64): breakpoints, resuming, stepping, and what the debugger writes. -/

namespace Sys2Proof.Machine

/-- The acting stream reaches a breakpoint of its launch that has not halted this bundle yet (R45, R339). -/
def Mach.atBreak (m : Mach) : Bool := m.reaches && m.streamBreak
/-- BREAKPOINT_HALT (R45): the thread halts before the bundle at its address issues; of a paired thread both streams do. -/
def execBreakpointHalt (pl : Place) (s : State) : Host.Outcome State Fault Refusal :=
  event (fun m =>
    let a := m.at_ pl
    if !a.atBreak then m
    else
      let a := a.modT fun t => { t with halted := some .breakpoint }
      (a.modD fun d => { d with dbg := { d.dbg with skip := (pl, a.t.ref, a.st.pc.toNat) :: d.dbg.skip } }).haltTogether.at_ m.cur) s

/-- A halted thread goes on: a trap that halted it is delivered (R342), a fatal end completed (R354). What its array was to do has been done (R46). -/
def Mach.resume (m : Mach) : Mach :=
  let on := fun (m : Mach) => m.drainTiles.tileWrites.modT fun t => { t with halted := none, haltReq := false }
  match m.t.halted with
  | some (.trap w a) => (on m).deliverTrap w a false
  | some (.fault code a) =>
    (on m).modT fun t => t.startEnd 0xFE (some ⟨faultClass code, code, 0, a, if code = 0x47 then BitVec.allOnes 64 else t.prim.pc,
      if code = 0x47 then BitVec.allOnes 64 else t.sec.pc⟩)
  | _ => on m
/-- DEBUG_RESUME (R47, R64): `cont` resumes every halted thread from its halt point. -/
def execDebugResume (s : State) : Host.Outcome State Fault Refusal :=
  event (fun m =>
    let m := m.modD fun d => { d with skeins := d.skeins.map fun k => { k with halted := false }, dbg := { d.dbg with steps := none } }
    let go := fun (m : Mach) (pl : Place) => let a := m.at_ pl; if a.t.live then a.resume.at_ m.cur else m
    go (go m .p0) .p1) s
/-- DEBUG_STEP (R64): the thread issues n bundles, at least one, and halts again; other halted threads stay halted. On a thread halted for a fatal end it
does nothing (DESIGN CHOICE): no bundle of that thread issues again, and only `cont` completes the end (R354). -/
def execDebugStep (pl : Place) (n : Nat) (s : State) : Host.Outcome State Fault Refusal :=
  event (fun m =>
    let a := m.at_ pl
    match a.t.halted with
    | none => m
    | some (.fault _ _) => m
    | some _ =>
      ((a.drainTiles.tileWrites.modT fun t => { t with halted := none, haltReq := false }).modD fun d =>
        { d with dbg := { d.dbg with steps := some (pl, max n 1) } }).at_ m.cur) s

/-- The lanes of a vector value replaced; map and tangents stay. -/
def VVal.relane (x : VVal) (v : Vec) : VVal := { x with lanes := v }
/-- An element put into a list or taken out of it. -/
def toggle {α : Type} [BEq α] (x : α) (on : Bool) (l : List α) : List α := if on then (if l.contains x then l else l ++ [x]) else l.filter fun y => !(y == x)
/-- The debugger attaches to a launch or detaches from it, and sets or clears a breakpoint (R45, R64). -/
def Dbg.set (g : Dbg) (d : DbgDst) : Dbg :=
  match d with
  | .attach l on => { g with attached := toggle l on g.attached }
  | .brk l b on => { g with bps := toggle (l, b) on g.bps }
  | _ => g
/-- The 256 bytes that a spool's read port shows replaced, where a slot of its ring is filled. -/
def Thr.spoolPut (t : Thr) (n : Fin 16) (v : Vec) : Thr :=
  let x := nth t.spools n.val
  if !x.bound || x.filled = 0 then t else { t with spad := Mem.writeN t.spad (x.slotOff x.rpos) (bytesOfVec v) }
/-- DEBUGGER_REGISTER_WRITE (R48, R53, R64): the write changes only the register; one to a busy tile waits until the tile is free. What the spec leaves
open (DESIGN CHOICE): a write of a spool changes the slot that its read port shows, FLAGS, STAT and mpc take the value as it is, ERRINJ registers change
for a privileged thread only, and POOLB0–2 take the value although a thread is placed, since R131 binds the scheduler alone. -/
def execDebuggerRegisterWrite (pl : Place) (d : DbgDst) (w : Word) (v : Vec) (s : State) : Host.Outcome State Fault Refusal :=
  event (fun m =>
    let a := m.at_ pl
    let host := match d with | .attach _ _ => true | .brk _ _ _ => true | _ => false
    if host then m.modD fun x => { x with dbg := x.dbg.set d }
    else if a.t.halted = none then m
    else
      let put := fun (f : Thr → Thr) => (a.modT f).at_ m.cur
      let later := ((a.modD fun x => { x with dbg := { x.dbg with tileWrites := x.dbg.tileWrites ++ [(pl, d, v)] } }).tileWrites).at_ m.cur
      match d with
      | .s n => put fun t => { t with s := setNth t.s n.val w }
      | .p n => put fun t => if n.val = 0 then t else { t with p := setNth t.p n.val (w ≠ 0) }
      | .va n => put fun t => { t with va := setNth t.va n.val ((nth t.va n.val).relane v) }
      | .vb n => put fun t => { t with vb := setNth t.vb n.val ((nth t.vb n.val).relane v) }
      | .qa n => put fun t => if n.val = 0 then t else { t with qa := setNth t.qa n.val w }
      | .qb n => put fun t => if n.val = 0 then t else { t with qb := setNth t.qb n.val w }
      | .fmt => put fun t => { t with fmt := w &&& fmtMask, fmtq := [] }
      | .tscale => put fun t => { t with tscale := w.setWidth 32, tscaleq := [] }
      | .sp n => put fun t => t.spoolPut n v
      | .w n => put fun t => { t with w := setNth t.w n.val (wWord w) }
      | .xab => put fun t => { t with xab := t.xab.relane v }
      | .xba => put fun t => { t with xba := t.xba.relane v }
      | .mpc => (a.modSt fun x => { x with mpc := w }).at_ m.cur
      | .seed => put fun t => { t with seed := w }
      | .nrc => put fun t => { t with nrc := w.setWidth 16 }
      | .flags => put fun t => t.reportFlags (w.setWidth 32)
      | .stat => put fun t => { t with stat := w.setWidth 32 &&& 15#32 }
      | .errinjAddr => if a.t.priv then m.modC fun c => { c with injAddr := zx w 48 } else m
      | .errinjCtl => if a.t.priv then m.modC fun c => { c with injCtl := injOf w } else m
      | .poolb n => m.modC fun c => { c with poolb := setNth c.poolb n.val (w.setWidth 32) }
      | .attach _ _ | .brk _ _ _ => m
      | .tchunk _ _ => later
      | .cchunk _ _ => later) s

/-- The scalar result port of a unit that has one. -/
def scalarPort (u : FU) : Option SPort :=
  match u with | .sa0 => some .sa0r | .sa1 => some .sa1r | .ls => some .lsr | .sys => some .sysr | _ => none
/-- A unit delivers a second result. -/
def hasSecond (u : FU) : Bool :=
  match u with | .fa0 => true | .fa1 => true | .fb0 => true | .fb1 => true | .mx => true | .xf => true | _ => false
/-- One entry of a stream's latch view takes a value. -/
def Strm.putLatch (x : Strm) (u : FU) (j : LatchSel) (w : Word) (v : Vec) : Strm :=
  let port := fun (p : VPort) => { x with vport := setNth x.vport p.num { nth x.vport p.num with val := (nth x.vport p.num).val.relane v } }
  match j with
  | .o j =>
    if u.scalar then { x with sl := setNth x.sl u.num (setNth (nth x.sl u.num) j.val w) }
    else { x with vl := setNth x.vl (vlIx u) (setNth (nth x.vl (vlIx u)) j.val ((nth (nth x.vl (vlIx u)) j.val).relane v)) }
  | .r =>
    if u.scalar then (match scalarPort u with
      | some p => { x with sport := setNth x.sport p.num { nth x.sport p.num with val := w } }
      | none => x)
    else port (portR u)
  | .rx => if hasSecond u then port (portRx u) else x
/-- LATCH_WRITE (R48, R64): that entry of the latch view alone changes. -/
def execLatchWrite (pl : Place) (u : FU) (j : LatchSel) (w : Word) (v : Vec) (s : State) : Host.Outcome State Fault Refusal :=
  event (fun m =>
    let a := m.at_ pl
    if a.t.halted = none then m else (a.modSt fun x => x.putLatch u j w v).at_ m.cur) s

/-- A source that is a register. -/
def Src.isReg : Src → Bool
  | .s _ => true | .va _ => true | .vb _ => true | .p _ => true | .qa _ => true | .qb _ => true | .xab => true | .xba => true | .w _ => true
  | _ => false
/-- Reload one operand latch of the acting stream from the register it was last moved from. A latch whose last move came before a save, whose source is
then no longer known, and one whose last source is no register keep their values (DESIGN CHOICE: the spec does not say what their source register is). -/
def Mach.reload (m : Mach) (u : FU) (j : Nat) : Mach :=
  match nth (nth m.st.lsrc u.num) j with
  | some (src, mask) =>
    if !Src.isReg src then m
    else match m.read src with
      | .ok v => m.modSt fun x =>
        if u.scalar then { x with sl := setNth x.sl u.num (setNth (nth x.sl u.num) j v.word) }
        else { x with vl := setNth x.vl (vlIx u) (setNth (nth x.vl (vlIx u)) j ((nth (nth x.vl (vlIx u)) j).put v.vval mask).1) }
      | _ => m
  | none => m
/-- LATCH_FLUSH (R48): every operand latch of the thread is reloaded from its source register. -/
def execLatchFlush (pl : Place) (s : State) : Host.Outcome State Fault Refusal :=
  event (fun m =>
    let a := m.at_ pl
    if a.t.halted = none then m
    else
      let go := fun (m : Mach) => fuList.foldl (fun m u => [0, 1, 2].foldl (fun m j => m.reload u j) m) m
      if a.t.paired then (go ((go (a.at_ .p0)).at_ .p1)).at_ m.cur else (go a).at_ m.cur) s

end Sys2Proof.Machine
end

