-- ==== Sys2Proof/Machine/Pages.lean ====
section
/-! DEFINITION. Pages on the move (R152–R155, R173, R290, R360, R361): firmware brings a page in or declines it, its time runs out, the migration
engine moves a page, and invalidation commands. -/

namespace Sys2Proof.Machine

/-! ### Leaf entries -/

/-- An entry's range of a space meets a range of addresses; no range is the whole space. -/
def TlbE.covers (e : TlbE) (asid : BitVec 16) (r : Option (Nat × Nat)) : Bool :=
  e.asid = asid && match r with | none => true | some (a, n) => e.vpn * 2 ^ e.bits < a + n && a < (e.vpn + 1) * 2 ^ e.bits
/-- Remove the translations of a range from every buffer (R152). -/
def Mach.invalidate (m : Mach) (asid : BitVec 16) (r : Option (Nat × Nat)) : Mach :=
  { m with
    core := { m.core with tlb := m.core.tlb.filter fun e => !e.covers asid r }
    dev := { m.dev with tlb := m.dev.tlb.filter fun e => !e.covers asid r } }
/-- The addresses of the page of `bits` that holds an address. -/
def pageOf (va : Word) (bits : Nat) : Nat × Nat := (va.toNat / 2 ^ bits * 2 ^ bits, 2 ^ bits)
/-- Physical pages that firmware gives a page are no longer lost ones (R387). -/
def Dev.reuse (d : Dev) (pa n : Nat) : Dev := { d with lost := d.lost.filter fun p => !(pa ≤ 0x10000 * p && 0x10000 * p < pa + n) }
/-- Nothing waits for a page any more. -/
def Dev.unwait (d : Dev) (asid : BitVec 16) (r : Nat × Nat) : Dev :=
  { d with pageWaits := d.pageWaits.filter fun w => !(w.asid = asid && r.1 ≤ w.va.toNat && w.va.toNat < r.1 + r.2) }
/-- A leaf entry with its address, PRES set and LEAVE clear. -/
def pteAt (e : Word) (pa : Nat) : Nat := e.toNat - fld e 47 8 * 256 - fld e 6 6 * 64 - fld e 0 0 + pa + 1

/-- The segments of `prefh` and `migr` commands in flight on a page of a space. -/
def Dev.moversOn (d : Dev) (asid : BitVec 16) (r : Nat × Nat) : List (Nat × Nat) :=
  d.cmds.flatMap fun c =>
    let segs := fun (a : Word) (n : Nat) =>
      if !c.started || c.asid ≠ asid then []
      else ((List.range n).filter fun k => !c.done.contains k && r.1 ≤ a.toNat + 65536 * k && a.toNat + 65536 * k < r.1 + r.2).map fun k => (c.id, k)
    match c.kind with
    | .prefh a n _ => segs a n
    | .migr a n _ => segs a n
    | _ => []

/-! ### Invalidation commands (R152, R363) -/

/-- A command is malformed: reserved bits, or no such address space. -/
def Dev.ivqBad (d : Dev) (q : Ivq) : Bool :=
  fld q.w0 15 0 ≠ 0 || fld q.w1 29 0 ≠ 0 || q.w3 ≠ 0 || d.astlen.toNat ≤ fld q.w0 63 48 ||
    d.num (d.astbase.toNat + 16 * fld q.w0 63 48) 8 % 2 = 0
/-- A write-back of this core is on its way. -/
def Mach.writesOut (m : Mach) : Bool := [m.thr0, m.thr1].any fun t => t.hops.any fun h => match h.op with | .writeBack _ _ _ => true | _ => false
/-- An access or an engine's segment that has its translation has not performed yet: a write-back, a line's fill, or a segment some of whose granules
have landed. -/
def Mach.usersOut (m : Mach) : Bool := m.core.l1.any L1Line.filling || m.dev.cmds.any (fun c => !c.early.isEmpty) || m.writesOut
/-- IVQ_COMMAND_EXECUTE (R152): the oldest command of a die's queue removes its range's translations, once every access that has one has performed,
and counts one arrival at its milestone. -/
def execIvqCommandExecute (die : Nat) (s : State) : Host.Outcome State Fault Refusal :=
  event (fun m0 =>
    if 4 ≤ die then m0
    else match nth m0.dev.ivq die with
      | [] => m0
      | q :: _ =>
        if q.done then m0.ivqArrive die q
        else if m0.dev.ivqBad q then m0.modD fun d => (d.ivqPop die).ivqMal die q
        else if m0.usersOut then m0
        else
          let n := fld q.w1 63 32
          (m0.invalidate (BitVec.ofNat 16 (fld q.w0 63 48)) (if n = 0 then none else some (fld q.w0 47 16 * 0x10000, n * 0x10000))).ivqArrive die q) s

/-! ### Firmware (R153, R360) -/

/-- PAGE_RESIDENT (R153): firmware has brought a page in: its leaf names a physical page with PRES = 1 and LEAVE = 0, and what waited for it
may go on. A page that only stops leaving keeps its address. -/
def execPageResident (asid : BitVec 16) (va pa : Word) (s : State) : Host.Outcome State Fault Refusal :=
  event (fun m => match m.dev.leafAt asid va with
    | none => m
    | some (at_, bits) =>
      let e := BitVec.ofNat 64 (m.dev.num at_ 8)
      let base := if bit e 0 then fld e 47 8 * 256 else pa.toNat
      if (bit e 0 && !bit e 6) || base % 2 ^ bits ≠ 0 || !m.dev.paOk base || !m.dev.paOk (base + 2 ^ bits - 1) || inMgmt base then m
      else
        let r := pageOf va bits
        ((m.invalidate asid (some r)).modD fun d => ((d.pokeNum at_ 8 (pteAt e base)).unwait asid r).reuse base (2 ^ bits)).runLater) s

/-- PAGE_DECLINE (R290, R360): firmware declines a page: moves asked for it are counted as done, and a page that is not in place gets a TYPE 0
leaf, so that accesses that wait for it fault. -/
def execPageDecline (asid : BitVec 16) (va : Word) (s : State) : Host.Outcome State Fault Refusal :=
  event (fun m => match m.dev.leafAt asid va with
    | none => m
    | some (at_, bits) =>
      let e := BitVec.ofNat 64 (m.dev.num at_ 8)
      let r := pageOf va bits
      let m := (m.dev.moversOn asid r).foldl (fun m k => m.segOver k.1 k.2 65536) m
      if bit e 0 && !bit e 6 then m
      else ((m.invalidate asid (some r)).modD fun d => (d.pokeNum at_ 8 (e.toNat - fld e 4 3 * 8)).unwait asid r).runLater) s

/-- A step of the device inside another. -/
def Mach.within (m : Mach) (f : State → Host.Outcome State Fault Refusal) : Mach :=
  match f ⟨m, none, []⟩ with | .next s => s.m | _ => m

/-- The accesses of the acting thread that wait for a page meet a fault. -/
def Mach.failAccesses (m : Mach) (page : Nat) : Mach :=
  let t := m.t
  let stops := fun (a : Word) (n : Nat) => match m.coreRange a n false with | .absent x => x.toNat / 0x10000 = page | _ => false
  let bad : Landing → Bool := fun l => l.data.isNone && match l.src with
    | .scalar a n _ => stops a n
    | .l1 a n _ => stops a n
    | .vec a tg => stops a 256 || tg.any fun x => stops x 256
    | _ => false
  let hops := t.hops.filter fun h => match m.hopParts h with | .absent a => a.toNat / 0x10000 = page | _ => false
  let m := m.modT fun t => { t with land := t.land.filter fun l => !bad l
                                    xfaults := t.xfaults ++ (t.land.filter bad).map fun l => ⟨BitVec.ofNat 64 (page * 0x10000), some l.due⟩ }
  hops.foldl (fun m h => (m.modT fun t => { t with hops := t.hops.erase h }).hopFault h) m

/-- The rows of exchanges that a receiver answered retry-later, parked or not yet, meet a fault at a destination milestone on a page (R285, R359). -/
def Mach.failRows (m : Mach) (asid : BitVec 16) (page : Nat) : Mach :=
  m.dev.cmds.foldl (fun m c => match c.kind with
    | .xchg _ _ _ _ _ _ _ dms =>
      if c.kind.abroad || c.asid ≠ asid || dms.toNat / 0x10000 ≠ page then m
      else
        let rows := (c.ans.filter fun e => !e.2).map (fun e => e.1) ++ (m.core.layby.filter fun e => e.cmd = c.id).map fun e => e.row
        rows.foldl (fun m r => match m.dev.cmd? c.id with
          | some c => m.rowFaults { c with ans := c.ans.filter fun e => e.1 ≠ r } r dms
          | none => m) (m.modC fun k => { k with layby := k.layby.filter fun e => e.cmd ≠ c.id })
    | _ => m) m
/-- A machine but for what waits for pages. -/
def Mach.still (m : Mach) : Mach := m.modD fun d => { d with pageWaits := [], retryAt := [], later := [] }
/-- The steps of engines, winders, lanes, invalidation queues and schedulers that may have met a page which is not in place. -/
def Mach.waiters (m : Mach) : List (State → Host.Outcome State Fault Refusal) :=
  let d := m.dev
  d.cmds.flatMap (fun c => (List.range (min c.kind.segs 65536)).flatMap fun k =>
    [execEngineSegmentComplete c.id k (.whole true), execXchgRowArrival c.id k true]) ++
  (List.range d.insts.length).reverse.map execCollComplete ++
  [Place.p0, Place.p1].flatMap (fun pl => let t := (m.at_ pl).t
    ((List.range t.land.length).reverse.filter fun k => (t.land[k]?.map fun l => l.dst.isTable).getD false).map (execLandingDataArrival pl)) ++
  [Place.p0, Place.p1].flatMap (fun pl => (List.range 16).flatMap fun k => [execWinderFill pl (Fin.ofNat 16 k), execWinderDrain pl (Fin.ofNat 16 k)]) ++
  d.lanes.flatMap (fun l => [execLaneEntryRead l.1, execDependencePoll l.1, execLaneEntryStart l.1]) ++
  (List.range 4).flatMap (fun die => [execIvqCommandExecute die, execLaunchQueueDeparture die]) ++ [execThreadPlacement] ++
  (List.range d.saved.length).reverse.map execContextRestore ++ [Place.p0, Place.p1].map fun pl => execSavefail ⟨pl, false⟩
/-- Every step that made no progress while the page could come, and makes some when its leaf counts as TYPE 0, is made (R359, R360, R362): `before` is
the machine with the page still awaited. -/
def Mach.giveUp (m before : Mach) : Mach :=
  before.waiters.foldl (fun m f => if (before.within f).still = before.still then m.within f else m) m

/-- PAGE_WAIT_TIMEOUT (R360): firmware has let 2^28 A-cycles of milepost time pass: every access that still waits for the page faults. -/
def execPageWaitTimeout (asid : BitVec 16) (va : Word) (s : State) : Host.Outcome State Fault Refusal :=
  event (fun m =>
    let page := va.toNat / 0x10000
    match m.dev.pageWaits.find? fun w => w.asid = asid && w.va.toNat / 0x10000 = page && !w.failed with
    | none => m
    | some w =>
      if m.dev.milepost < w.since + 2 ^ 28 then m
      else
        let on := fun (m : Mach) (pl : Place) =>
          let a := m.at_ pl
          if a.t.live && a.t.asid = asid && !(pl = .p1 && a.t.paired) then (a.failAccesses page).at_ m.cur else m
        let m := on (on m .p0) .p1
        let held := m.dev.retryAt.filter fun e => match m.dev.cmd? e.1 with | some c => c.asid = asid | none => false
        let before := m.modD fun d => { d with retryAt := d.retryAt.filter fun e => !held.contains e }
        let m := before.modD fun d => { d with pageWaits := d.pageWaits.map fun x => if x = w then { x with failed := true } else x }
        let m := held.foldl (fun m e => match m.dev.cmd? e.1 with | some c => m.retry c e.2.1 | none => m) m
        ((m.giveUp before).failRows asid page).runLater) s

/-! ### The migration engine (R154, R155, R173) -/

/-- Objects that the home slices know by address follow their page. -/
def Dev.follow (d : Dev) (f : Nat → Nat) : Dev :=
  { d with
    skeins := d.skeins.map fun k => { k with pa := f k.pa }
    heaps := d.heaps.map fun k => { k with pa := f k.pa, parts := k.parts.map fun p => (f p.1, p.2) }
    miles := d.miles.map fun k => { k with pa := f k.pa }
    binds := d.binds.map fun k => { k with pa := f k.pa }
    mons := d.mons.map fun k => { k with pa := f k.pa }
    insts := d.insts.map fun i => { i with skein := f i.skein }
    lanes := d.lanes.map fun l => (l.1, { l.2 with entries := l.2.entries.map fun e => { e with binds := e.binds.map fun b => (b.1, f b.2) } }) }
/-- The bytes of a physical page and their poison move; its written bits are set (R388). -/
def Dev.movePage (d : Dev) (old new n : Nat) : Dev :=
  let moved := (d.mem.window old n).map fun c => (c.1 + new, c.2)
  let d1 := { d with
    mem := d.mem.splice new n moved
    poison := ((d.poison.filter fun u => old ≤ 64 * u && 64 * u < old + n).map fun u => (64 * u - old + new) / 64).foldl
      (fun l u => insertNat u l) (d.poison.filter fun u => !(new ≤ 64 * u && 64 * u < new + n))
    repl := d.repl.filter fun r => !(old ≤ 128 * r.line && 128 * r.line < old + n || new ≤ 128 * r.line && 128 * r.line < new + n)
    bmc := d.bmc.filter fun e => !(old ≤ e.pa && e.pa < old + n || new ≤ e.pa && e.pa < new + n)
    written := if 0x200000000000 ≤ new then (unitsOf new n 0x10000).foldl (fun l u => insertNat u l) d.written else d.written }
  d1.follow fun a => if old ≤ a && a < old + n then a - old + new else a
/-- The core's lines of a physical page leave L1, the dirty ones written back (R136). -/
def Mach.flushPage (m : Mach) (a n : Nat) : Mach :=
  let of_ := fun (l : L1Line) => a ≤ 128 * l.line && 128 * l.line < a + n
  (m.flushLines (m.core.l1.filter of_)).modC fun c => { c with l1 := c.l1.filter fun l => !of_ l }
/-- A thread of the core reads or writes back a physical page now. -/
def Mach.inFlight (m : Mach) (a n : Nat) : Bool :=
  [Place.p0, Place.p1].any fun pl =>
    let m := m.at_ pl
    (m.t.land.any fun l => l.data.isNone && meets (m.landRanges l) [(a, n)]) ||
    (m.t.hops.any fun h => match h.op with | .writeBack _ _ _ => meet h.dva.toNat 128 [(a, n)] | _ => false)
/-- The tier that the first `migr` still waiting on a page of a space asks for, by the order in which the requests reached the engine (R361): `some true`
for the second. -/
def Dev.askedTier (d : Dev) (asid : BitVec 16) (r : Nat × Nat) : Option Bool :=
  let on := d.cmds.filterMap fun c => match c.kind with
    | .migr a n t => if c.started && c.asid = asid && (List.range n).any fun k =>
        !c.done.contains k && r.1 ≤ a.toNat + 65536 * k && a.toNat + 65536 * k < r.1 + r.2 then some (c.sentAt, c.id, t) else none
    | _ => none
  (on.foldl (fun (b : Option (Nat × Nat × Bool)) x => match b with
    | some y => if x.1 < y.1 || (x.1 = y.1 && x.2.1 < y.2.1) then some x else b
    | none => some x) none).map fun x => x.2.2

/-- PAGE_MIGRATION (R154, R155, R361): the migration engine moves a resident page whose reads have drained. A pinned page does not go to the second
tier: one that was leaving stays, and its waiters go on. The eviction of a page that no `migr` asks for cancels every `prefh` and `migr` in flight to
it: their bytes count as landed. -/
def execPageMigration (asid : BitVec 16) (va pa : Word) (s : State) : Host.Outcome State Fault Refusal :=
  event (fun m => match m.dev.leafAt asid va with
    | none => m
    | some (at_, bits) =>
      let e := BitVec.ofNat 64 (m.dev.num at_ 8)
      let old := fld e 47 8 * 256
      let new := pa.toNat
      let n := 2 ^ bits
      let r := pageOf va bits
      let down := decide (0x200000000000 ≤ new)
      if !bit e 0 || new % n ≠ 0 || old = new || !m.dev.paOk new || !m.dev.paOk (new + n - 1) || inMgmt new || inMgmt old ||
          (old ≤ at_ && at_ < old + n) || (new ≤ at_ && at_ < new + n) then m
      else if bit e 7 && down then
        if bit e 6 then ((m.invalidate asid (some r)).modD fun d => (d.pokeNum at_ 8 (pteAt e old)).unwait asid r).runLater else m
      else if m.inFlight old n then m
      else
        let asked := m.dev.askedTier asid r
        let m := (m.flushPage old n).invalidate asid (some r)
        let m := (m.probeHome old n).modD fun d => (((d.movePage old new n).pokeNum at_ 8 (pteAt e new)).unwait asid r).reuse new n
        let m := if down && old < 0x200000000000 && asked ≠ some true then
            (m.dev.moversOn asid r).foldl (fun m k => m.segOver k.1 k.2 65536) m
          else m
        m.runLater) s

end Sys2Proof.Machine
end

