-- ==== Sys2Proof/Machine/Reliab.lean ====
section
/-! DEFINITION. Errors and their repair (R367–R374, R380, R381, R384, R385, R387, R388): corrected and retried errors, retirement, Twine links, the
die drop and the checkpoint. -/

namespace Sys2Proof.Machine

/-! ### Corrected and retried errors (Table 21-2) -/

/-- CORRECTED_ERROR (R368): the counter of a row of Table 21-2 on its die; nothing else changes. -/
def execCorrectedError (level die : Nat) (s : State) : Host.Outcome State Fault Refusal :=
  event (fun m => if level < 6 && die < 4 then m.modD fun d => d.corrected die level else m) s

/-- The scheduler asks every thread of the core for its save (R381, R387). -/
def Mach.askAll (m : Mach) : Mach :=
  let ask := fun (t : Thr) => if t.live then { t with preq := true } else t
  { m with thr0 := ask m.thr0, thr1 := ask m.thr1 }

/-- A thread that consumes lasting data at a pool offset unwinds with UNCORR (Table 21-4). -/
def Mach.uncorr (m : Mach) (off : Nat) (p1 : Bool) : Mach :=
  let a := m.at_ (if p1 then .p1 else .p0)
  if a.t.status ≠ .running then m
  else (a.modT fun t => { t with unw := t.unw ++ [⟨0x80, 0, none, BitVec.ofNat 64 (m.core.num * 2 ^ 32 + off), t.time⟩] }).at_ m.cur
/-- Lasting data of the pool of this core (Tables 21-1, 21-4): a granule of the scratchpad or of the register region is poisoned; a clean line of L1 is
refetched; who consumes register region data or a dirty line unwinds with UNCORR. `p1` names the consumer. Which line stands at an offset of L1 the
spec leaves open: the lines in the order in which L1 took them (DESIGN CHOICE). -/
def Mach.lastingPool (m : Mach) (off : Nat) (p1 : Bool) : Mach :=
  let b0 := (m.core.poolb[0]).toNat
  let b1 := (m.core.poolb[1]).toNat
  if b0 ≤ off && off < b1 then
    let hit := fun (m : Mach) (pl : Place) =>
      let a := m.at_ pl
      if a.t.live && a.spadBase ≤ off && off < a.spadBase + a.spadSize then
        (a.modT fun t => { t with spadPoison := insertNat ((off - a.spadBase) / 16) t.spadPoison }).at_ m.cur
      else m
    if m.thr0.paired then hit m .p0 else hit (hit m .p0) .p1
  else if off < b0 then (m.modC fun c => { c with regPoison := insertNat (off / 16) c.regPoison }).uncorr off p1
  else match m.core.l1[(off - b1) / 128]? with
    | some l =>
      if l.dirty then m.uncorr off p1
      else if l.filling then m
      else m.modC fun c => { c with l1 := c.l1.filter fun x => x.line ≠ l.line }
    | none => m

/-- What a lasting error does to its data (R373). In row 0 the address is that of Table 21-6: core number and pool offset, with the consuming place
in bit 48; or, with bit 63 set, cluster number and offset. -/
def Mach.lastingData (m : Mach) (level : Nat) (a : Word) : Mach :=
  match level with
  | 0 =>
    if bit a 63 then m.modD fun d => d.poisonCs (fld a 37 32 % 36) (fld a 22 0) 1
    else if fld a 40 32 = m.core.num then m.lastingPool (fld a 20 0) (bit a 48) else m
  | 1 | 2 => if m.dev.inHbm a.toNat || m.dev.inTier2 a.toNat then m.modD fun d => d.poisonPa a.toNat 1 else m
  | 5 => m.modC fun c => { c with failing := true }
  | _ => m

/-- ERROR_RETRY (R372, R373): an error that is not corrected is retried once. One that the retry clears is transient; one that returns is lasting.
A failed segment has steps of its own (R379). -/
def execErrorRetry (level die : Nat) (addr : Word) (again : Bool) (s : State) : Host.Outcome State Fault Refusal :=
  event (fun m =>
    if 6 ≤ level || level = 4 || 4 ≤ die then m
    else
      let code := if level = 5 then 0x84 else 0x80
      let at_ : Word := BitVec.ofNat 64 (fld addr 47 0)
      let m := m.modD fun d => (d.count die (if again then 7 else 6)).errorRec die (if again then 3 else 2) level code at_
      if again then m.lastingData level addr else m) s

/-! ### Retirement (R14, R373, R381) -/

/-- The lanes a link runs on when so many still train: 8, 4 or none (R14). -/
def runLanes (n : Nat) : Nat := if 8 ≤ n then 8 else if 4 ≤ n then 4 else 0
/-- How long a generation number is in quarantine before it is issued again, in A-cycles (R385). -/
def quarantine : Nat := 16000000
/-- A number of an endpoint is in quarantine. -/
def Dev.inQuarantine (d : Dev) (die : Nat) (g : BitVec 16) : Bool := d.genOld.any fun e => e.1 = die && e.2.1 = g && d.acyc < e.2.2 + quarantine
/-- The endpoint's generation advances to the next number that is not in quarantine (R385). -/
def Dev.advanceGen (d : Dev) (die : Nat) : Dev :=
  let old := nth d.egen die
  let d := { d with genOld := d.genOld.filter (fun (e : Nat × BitVec 16 × Nat) => d.acyc < e.2.2 + quarantine) ++ [(die, old, d.acyc)] }
  let new := ((List.range 65535).map fun k => old + BitVec.ofNat 16 (k + 1)).find? fun g => !d.inQuarantine die g
  { d with egen := setNth d.egen die (new.getD old) }
/-- The die at whose controller a port's errors count: its own; of a die link, numbered 24 to 29 by its dies in ascending order, the lower one (DESIGN
CHOICE). -/
def portDie (p : Nat) : Nat := if p < 24 then p / 6 else [0, 0, 0, 1, 1, 2].getD (p - 24) 0
/-- The two dies of a die link. -/
def linkDies (p : Nat) : Nat × Nat := [(0, 1), (0, 2), (0, 3), (1, 2), (1, 3), (2, 3)].getD (p - 24) (0, 0)
/-- A port or a die link runs on so many lanes from now on; a port that is retired whole advances the generation of its endpoint (R14, R385). An
access between two dies whose only direct link retrains or is retired performs as it does over a link that runs (DESIGN CHOICE: the spec does not say what
it does). -/
def Dev.portLanes (d : Dev) (p n : Nat) : Dev :=
  let x := nth d.ports p
  let k := runLanes (min n x.lanes)
  let d1 := { d with ports := setNth d.ports p { x with lanes := k, retrain := false, badOnce := false, sbad := none } }
  if k = 0 && x.lanes ≠ 0 && p < 24 then d1.advanceGen (portDie p) else d1
/-- The lanes of a port that its retirements leave, of 8: a part of row 3 names the port in bits [4:0], and in bit 32 that it is retired whole. -/
def Dev.lanesLeft (d : Dev) (p : Nat) : Nat :=
  let mine := d.retired.filter fun e => e.1 = 3 && fld e.2.2 4 0 = p
  if mine.any fun e => bit e.2.2 32 then 0 else 8 - mine.length
/-- A port trains with so many lanes; those that fail are retired (R14). -/
def Dev.trainPort (d : Dev) (p n : Nat) : Dev :=
  let d := { d with retired := d.retired ++ List.replicate (d.lanesLeft p - n) (3, portDie p, BitVec.ofNat 64 p) }
  d.portLanes p (d.lanesLeft p)

/-- PART_RETIREMENT (R373): firmware retires the part of a row of Table 21-2: a core, or with bit 63 set a bank of a cluster; a line frame; a page,
whose bytes move to a spare row under the same address; a lane of a port, a port, or a die link. -/
def execPartRetirement (level die : Nat) (part : Word) (s : State) : Host.Outcome State Fault Refusal :=
  event (fun m =>
    if 6 ≤ level || level = 4 || 4 ≤ die then m
    else
      let m := m.modD fun d => { d with retired := d.retired ++ [(level, die, part)] }
      match level with
      | 3 => if fld part 4 0 < 30 then m.modD fun d => d.portLanes (fld part 4 0) (d.lanesLeft (fld part 4 0)) else m
      | 0 | 5 => if !bit part 63 && part.toNat = m.core.num then (m.modC fun c => { c with retired := true }).askAll else m
      | _ => m) s

/-- CORE_RETIREMENT (R381): a core that is failing or retired takes no thread any more, and its threads are asked for their saves. -/
def execCoreRetirement (s : State) : Host.Outcome State Fault Refusal :=
  event (fun m => if m.core.failing || m.core.retired then (m.modC fun c => { c with retired := true }).askAll else m) s

/-! ### Twine links (R384, R385) -/

/-- The flits that an acknowledgement up to a number covers, of those sent and not yet acknowledged. -/
def Port.acked (x : Port) (upTo : BitVec 12) : Nat :=
  match x.unack with
  | [] => 0
  | u :: _ => (upTo - u.1 + BitVec.ofNat 12 u.2.1).toNat
/-- The packets of a replay buffer that are left when so many flits are acknowledged. -/
def unackAfter : Nat → List (BitVec 12 × Nat × Sent) → List (BitVec 12 × Nat × Sent)
  | _, [] => []
  | n, u :: us => if u.2.1 ≤ n then unackAfter (n - u.2.1) us else u :: us
/-- Change a port. -/
def Dev.setPort (d : Dev) (p : Nat) (x : Port) : Dev := { d with ports := setNth d.ports p x }
/-- The flit of a number is among those that an acknowledgement covers. -/
def ackCovers (upTo n : BitVec 12) : Bool := (upTo - n).toNat < 2048
/-- A port's replay buffer after an acknowledgement up to a number (R384). -/
def Port.take (x : Port) (upTo : BitVec 12) : Port :=
  { x with unack := unackAfter (x.acked upTo) x.unack, sbad := x.sbad.filter fun n => !ackCovers upTo n }
/-- A link retrains, with a record of the lasting error (R373, R384). -/
def Dev.relink (d : Dev) (port : Nat) (x : Port) : Dev :=
  let die := portDie port
  let d := (d.setPort port { x with badOnce := false, sbad := none, retrain := true }).count die 7
  Dev.record { d with free := d.free + 1 } die
    { Rec0.plain 3 0x80 with level := 3, place := if port < 24 then port else 0xFFFF, second := Config.freeChoice d.free }
/-- The age that a packet leaves its port with: the time it has spent there is added, in units of 31,250 A-cycles (R385). -/
def Dev.sentAge (d : Dev) (s : Sent) : Nat := s.age + (d.acyc - s.since) / 31250
/-- A port drops a packet: it has grown too old, or its generation is no longer that of its source (R385). -/
def Dev.drops (d : Dev) (s : Sent) : Bool := s.pkt ≠ .idle && (255 < d.sentAge s || s.gen ≠ nth d.egen s.die)
/-- Packets of a port's replay buffer leave again, under their numbers; in the place of one that is dropped, which is counted, its flits leave idle
(R384, R385). -/
def Dev.replay (d : Dev) (port : Nat) (us : List (BitVec 12 × Nat × Sent)) : Dev :=
  us.foldl (fun d u =>
    let s := u.2.2
    let x := nth d.ports port
    let idle := { s with pkt := .idle }
    if d.drops s then
      ({ d.setPort port { x with unack := x.unack.map fun v => if v = u then (u.1, u.2.1, idle) else v } with outbox := d.outbox ++ [idle] } : Dev).count (portDie port) 9
    else { d with outbox := d.outbox ++ [{ s with age := d.sentAge s }] }) d
/-- The far end reports that a flit failed its CRC: it is replayed with those after it, and when it fails again the link retrains (R384). -/
def Dev.nak (d : Dev) (port : Nat) (n : BitVec 12) : Dev :=
  let x := (nth d.ports port).take (n - 1)
  if x.sbad = some n then d.relink port x else (d.setPort port { x with sbad := some n }).replay port x.unack
/-- The live generation of a source (R385); one that has announced none is in its first. -/
def Dev.liveGen (d : Dev) (src : Nat) : BitVec 16 := match d.gens.find? fun e => e.1 = src with | some e => e.2 | none => 0
/-- The oldest row on its way to a device that it has not answered: rows and their answers keep their order (R174). -/
def Dev.rowOut (d : Dev) (dev : Nat) : Option (Cmd × Nat) :=
  (d.cmds.find? fun c => c.kind.abroad && c.kind.ddev = dev && !c.failed.isEmpty).bind fun c => c.failed.head?.map fun k => (c, k)
/-- A range of device memory that exists and is no management register. -/
def Dev.memRange (d : Dev) (pa n : Nat) : Bool := (unitsOf pa n 0x1000).all fun u => (d.inHbm (max pa (0x1000 * u)) || d.inTier2 (max pa (0x1000 * u)))
/-- The memory of this device that a packet reads or writes. -/
def pktRange : TPkt → Option (Nat × Nat)
  | .read pa n => some (pa, n)
  | .write pa bs _ => some (pa, bs.length)
  | .join pa _ _ _ => some (pa, 64)
  | .leave pa _ _ => some (pa, 64)
  | .coll pa _ _ _ _ _ _ _ _ => some (pa, 64)
  | .stop pa _ _ => some (pa, 64)
  | _ => none
/-- What a packet from another device does (R15; that this device is always the home of the skeins and collectives that its threads take part in, so that it
sends no join, leave or part of a collective and drops a collective's result that reaches it, is the model's DESIGN CHOICE: Table 7-3 gives no address on
another device): it reads or writes memory, lands a row and is answered, answers one of this device's rows, joins or
leaves a skein, brings its part of a collective, or halts a skein. -/
def Mach.twineAct (m : Mach) (die src : Nat) (pkt : TPkt) : Mach :=
  let post := fun (m : Mach) (p : TPkt) => m.modD fun d => d.post die src p
  match pkt with
  | .read pa n =>
    let m := m.probeHome pa n
    post m (.reply (m.dev.bytes pa n) (m.dev.poisoned pa n))
  | .write pa bs bad => m.modD fun d => d.write pa bs bad
  | .row dcl off bs bad asid dms =>
    if 36 ≤ dcl || 8388608 < off + bs.length then m
    else if m.dev.dmsFault asid dms then post m .rowFault
    else if m.dev.dmsAbsent asid dms then post (m.modD fun d => d.waitPage asid dms) (.rowAck false)
    else post (m.landRow dcl off bs bad asid dms) (.rowAck true)
  | .rowAck ok => (match m.dev.rowOut src with | some (c, k) => m.rowAnswered c k ok | none => m)
  | .rowFault => (match m.dev.rowOut src with
    | some (c, k) => (match c.kind with
      | .xchg _ _ _ _ _ _ _ dms => m.rowFaults { c with failed := c.failed.filter (· ≠ k), sends := c.sends.filter fun e => e.1 ≠ k } k dms
      | _ => m)
    | none => m)
  | .join pa launch tid clrht => m.modD fun d => d.skJoin pa ⟨launch, tid, some src⟩ clrht
  | .leave pa launch tid => m.modD fun d => d.skLeave pa ⟨launch, tid, some src⟩
  | .coll pa launch tid op red dt nb bs bad => (match m.dev.skein? pa with
    | some k =>
      let r : TRef := ⟨launch, tid, some src⟩
      m.collMeet pa k r (op, red, dt, nb) fun i => { i with far := i.far ++ [(r, bs, bad)] }
    | none => m)
  | .stop pa _ _ => (match m.dev.skein? pa with
    | some k =>
      if !k.ht || k.halted then m
      else (m.modD fun d => { d with skeins := d.skeins.map fun x => if x.pa = pa then { x with halted := true } else x }).tellHalt k (some src)
    | none => m)
  | _ => m
/-- A flit that passed its CRC: the next one in sequence alone counts, so that a replay neither duplicates nor reorders (R384). Its packet is dropped when it
is too old or of a generation that is not live (R385), and waits at the link while the memory or cluster SRAM it names is on a stopped die (R391). -/
def Mach.flitPassed (m : Mach) (port : Nat) (seq : BitVec 12) (w : Wire) : Mach :=
  let x := nth m.dev.ports port
  let die := portDie port
  let away := match w.pkt, pktRange w.pkt with
    | .row dcl _ _ _ asid dms, _ => m.dev.rowStops dcl asid dms
    | _, some (pa, n) => m.dev.memRange pa n && m.dev.stops pa n
    | _, none => false
  if seq ≠ x.rseq || away then m
  else
    let y := { x with badOnce := false, rseq := x.rseq + BitVec.ofNat 12 (pktFlits w.pkt) }
    let m := m.modD fun d => if x.badOnce then (d.setPort port y).corrected die 3 else d.setPort port y
    match w.pkt with
    | .ack n => m.modD fun d => let d := d.setPort port (y.take n); d.flush d.waitOut
    | .nak n => m.modD fun d => d.nak port n
    | _ =>
      let m := m.modD fun d => { d with outbox := d.outbox ++ [⟨w.src, die, nth d.egen die, d.acyc, 0, .ack (y.rseq - 1)⟩] }
      if 24 ≤ port then m
      else match w.pkt with
        | .generation => m.modD fun d => { d with gens := (d.gens.filter fun e => e.1 ≠ w.src) ++ [(w.src, w.gen)] }
        | _ =>
          if 255 < w.age + w.spent / 31250 || w.gen ≠ m.dev.liveGen w.src then m.modD fun d => d.count die 9
          else if (match pktRange w.pkt with | some (pa, n) => !m.dev.memRange pa n | none => false) then m
          else m.twineAct die w.src w.pkt

/-- FLIT_RECEIVE (R384, R385): a packet's flits reach a port, or the near end of a die link, with their sequence number, the packet's source, age and
generation, and the A-cycles it has spent in the port. A flit that fails its CRC is replayed; one that fails again makes the link retrain. A replay
that passes is a corrected error. -/
def execFlitReceive (port : Nat) (crcOk : Bool) (seq : BitVec 12) (w : Wire) (s : State) : Host.Outcome State Fault Refusal :=
  event (fun m =>
    let x := nth m.dev.ports port
    if 30 ≤ port || x.lanes = 0 || x.retrain then m
    else if crcOk then m.flitPassed port seq w
    else if !x.badOnce then m.modD fun d => d.setPort port { x with badOnce := true }
    else m.modD fun d => d.relink port x) s

/-- LINK_TRAINED (R384, R14): a link that retrained runs on the lanes that trained, the others being retired, or is retired whole; what it sent without
acknowledgement is sent again. An endpoint of which no other port runs rejoins the domain and advances its generation (R385). -/
def execLinkTrained (port lanes : Nat) (s : State) : Host.Outcome State Fault Refusal :=
  event (fun m =>
    if 30 ≤ port || !(nth m.dev.ports port).retrain then m
    else m.modD fun d =>
      let alone := port < 24 && (List.range 6).all fun k => port = port / 6 * 6 + k || !d.running.contains (port / 6 * 6 + k)
      let d := d.trainPort port lanes
      let x := nth d.ports port
      if x.lanes = 0 then d
      else
        let d := (if alone then d.advanceGen (portDie port) else d).replay port x.unack
        d.flush d.waitOut) s

/-! ### The checkpoint (R388) -/

/-- The engines have nothing on its way: what is left waits for its threads. -/
def Dev.drained (d : Dev) : Bool :=
  d.cmds.all fun c => match c.kind with | .wind _ => true | .coll _ _ _ _ _ _ _ => true | _ => false
/-- Placements stop on some dies, and the threads of the core are asked for their saves when it is among them. -/
def Mach.quiesceDies (m : Mach) (dies : BitVec 4) : Mach :=
  let m := m.modD fun d => { d with qstop := d.qstop ||| dies }
  if bit dies m.core.die then m.askAll else m

/-- Second-tier memory begins here. -/
def tier2 : Nat := 0x200000000000
/-- The image on the safe tier that an incremental one may name: none before the first, or after a change of safe tier. -/
def Dev.lastSafe (d : Dev) : Option Image := if d.ckNew then none else d.ckSafe
/-- The image of a checkpoint (R388): HBM alone; or, for the safe tier, all memory, of whose second-tier pages those that have not been written since are
those of the previous image; the first one after reset or after a change of safe tier is full. -/
def Dev.image (d : Dev) (safe : Bool) : Image :=
  let low : Image := ⟨d.mem.filter fun (c : Nat × Byte) => c.1 < tier2, d.poison.filter fun u => 64 * u < tier2⟩
  if !safe then low
  else match d.lastSafe with
    | none => ⟨d.mem, d.poison⟩
    | some old =>
      let kept := fun (a : Nat) => decide (tier2 ≤ a) && !d.written.contains (a / 0x10000)
      ⟨(old.mem.filter fun (c : Nat × Byte) => kept c.1).foldl (fun m c => Mem.write m c.1 c.2) (d.mem.filter fun (c : Nat × Byte) => !kept c.1),
       (old.poison.filter fun u => kept (64 * u)).foldl (fun l u => insertNat u l) (d.poison.filter fun u => !kept (64 * u))⟩
/-- A checkpoint reads an address of memory. -/
def Dev.copies (d : Dev) (safe : Bool) (a : Nat) : Bool :=
  (d.inHbm a || d.inTier2 a) && (a < tier2 || (safe && (d.lastSafe.isNone || d.written.contains (a / 0x10000))))
/-- What else the reads of a checkpoint do: they fire an injection that waits for a byte of it (R383). -/
def Mach.probeImage (m : Mach) (safe : Bool) : Mach :=
  match m.core.armed with
  | some (_, _, a) => if m.dev.copies safe a then m.probeHome a 1 else m
  | none => m
/-- CHECKPOINT (R388): with every thread saved and the engines drained the image is taken; one to the safe tier clears the written bits of what it copies;
until then the threads are being saved. -/
def execCheckpoint (safe : Bool) (s : State) : Host.Outcome State Fault Refusal :=
  event (fun m =>
    if !m.coreFree || !m.dev.drained then m.quiesceDies 0xF
    else (m.probeImage safe).modD fun d =>
      if safe then { d with ckSafe := some (d.image true), ckHbm := none, ckNew := false, written := [], qstop := 0 }
      else { d with ckHbm := some (d.image false), qstop := 0 }) s

/-! ### The die drop (R387) -/

/-- The 64 KiB pages of a list of poisoned units that are homed on a die. -/
def Dev.badPages (d : Dev) (die : Nat) : List Nat :=
  ((d.poison.filter fun u => d.homeDie (64 * u) = die).map fun u => u / 1024).foldl (fun l p => insertNat p l) []
/-- The last checkpoint that holds a 64 KiB page (R388). -/
def Dev.lastImage (d : Dev) (p : Nat) : Option Image :=
  if 0x10000 * p < tier2 then (match d.ckHbm with | some i => some i | none => d.ckSafe) else d.ckSafe
/-- A page that does not read correctly comes back from the last checkpoint, or is lost. -/
def Dev.recoverPage (d : Dev) (p : Nat) : Dev :=
  let lo := p * 0x10000
  match d.lastImage p with
  | some img =>
    if img.poison.any fun u => u / 1024 = p then { d with lost := insertNat p d.lost }
    else
      let old := img.mem.filter fun (c : Nat × Byte) => lo ≤ c.1 && c.1 < lo + 0x10000
      Dev.wrote { d with
        mem := d.mem.splice lo 0x10000 old
        poison := d.poison.filter fun u => u / 1024 ≠ p } lo 0x10000
  | none => { d with lost := insertNat p d.lost }

/-- The entries of a page table that are not 0. -/
def Dev.entriesIn (d : Dev) (t n : Nat) : List Nat := ((d.mem.window t n).map fun (c : Nat × Byte) => t + c.1 / 8 * 8).eraseDups
/-- Every leaf entry of an address space that its tables lead to: where it stands, and its page size in bits (R149). -/
def Dev.leavesOf (d : Dev) (asid : Nat) : List (Nat × Nat) :=
  let ast := d.num (d.astbase.toNat + 16 * asid) 8
  let kind := fun (p : Nat) => bitsOf (d.num p 8) 4 3
  let next := fun (p : Nat) => bitsOf (d.num p 8) 47 8 * 256
  if ast % 2 = 0 then []
  else (d.entriesIn (bitsOf ast 47 21 * 2 ^ 21) (2 ^ 21)).flatMap fun p1 =>
    if kind p1 = 2 then [(p1, 30)]
    else if kind p1 ≠ 1 then []
    else (d.entriesIn (next p1) 4096).flatMap fun p2 =>
      if kind p2 = 2 then [(p2, 21)]
      else if kind p2 ≠ 1 then []
      else ((d.entriesIn (next p2) 256).filter fun p3 => kind p3 = 2).map fun p3 => (p3, 16)
/-- Leaves whose page is lost, or has no place in what is left of memory, become TYPE 0 (R387, R360). -/
def Dev.dropLeaves (d : Dev) (inPlace : Nat → Bool) : Dev :=
  ((List.range d.astlen.toNat).flatMap d.leavesOf).foldl (fun (d : Dev) l =>
    let e := BitVec.ofNat 64 (d.num l.1 8)
    let a := fld e 47 8 * 256
    let gone := !inPlace a || !inPlace (a + 2 ^ l.2 - 1) || d.lost.any fun p => a ≤ 0x10000 * p && 0x10000 * p < a + 2 ^ l.2
    if bit e 0 && !inMgmt a && gone then d.pokeNum l.1 8 (e.toNat - fld e 4 3 * 8) else d) d
/-- What names no memory any more is gone: bytes, poison, cached lines and objects. -/
def Dev.trim (d : Dev) : Dev :=
  let ok := fun (a : Nat) => d.inHbm a || d.inTier2 a
  { d with
    mem := d.mem.filter fun (c : Nat × Byte) => ok c.1
    poison := d.poison.filter fun u => ok (64 * u)
    repl := d.repl.filter fun r => ok (128 * r.line)
    bmc := d.bmc.filter fun e => ok e.pa
    written := d.written.filter fun u => ok (65536 * u)
    skeins := d.skeins.filter fun k => ok k.pa
    heaps := d.heaps.filter fun k => ok k.pa
    miles := d.miles.filter fun k => ok k.pa
    binds := d.binds.filter fun k => ok k.pa
    mons := d.mons.filter fun k => ok k.pa }
/-- The second tier's pages over some ports: each expander contributes the size of the smallest (R144). -/
def Dev.tier2Pages (d : Dev) (cxl : BitVec 8) : Nat :=
  let s := ((List.range 8).filter fun i => bit cxl i).map fun i => nth d.cxlSize i
  match s with | [] => 0 | x :: xs => s.length * xs.foldl min x
/-- The device over the dies of a mask: their stacks, CXL ports, Twine ports and links. -/
def Dev.over (d : Dev) (dies : BitVec 4) : Dev :=
  let cxl := bitsBy 8 fun i => bit d.cxl i && bit dies (i / 2)
  let gone := fun (p : Nat) => if p < 24 then !bit dies (p / 6) else !(bit dies (linkDies p).1 && bit dies (linkDies p).2)
  { d with
    dies := dies
    diep := d.diep &&& dies
    cxl := cxl
    cxlPages := d.tier2Pages cxl
    ports := Vector.ofFn fun i => if gone i.val then { d.ports[i] with lanes := 0, retrain := false, badOnce := false } else d.ports[i]
    repl := d.repl.filter fun r => bit dies r.die }
/-- One page that firmware moves off the die, to an address that stays (R387 step 2). -/
def Mach.evacuate (m : Mach) (inPlace : Nat → Bool) (asid : BitVec 16) (va pa : Word) : Mach :=
  match m.dev.leafAt asid va with
  | none => m
  | some (at_, bits) =>
    let e := BitVec.ofNat 64 (m.dev.num at_ 8)
    let old := fld e 47 8 * 256
    let n := 2 ^ bits
    if !bit e 0 || pa.toNat % n ≠ 0 || old = pa.toNat || !inPlace pa.toNat || !inPlace (pa.toNat + n - 1) || inMgmt old ||
        (old ≤ at_ && at_ < old + n) || (pa.toNat ≤ at_ && at_ < pa.toNat + n) then m
    else (m.probeHome old n).modD fun d => { (d.movePage old pa.toNat n).pokeNum at_ 8 (pteAt e pa.toNat) with
      lost := (d.lost.filter fun p => !(pa.toNat ≤ 0x10000 * p && 0x10000 * p < pa.toNat + n)).map fun p =>
        if old ≤ 0x10000 * p && 0x10000 * p < old + n then p - old / 0x10000 + pa.toNat / 0x10000 else p }
/-- A pool's GMASK without the channel groups of a die (R299, R387). -/
def Dev.maskPool (d : Dev) (die pa : Nat) : Dev := d.poke (pa + 16 + 4 * die) (List.replicate 4 0)

/-- DIE_DROP (R387): one die of a whole device is dropped. Its threads are saved first. Then its unreadable pages come back from the last checkpoint,
firmware moves pages (`moves`: space, address, new place), what has no place left gets TYPE 0 leaves, the interleaves are rebuilt, and firmware clears
the die's groups from the GMASK of every pool (`pools`). -/
def execDieDrop (x : Drop) (s : State) : Host.Outcome State Fault Refusal :=
  event (fun m =>
    let die := x.die
    if 4 ≤ die || m.dev.dies ≠ 0xF then m
    else
      let ours := decide (m.core.die = die)
      let left : BitVec 4 := 0xF &&& ~~~(BitVec.ofNat 4 (2 ^ die))
      if ours && !m.coreFree then m.quiesceDies (BitVec.ofNat 4 (2 ^ die))
      else if m.writesOut then m
      else
        let after := m.dev.over left
        let inPlace := fun (a : Nat) => after.inHbm a || after.inTier2 a
        let m := m.flushLines m.core.l1
        let m := m.modD fun d => (d.badPages die).foldl Dev.recoverPage d
        let m := x.moves.foldl (fun (m : Mach) e => m.evacuate inPlace e.1 e.2.1 e.2.2) m
        let m := m.modD fun d =>
          let d := (((d.dropLeaves inPlace).over left).trim).advanceGen die
          { x.pools.foldl (fun d p => d.maskPool die p) d with tlb := [], qstop := d.qstop ||| BitVec.ofNat 4 (2 ^ die) }
        m.modC fun c => { c with retired := c.retired || ours, tlb := [], l1 := [] }) s

end Sys2Proof.Machine
end

