-- ==== Sys2Proof/Machine/Firm.lean ====
section
/-! DEFINITION. Power, clocks, firmware and bring-up (R17, R19, R21, R22, R390–R402): reset, boot, the clocks of a die, updates, attestation, and
writes of the management registers. -/

namespace Sys2Proof.Machine

/-! ### Clocks and power (R19, R21, R391) -/

/-- Change the power block of a die, and its clock with it. -/
def Dev.modPwr (d : Dev) (die : Nat) (f : Pwr → Pwr) : Dev := { d with pwr := setNth d.pwr die (f (nth d.pwr die)).reclock }
/-- A clock below the present one, which the spec leaves to the device: a free value. -/
def Dev.lower (d : Dev) (die : Nat) : Nat := 1 + Config.slowClock d.free % max ((nth d.pwr die).aclk.toNat - 1) 1

/-- POWER_CAP_THROTTLE (R21): the die's clocks go down to keep its cap. -/
def execPowerCapThrottle (die : Nat) (s : State) : Host.Outcome State Fault Refusal :=
  event (fun m => if 4 ≤ die || (nth m.dev.pwr die).tripped.isSome then m
    else m.modD fun d => { d with free := d.free + 1 }.modPwr die fun p => { p with capped := some (d.lower die) }) s
/-- CURRENT_LIMIT (R391): above its fused current limit the die's clocks go down. -/
def execCurrentLimit (die : Nat) (s : State) : Host.Outcome State Fault Refusal :=
  event (fun m => if 4 ≤ die || (nth m.dev.pwr die).tripped.isSome then m
    else m.modD fun d => { d with free := d.free + 1 }.modPwr die fun p => { p with overCur := some (d.lower die) }) s
/-- THERMAL_TRIP (R391): the die's clocks stop. -/
def execThermalTrip (die : Nat) (s : State) : Host.Outcome State Fault Refusal :=
  event (fun m => if 4 ≤ die || (nth m.dev.pwr die).tripped.isSome then m
    else m.modD fun d => d.modPwr die fun p => { p with tripped := some d.milepost }) s
/-- THERMAL_RELEASE (R391, R402): the clocks restart, and a cap written meanwhile takes effect. -/
def execThermalRelease (die : Nat) (s : State) : Host.Outcome State Fault Refusal :=
  event (fun m => if 4 ≤ die || (nth m.dev.pwr die).tripped.isNone then m
    else m.modD fun d => d.modPwr die fun p =>
      let q := { p with tripped := none, pcapNext := none }
      match p.pcapNext with | some v => q.cap v | none => q) s

/-- The state that outlives the supply: fuses and flash (R396–R399), and what stands outside the package. -/
def Boot.cold (b : Boot) : Boot := { b with udsLocked := false, idPub := 0, aliasSeed := 0, aliasPub := 0, idSig := [] }
/-- Everything is lost but fuses and flash (R22); no free value is taken twice. -/
def Mach.unpowered (m : Mach) : Mach :=
  { core := { Core.zero with num := m.core.num }
    thr0 := Thr.zero
    thr1 := Thr.zero
    cur := .p0
    dev := { Dev.zero with powered := false, devid := m.dev.devid, boot := m.dev.boot.cold, free := m.dev.free } }
/-- SUPPLY_LOSS (R22): the main supply is off. -/
def execSupplyLoss (s : State) : Host.Outcome State Fault Refusal := event (fun m => m.unpowered) s
/-- THERMAL_SHUTDOWN (R391): a die above its trip for 100 ms loses the supply. -/
def execThermalShutdown (die : Nat) (s : State) : Host.Outcome State Fault Refusal :=
  event (fun m => if 4 ≤ die then m else match (nth m.dev.pwr die).tripped with
    | some t => if t + 400000000 ≤ m.dev.milepost then m.unpowered else m
    | none => m) s

/-- TIME_SERVICE_ADJUST (R19): in the next A-cycle a device that is ahead holds its counter, and one that is behind counts one more; not more often than
once in 4,096 A-cycles. -/
def execTimeServiceAdjust (ahead : Bool) (s : State) : Host.Outcome State Fault Refusal :=
  event (fun m => if m.dev.acyc < m.dev.mpNext then m
    else m.modD fun d => { d with mpNext := d.acyc + 4096, mpHold := ahead, mpMore := !ahead }) s

/-! ### Boot (R396–R401) -/

/-- The 32 bytes of a digest or key. -/
def bytes32 (x : BitVec 256) : List Byte := leBytes 32 x.toNat
/-- The payload of an image: FLEN bytes. -/
def fwBody (i : FwImage) : List Byte :=
  let n := i.len.toNat
  i.payload.take n ++ List.replicate (n - i.payload.length) 0
/-- The bytes 0x0000 to 0x004F of an image, which its signature covers. -/
def fwHead (i : FwImage) : List Byte :=
  leBytes 4 i.magic.toNat ++ leBytes 4 i.svn.toNat ++ leBytes 8 i.len.toNat ++ bytes32 i.dig ++ bytes32 i.pk
/-- The first boot check that an image fails, or 0 (Table 22-6). -/
def Boot.check (b : Boot) (i : FwImage) : BitVec 8 :=
  if i.magic ≠ 0x454E5601 || i.len.toNat = 0 || 2 ^ 24 < i.len.toNat then 1
  else if Config.sha256 (bytes32 i.pk) ≠ b.rootHash then 2
  else if !Config.slhVerify i.pk (fwHead i) i.sig then 3
  else if i.svn.toNat < b.fusedSvn then 4
  else if Config.sha256 (fwBody i) ≠ i.dig then 5
  else 0

/-- "GX960 ID". -/
def infoId : List Byte := [0x47, 0x58, 0x39, 0x36, 0x30, 0x20, 0x49, 0x44]
/-- "GX960 AL". -/
def infoAl : List Byte := [0x47, 0x58, 0x39, 0x36, 0x30, 0x20, 0x41, 0x4C]
/-- The keys of a boot (R399): the identity private key is erased, the secret locked. -/
def Boot.derive (b : Boot) (meas0 : BitVec 256) : Boot :=
  let idKey := Config.hkdf48 b.uds infoId
  let al := Config.hkdf48 b.uds (infoAl ++ bytes32 meas0)
  let pub := Config.slhPublic al
  { b with udsLocked := true, idPub := Config.slhPublic idKey, aliasSeed := al, aliasPub := pub, idSig := Config.slhSign idKey (bytes32 pub) }

/-- The machine as package reset finds it: memories cleared, no thread, and what a reset does not touch: fuses, flash, retired parts, the generations
of endpoints and sources (R381, R385), whose quarantines count from the reset. A raise of the security version takes effect (R398). -/
def Mach.fresh (m : Mach) : Mach :=
  let b := m.dev.boot.cold
  let out := m.dev.retired.any fun e => (e.1 = 0 || e.1 = 5) && !bit e.2.2 63 && e.2.2.toNat = m.core.num
  let d := { m.unpowered.dev with
    powered := true
    boot := { b with fusedSvn := max b.fusedSvn b.nextSvn, nextSvn := max b.fusedSvn b.nextSvn }
    retired := m.dev.retired
    egen := m.dev.egen
    gens := m.dev.gens
    genOld := m.dev.genOld.map fun e => (e.1, e.2.1, 0) }
  { m.unpowered with
    core := { Core.zero with num := m.core.num, failing := m.core.failing, retired := out }
    dev := { (List.range 4).foldl Dev.advanceGen d with ports := Vector.ofFn fun i => { Port.up with lanes := runLanes (d.lanesLeft i.val) } } }
/-- The ROM's stage with the slot that passed (R397, R399). -/
def Mach.bootFrom (m : Mach) (i : FwImage) (b : Bool) : Mach :=
  let meas0 := Config.sha256 (fwBody i)
  m.modD fun d => { d with slotB := b, boot := d.boot.derive meas0, meas := setNth d.meas 0 meas0 }
/-- Stage 1 (R397): slot A is checked, then slot B; the first that passes runs; when both fail the device starts nothing. -/
def Mach.rom (m : Mach) : Mach :=
  let m := m.fresh.modD fun d => { d with stageNo := 1 }
  let b := m.dev.boot
  let ea := b.check b.slotA
  if ea = 0 then m.bootFrom b.slotA false
  else
    let eb := b.check b.slotB
    let m := m.modD fun d => { d with berra := ea.setWidth 4, berr := eb }
    if eb = 0 then m.bootFrom b.slotB true else m

/-- The device goes on with the dies of a mask; a core on another die takes no thread. -/
def Mach.onDies (m : Mach) (dies : BitVec 4) : Mach :=
  (m.modD fun d => d.over dies).modC fun c => { c with retired := c.retired || !bit dies c.die }
/-- The largest expander, in pages of 64 KiB (R13). -/
def maxExpander : Nat := 67108864
/-- Links, Twine ports and CXL ports train (R13, R14, R144): a port whose expander is absent or fails is empty. -/
def Dev.train (d : Dev) (lanes : List (Nat × Nat)) (cxl : BitVec 8) (sizes : List Nat) : Dev :=
  let d := lanes.foldl (fun d e => if e.1 < 30 then d.trainPort e.1 e.2 else d) d
  let d := { d with cxlSize := Vector.ofFn fun i => min (sizes.getD i.val 0) maxExpander }
  ({ d with cxl := bitsBy 8 fun i => bit cxl i && nth d.cxlSize i ≠ 0 } : Dev).over d.dies
/-- What firmware configures before LNRDY: the address-space table and lane blocks. -/
def Dev.configure (d : Dev) (astbase astlen : Word) (lanes : List (Nat × Word × Word)) : Dev :=
  { lanes.foldl (fun d e => if e.1 < laneCount then
      d.setLane e.1 { d.lane e.1 with lbase := e.2.1 &&& 0xFFFFFFFFFFFFFF80, lcfg := e.2.2 &&& lcfgMask } else d) d with
    astbase := astbase &&& 0x0000FFFFFFFFF000, astlen := BitVec.ofNat 64 (clampTo 1 65536 astlen.toNat), lnrdy := true }

/-- A stage of bring-up after the ROM's (R401, Table 22-8), in order: out of order it does nothing. A die whose controller does not start, or whose
stacks do not train, is not brought up; die 0 must start. DIEP shows the dies once their memory is trained (DEDUCED: a die is in service then). -/
def Mach.stage (m : Mach) (b : BootStep) : Mach :=
  match b with
  | .firmware dies =>
    if m.dev.stageNo ≠ 1 || !m.dev.boot.udsLocked || !bit dies 0 then m
    else (m.onDies dies).modD fun d => { d with stageNo := 2 }
  | .memory dies =>
    if m.dev.stageNo ≠ 2 || m.dev.dies &&& dies = 0 then m
    else (m.onDies (m.dev.dies &&& dies)).modD fun d => { d with stageNo := 3, diep := d.dies }
  | .links lanes cxl sizes => if m.dev.stageNo ≠ 3 then m else m.modD fun d => { d.train lanes cxl sizes with stageNo := 4 }
  | .configure astbase astlen lanes => if m.dev.stageNo ≠ 4 then m else m.modD fun d => { d.configure astbase astlen lanes with stageNo := 5 }

/-- PACKAGE_RESET (R401): the board controller releases package reset, and stage 1 runs. The later stages, which firmware takes (`Mach.stage`), come
with MGMT_REGISTER_WRITE, the row of firmware's acts on the controllers. -/
def execPackageReset (s : State) : Host.Outcome State Fault Refusal := event Mach.rom s

/-- FIRMWARE_UPDATE (R398): the slot that did not boot takes an image, for the next reset. -/
def execFirmwareUpdate (img : FwImage) (s : State) : Host.Outcome State Fault Refusal :=
  event (fun m => if m.dev.stageNo < 2 then m
    else m.modD fun d => { d with boot := if d.slotB then { d.boot with slotA := img } else { d.boot with slotB := img } }) s
/-- SVN_RAISE (R398): the security version goes up at the next reset, never down. -/
def execSvnRaise (v : Nat) (s : State) : Host.Outcome State Fault Refusal :=
  event (fun m => m.modD fun d => { d with boot := { d.boot with nextSvn := max d.boot.nextSvn (min v 63) } }) s

/-! ### Attestation (R400) -/

/-- Write bytes of the mailbox. -/
def Dev.putAttmb (d : Dev) (o : Nat) (bs : List Byte) : Dev :=
  { d with attmb := bs.zipIdx.foldl (fun a e => setNth a (o + e.2) e.1) d.attmb }
/-- ATTESTATION_REQUEST (R400): a nonce, the address of the report, then 1 to byte 32. -/
def execAttestationRequest (nonce : BitVec 256) (pa : Word) (s : State) : Host.Outcome State Fault Refusal :=
  event (fun m => m.modD fun d => ((d.putAttmb 0 (bytes32 nonce)).putAttmb 40 (leBytes 8 pa.toNat)).putAttmb 32 [1]) s
/-- The report (Table 22-7). -/
def Dev.report (d : Dev) : List Byte :=
  let sized := fun (bs : List Byte) => bs.take 7856 ++ List.replicate (7856 - bs.length) 0
  let body := leBytes 8 d.devid.toNat ++ leBytes 8 (2 ^ d.boot.fusedSvn - 1) ++ d.meas.toList.flatMap bytes32 ++ d.attmb.toList.take 32 ++
    leBytes 8 d.milepost ++ bytes32 d.boot.aliasPub ++ sized d.boot.idSig
  body ++ sized (Config.slhSign d.boot.aliasSeed body)
/-- ATTESTATION_REPORT (R400, R402): from stage 5 on firmware answers a request: the report at its address, then 2 to byte 32. -/
def execAttestationReport (s : State) : Host.Outcome State Fault Refusal :=
  event (fun m =>
    if nth m.dev.attmb 32 ≠ 1 || m.dev.stageNo ≠ 5 then m
    else m.modD fun d =>
      let pa := leNat ((d.attmb.toList.drop 40).take 8)
      let r := d.report
      let d := if (unitsOf pa r.length 0x1000).all fun u => d.paOk (max pa (0x1000 * u)) && !inMgmt (0x1000 * u) then d.write pa r false else d
      d.putAttmb 32 [2]) s

/-! ### Management registers (R390, R392, R394, R402) -/

/-- COUNTER_CLEAR (R394). -/
def execCounterClear (die k : Nat) (s : State) : Host.Outcome State Fault Refusal :=
  event (fun m => if die < 4 && k < 13 then m.modD fun d => d.clearCount die k else m) s
/-- PCAP_WRITE (R390, R402). -/
def execPcapWrite (die : Nat) (v : BitVec 32) (s : State) : Host.Outcome State Fault Refusal :=
  event (fun m => if die < 4 then m.modD fun d => d.writePcap die v else m) s
/-- What reaches the management range over Twine, and what firmware does on the controllers. -/
def Mach.mgmtAct (m : Mach) (off : BitVec 32) (size : Nat) (a : MgmtAct) (auth : Bool) : Mach :=
  match a with
  | .write v => m.modD fun d => d.mgmtWrite off.toNat size v auth true
  | .read dev => m.modD fun d =>
    { d with free := d.free + size }.post 0 (dev % 4096) (.reply (d.twineRead off.toNat size auth) false)
  | .slice n => m.modD fun d => d.setSlice n
  | .share ctx w => m.modD fun d => d.setShare ctx w
  | .overflow die n => m.modD fun d => d.setOverflow die n
  | .policy block => m.modD fun d =>
    { d with meas := setNth d.meas 1 (Config.sha256 (bytes32 (nth d.meas 1) ++ bytes32 (Config.sha256 block))) }
  | .measure ctx on => m.modD fun d => { d with measured := toggle ctx on d.measured }
  | .takeRecord die => m.modD fun d =>
    if die < 4 then { d with errs := setNth d.errs die { nth d.errs die with recs := (nth d.errs die).recs.tail } } else d
  | .safeTier => m.modD fun d => { d with ckNew := true }
  | .bringUp b => m.stage b
/-- MGMT_REGISTER_WRITE (R374, R390, R392, R399, R401): a write or a read over Twine, of an agent with authority or without; a policy value of Table
13-7; a change of policy, which extends MEAS1; a context marked measured; the oldest record of a die removed; another safe tier (R388); a stage of bring-up. -/
def execMgmtRegisterWrite (off : BitVec 32) (size : Nat) (act : MgmtAct) (auth : Bool) (s : State) : Host.Outcome State Fault Refusal :=
  event (fun m => m.mgmtAct off size act auth) s

end Sys2Proof.Machine
end

