-- ==== Sys2Proof/Machine/Agents.lean ====
section
/-! DEFINITION. Which of the device's own steps comes next when nothing from outside does: those that a bundle boundary calls for at once, and in turn
those of the other agents (the order is the model's; `State.inputs` gives any other). Also: how an instruction is placed to be the next one. -/

namespace Sys2Proof.Machine

/-! ### What a boundary calls for -/

/-- The step that the acting place's thread needs before its next bundle. -/
def Mach.urgentOn (m : Mach) : Option Instr :=
  let t := m.t
  if m.cur = .p1 && t.paired then (if m.atBreak then some (.breakpointHalt .p1) else none)
  else if t.overdue then some (.nowaypoint m.cur)
  else if m.atBreak then some (.breakpointHalt m.cur)
  else if t.halted ≠ none then none
  else if t.status ≠ .empty && t.xready.isSome then some (.xlatec m.cur)
  else if (t.status = .running || t.status = .saving) && t.unw.any fun u => u.due ≤ t.time then some (.unwind m.cur)
  else none
/-- The step that comes before the next A-cycle. -/
def Mach.urgent (m : Mach) : Option Instr :=
  if (nth m.dev.pwr m.core.die).tripped.isSome then none
  else match (m.at_ .p0).urgentOn with
    | some i => some i
    | none => (m.at_ .p1).urgentOn

/-! ### The other agents -/

/-- No bundle can issue until another agent acts. -/
def Mach.blocked (m : Mach) : Bool :=
  let idle := fun (pl : Place) => let a := m.at_ pl; !a.reaches || a.st.hold ≠ .none
  m.core.frozen || m.late || (idle .p0 && idle .p1)

/-- The steps of threads that the core and the home slices make. -/
def Mach.threadSteps (m : Mach) (pl : Place) : List Instr :=
  let t := (m.at_ pl).t
  if !t.live || (pl = .p1 && t.paired) then []
  else
    ((List.range t.land.length).filter fun k => (t.land[k]?.map fun l => l.data.isNone).getD false).map (Instr.landingDataArrival pl) ++
    (if t.hops.isEmpty then [] else [Instr.homeOperationPerform pl]) ++
    (if t.status = .saving then [Instr.contextSave pl, Instr.savefail ⟨pl, false⟩] else []) ++
    (match t.status with | .ending _ _ => [Instr.threadEnd pl] | _ => []) ++
    (if t.halted ≠ none && (!m.dev.dbg.tileWrites.isEmpty || !t.tops.isEmpty || !t.busy.isEmpty) then [Instr.tileOperationComplete pl] else []) ++
    ((List.range 16).filter fun i => (nth t.spools i).bound && !(nth t.spools i).handle).map fun i =>
      if (nth t.spools i).dir then Instr.winderDrain pl (Fin.ofNat 16 i) else Instr.winderFill pl (Fin.ofNat 16 i)
/-- The steps of one engine command. -/
def Mach.cmdSteps (m : Mach) (c : Cmd) : List Instr :=
  if !c.started then [.engineCommandStart c.pl]
  else
    let retry := (m.dev.retryAt.filter fun e => e.1 = c.id).map fun e => Instr.engineRetry c.id e.2.1
    match c.kind with
    | .unwindSp sp _ => .winderDrain c.pl sp :: retry
    | .coll _ _ _ _ _ _ _ => [.collInstanceArm c.id, .engineSegmentComplete c.id 0 (.whole true)] ++ retry
    | .xchg _ _ _ _ _ _ _ _ =>
      (match (List.range c.kind.segs).find? fun k => m.maySend c k with
        | some k => [if c.kind.abroad then Instr.engineSegmentComplete c.id k (.whole true) else Instr.xchgRowArrival c.id k true]
        | none => []) ++
      c.ans.map (fun e => Instr.xchgAcknowledgement c.id e.1 e.2) ++ (c.sends.map fun e => Instr.requestTimeout (.cmd c.id e.1)) ++ retry
    | _ =>
      (match (List.range c.kind.segs).find? fun k => !c.done.contains k && !c.failed.contains k && !m.dev.retryAt.any fun e => e.1 = c.id && e.2.1 = k with
        | some k => [Instr.engineSegmentComplete c.id k (.whole true)]
        | none => []) ++
      ((c.failed.filter fun k => !c.done.contains k).map fun k => Instr.segmentResend c.id k true) ++ retry
/-- The steps of lanes, queues and the schedulers. -/
def Mach.schedSteps (m : Mach) : List Instr :=
  let d := m.dev
  d.lanes.flatMap (fun l => [Instr.laneEntryRead l.1, Instr.dependencePoll l.1, Instr.laneEntryStart l.1]) ++
  (List.range 4).flatMap (fun k => (if (nth d.lqueue k).isEmpty then [] else [Instr.launchQueueDeparture k]) ++
    (if (nth d.lover k).isEmpty then [] else [Instr.launchQueueAdmit k]) ++ (if (nth d.ivq k).isEmpty then [] else [Instr.ivqCommandExecute k]) ++
    (if (nth d.pwr k).tripped.isSome then [Instr.thermalShutdown k] else [])) ++
  (if d.launches.any Launch.waits then [Instr.threadPlacement] else []) ++
  (d.launches.filter fun l => l.nthr ≤ l.ended).map (fun l => Instr.launchCompletion l.id) ++
  ((List.range d.saved.length).filter fun k => (d.saved[k]?.map Saved.waits).getD false).map Instr.contextRestore ++
  (if m.core.reconf.isSome then [Instr.poolReconfigureDone] else []) ++
  (if d.quantum < d.acyc / quantumLen && !(d.launches.isEmpty && d.saved.isEmpty) then [Instr.quantumBoundary] else []) ++
  ((List.range d.saved.length).filter fun k => (d.saved[k]?.map fun s => s.waits && d.aged s.since s.boost s.level).getD false).map
    Instr.ageingPromotion ++
  ((List.range d.launches.length).filter fun k => (d.launches[k]?.map fun l => l.waits && d.aged l.since l.boost l.prio).getD false).map
    fun k => Instr.ageingPromotion (d.saved.length + k)
/-- The steps of the home slices and of the rest of the device. -/
def Mach.homeSteps (m : Mach) : List Instr :=
  let d := m.dev
  ((List.range d.mons.length).map fun k => if (d.mons[k]?.map Mon.polled).getD false then Instr.monitorPoll k else Instr.monitorFire k) ++
  ((List.range d.binds.length).filter fun k => (d.binds[k]?.map Bind.polled).getD false).map Instr.bindPoll ++
  (List.range d.insts.length).map Instr.collComplete ++
  (if d.repl.any (fun r => r.c.staleAt.isSome) || d.bmc.any (fun e => e.c.staleAt.isSome) then
    (List.range (d.repl.length + d.bmc.length)).map Instr.replicaInvalidate else []) ++
  (m.core.l1.filter L1Line.filling).map (fun l => Instr.lineFillComplete l.line) ++
  (if m.core.layby.isEmpty then [] else [Instr.xchgLaybyReplay]) ++
  (d.pageWaits.filter fun w => !w.failed && w.since + 2 ^ 28 ≤ d.milepost).map (fun w => Instr.pageWaitTimeout w.asid w.va) ++
  (if d.later.isEmpty then [] else [Instr.engineRetry 0 0]) ++
  (if nth d.attmb 32 = 1 && d.stageNo = 5 then [Instr.attestationReport] else [])
/-- The steps that other agents might make. -/
def Mach.agents (m : Mach) : List Instr :=
  m.threadSteps .p0 ++ m.threadSteps .p1 ++ m.dev.cmds.flatMap m.cmdSteps ++ m.schedSteps ++ m.homeSteps
/-- The step of another agent that comes with the next A-cycle: one, in turn, when no bundle can issue and every 64 mileposts. -/
def Mach.agentNow (m : Mach) : Option Instr :=
  if m.blocked then (let l := m.agents; l[m.dev.milepost % max l.length 1]?)
  else if m.dev.milepost % 64 = 63 then (let l := m.agents; l[m.dev.milepost / 64 % max l.length 1]?)
  else none

/-- The step is the release of package reset. -/
def isReset : Instr → Bool
  | .packageReset => true
  | _ => false

/-! ### Placing an instruction -/

/-- A machine whose primary place runs, as its next bundle, one slot word in the lowest slot that admits it: a thread on the place, in a space whose
first gibibyte is mapped onto itself, its kernel image of one bundle in memory. -/
def Mach.withWord (m : Mach) (x : BitVec 24) : Mach :=
  let mem := Mem.writeN m.dev.mem 0x1000 (leBytes 8 0x200001)
  let mem := Mem.writeN mem 0x200000 (leBytes 8 0x17)
  let mem := Mem.writeN mem 0x400080 (leBytes 24 (wordBundle x).toNat)
  { m with
    cur := .p0
    core := { m.core with frozen := false, tlb := [] }
    thr0 := { m.thr0 with
      status := .running, halted := none, paired := false, haltReq := false, settle := false, unw := [], xfaults := [], asid := 0
      kern := { m.thr0.kern with img := 0x400000, nprim := 1, nsec := 0, boff := 0x80 }
      prim := { m.thr0.prim with pc := 0, gap := 0, hold := .none, tau := none } }
    dev := { m.dev with
      powered := true, mem := mem, astbase := 0x1000, astlen := if m.dev.astlen = 0 then 1 else m.dev.astlen, tlb := [], lost := []
      dies := if m.dev.dies = 0 then 0xF else m.dev.dies, pwr := m.dev.pwr.map fun p => { p with tripped := none }
      pageWaits := [], heaps := [], dbg := { m.dev.dbg with attached := [] } } }

end Sys2Proof.Machine
end

