-- ==== Sys2Proof/Machine/Dispatch.lean ====
section
/-! DEFINITION. One arm per instruction: the meaning it calls. -/

namespace Sys2Proof.Machine

def exec (i : Instr) (s : State) : Host.Outcome State Fault Refusal :=
  match i with
  | .packageReset => Sys2Proof.Machine.execPackageReset s
  | .supplyLoss => Sys2Proof.Machine.execSupplyLoss s
  | .powerCapThrottle die => Sys2Proof.Machine.execPowerCapThrottle die s
  | .currentLimit die => Sys2Proof.Machine.execCurrentLimit die s
  | .thermalTrip die => Sys2Proof.Machine.execThermalTrip die s
  | .thermalRelease die => Sys2Proof.Machine.execThermalRelease die s
  | .thermalShutdown die => Sys2Proof.Machine.execThermalShutdown die s
  | .timeServiceAdjust ahead => Sys2Proof.Machine.execTimeServiceAdjust ahead s
  | .widxWrite lane v => Sys2Proof.Machine.execWidxWrite lane v s
  | .laneReset lane => Sys2Proof.Machine.execLaneReset lane s
  | .laneEntryRead lane => Sys2Proof.Machine.execLaneEntryRead lane s
  | .laneEntryStart lane => Sys2Proof.Machine.execLaneEntryStart lane s
  | .dependencePoll lane => Sys2Proof.Machine.execDependencePoll lane s
  | .launchQueueAdmit die => Sys2Proof.Machine.execLaunchQueueAdmit die s
  | .threadPlacement => Sys2Proof.Machine.execThreadPlacement s
  | .poolReconfigureDone => Sys2Proof.Machine.execPoolReconfigureDone s
  | .quantumBoundary => Sys2Proof.Machine.execQuantumBoundary s
  | .ageingPromotion k => Sys2Proof.Machine.execAgeingPromotion k s
  | .contextSave pl => Sys2Proof.Machine.execContextSave pl s
  | .savefail x => Sys2Proof.Machine.execSavefail x s
  | .contextRestore k => Sys2Proof.Machine.execContextRestore k s
  | .nowaypoint pl => Sys2Proof.Machine.execNowaypoint pl s
  | .threadEnd pl => Sys2Proof.Machine.execThreadEnd pl s
  | .launchCompletion l => Sys2Proof.Machine.execLaunchCompletion l s
  | .resultDelivery pl => Sys2Proof.Machine.execResultDelivery pl s
  | .tileOperationComplete pl => Sys2Proof.Machine.execTileOperationComplete pl s
  | .stalledBundleIssue pl => Sys2Proof.Machine.execStalledBundleIssue pl s
  | .waitRelease pl => Sys2Proof.Machine.execWaitRelease pl s
  | .landingDataArrival pl k => Sys2Proof.Machine.execLandingDataArrival pl k s
  | .landingDue pl => Sys2Proof.Machine.execLandingDue pl s
  | .monitorFire k => Sys2Proof.Machine.execMonitorFire k s
  | .monitorPoll k => Sys2Proof.Machine.execMonitorPoll k s
  | .homeOperationPerform pl => Sys2Proof.Machine.execHomeOperationPerform pl s
  | .replicaInvalidate k => Sys2Proof.Machine.execReplicaInvalidate k s
  | .engineCommandStart pl => Sys2Proof.Machine.execEngineCommandStart pl s
  | .engineSegmentComplete cmd seg how => Sys2Proof.Machine.execEngineSegmentComplete cmd seg how s
  | .bindPoll k => Sys2Proof.Machine.execBindPoll k s
  | .engineRetry cmd seg => Sys2Proof.Machine.execEngineRetry cmd seg s
  | .segmentResend cmd seg ok => Sys2Proof.Machine.execSegmentResend cmd seg ok s
  | .winderFill pl sp => Sys2Proof.Machine.execWinderFill pl sp s
  | .winderDrain pl sp => Sys2Proof.Machine.execWinderDrain pl sp s
  | .xchgRowArrival cmd row room => Sys2Proof.Machine.execXchgRowArrival cmd row room s
  | .xchgLaybyReplay => Sys2Proof.Machine.execXchgLaybyReplay s
  | .collInstanceArm cmd => Sys2Proof.Machine.execCollInstanceArm cmd s
  | .collComplete inst => Sys2Proof.Machine.execCollComplete inst s
  | .pageResident asid va pa => Sys2Proof.Machine.execPageResident asid va pa s
  | .pageDecline asid va => Sys2Proof.Machine.execPageDecline asid va s
  | .pageWaitTimeout asid va => Sys2Proof.Machine.execPageWaitTimeout asid va s
  | .pageMigration asid va pa => Sys2Proof.Machine.execPageMigration asid va pa s
  | .ivqCommandExecute die => Sys2Proof.Machine.execIvqCommandExecute die s
  | .xlatec pl => Sys2Proof.Machine.execXlatec pl s
  | .unwind pl => Sys2Proof.Machine.execUnwind pl s
  | .correctedError level die => Sys2Proof.Machine.execCorrectedError level die s
  | .errorRetry level die addr again => Sys2Proof.Machine.execErrorRetry level die addr again s
  | .partRetirement level die part => Sys2Proof.Machine.execPartRetirement level die part s
  | .coreRetirement => Sys2Proof.Machine.execCoreRetirement s
  | .flitReceive port crcOk seq x => Sys2Proof.Machine.execFlitReceive port crcOk seq x s
  | .requestTimeout req => Sys2Proof.Machine.execRequestTimeout req s
  | .dieDrop x => Sys2Proof.Machine.execDieDrop x s
  | .checkpoint safe => Sys2Proof.Machine.execCheckpoint safe s
  | .firmwareUpdate img => Sys2Proof.Machine.execFirmwareUpdate img s
  | .attestationRequest nonce pa => Sys2Proof.Machine.execAttestationRequest nonce pa s
  | .attestationReport => Sys2Proof.Machine.execAttestationReport s
  | .counterClear die k => Sys2Proof.Machine.execCounterClear die k s
  | .pcapWrite die v => Sys2Proof.Machine.execPcapWrite die v s
  | .mgmtRegisterWrite off size act auth => Sys2Proof.Machine.execMgmtRegisterWrite off size act auth s
  | .breakpointHalt pl => Sys2Proof.Machine.execBreakpointHalt pl s
  | .debugResume => Sys2Proof.Machine.execDebugResume s
  | .debugStep pl n => Sys2Proof.Machine.execDebugStep pl n s
  | .debuggerRegisterWrite pl d w v => Sys2Proof.Machine.execDebuggerRegisterWrite pl d w v s
  | .latchWrite pl u j w v => Sys2Proof.Machine.execLatchWrite pl u j w v s
  | .latchFlush pl => Sys2Proof.Machine.execLatchFlush pl s
  | .xchgAcknowledgement cmd row ack => Sys2Proof.Machine.execXchgAcknowledgement cmd row ack s
  | .linkTrained port lanes => Sys2Proof.Machine.execLinkTrained port lanes s
  | .lineFillComplete line => Sys2Proof.Machine.execLineFillComplete line s
  | .lsOccupancyEnd => Sys2Proof.Machine.execLsOccupancyEnd s
  | .launchQueueDeparture die => Sys2Proof.Machine.execLaunchQueueDeparture die s
  | .svnRaise v => Sys2Proof.Machine.execSvnRaise v s
  | .nop slot => Sys2Proof.Machine.execNop slot s
  | .move g src dst => Sys2Proof.Machine.execMove g src dst s
  | .spoolRead g sp dst => Sys2Proof.Machine.execSpoolRead g sp dst s
  | .spoolWrite g src sp => Sys2Proof.Machine.execSpoolWrite g src sp s
  | .writeTscale g src => Sys2Proof.Machine.execWriteTscale g src s
  | .writeMpc g src => Sys2Proof.Machine.execWriteMpc g src s
  | .writeStat g src => Sys2Proof.Machine.execWriteStat g src s
  | .writeErrinjCtl g src => Sys2Proof.Machine.execWriteErrinjCtl g src s
  | .br g src => Sys2Proof.Machine.execBr g src s
  | .brc g src => Sys2Proof.Machine.execBrc g src s
  | .brx g src => Sys2Proof.Machine.execBrx g src s
  | .call g src => Sys2Proof.Machine.execCall g src s
  | .callx g src => Sys2Proof.Machine.execCallx g src s
  | .ret g src => Sys2Proof.Machine.execRet g src s
  | .loop g src => Sys2Proof.Machine.execLoop g src s
  | .lend g src => Sys2Proof.Machine.execLend g src s
  | .lbrk g src => Sys2Proof.Machine.execLbrk g src s
  | .wait g src => Sys2Proof.Machine.execWait g src s
  | .waita g src => Sys2Proof.Machine.execWaita g src s
  | .yield g src => Sys2Proof.Machine.execYield g src s
  | .halt g src => Sys2Proof.Machine.execHalt g src s
  | .trap g src => Sys2Proof.Machine.execTrap g src s
  | .dual g src => Sys2Proof.Machine.execDual g src s
  | .fmtw g src => Sys2Proof.Machine.execFmtw g src s
  | .ntreq g src => Sys2Proof.Machine.execNtreq g src s
  | .launch g src => Sys2Proof.Machine.execLaunch g src s
  | .launchw g src => Sys2Proof.Machine.execLaunchw g src s
  | .secgo g src => Sys2Proof.Machine.execSecgo g src s
  | .secstop g src => Sys2Proof.Machine.execSecstop g src s
  | .fset g src => Sys2Proof.Machine.execFset g src s
  | .fclr g src => Sys2Proof.Machine.execFclr g src s
  | .skjoin g src => Sys2Proof.Machine.execSkjoin g src s
  | .skleave g src => Sys2Proof.Machine.execSkleave g src s
  | .cropen g src => Sys2Proof.Machine.execCropen g src s
  | .crclose g src => Sys2Proof.Machine.execCrclose g src s
  | .crabort g src => Sys2Proof.Machine.execCrabort g src s
  | .rdsr g src => Sys2Proof.Machine.execRdsr g src s
  | .pcrd g src => Sys2Proof.Machine.execPcrd g src s
  | .brkp g src => Sys2Proof.Machine.execBrkp g src s
  | .ivqw g src => Sys2Proof.Machine.execIvqw g src s
  | .errrd g src => Sys2Proof.Machine.execErrrd g src s
  | .ctxsv g src => Sys2Proof.Machine.execCtxsv g src s
  | .ctxld g src => Sys2Proof.Machine.execCtxld g src s
  | .qsce g src => Sys2Proof.Machine.execQsce g src s
  | .add g src => Sys2Proof.Machine.execAdd g src s
  | .sub g src => Sys2Proof.Machine.execSub g src s
  | .mul g src => Sys2Proof.Machine.execMul g src s
  | .mulhI64 g src => Sys2Proof.Machine.execMulhI64 g src s
  | .mulhN64 g src => Sys2Proof.Machine.execMulhN64 g src s
  | .and g src => Sys2Proof.Machine.execAnd g src s
  | .or g src => Sys2Proof.Machine.execOr g src s
  | .xor g src => Sys2Proof.Machine.execXor g src s
  | .andn g src => Sys2Proof.Machine.execAndn g src s
  | .shl g src => Sys2Proof.Machine.execShl g src s
  | .shrN64 g src => Sys2Proof.Machine.execShrN64 g src s
  | .shrI64 g src => Sys2Proof.Machine.execShrI64 g src s
  | .rotl g src => Sys2Proof.Machine.execRotl g src s
  | .minI64 g src => Sys2Proof.Machine.execMinI64 g src s
  | .minN64 g src => Sys2Proof.Machine.execMinN64 g src s
  | .maxI64 g src => Sys2Proof.Machine.execMaxI64 g src s
  | .maxN64 g src => Sys2Proof.Machine.execMaxN64 g src s
  | .cmpeq g src => Sys2Proof.Machine.execCmpeq g src s
  | .cmpltI64 g src => Sys2Proof.Machine.execCmpltI64 g src s
  | .cmpltN64 g src => Sys2Proof.Machine.execCmpltN64 g src s
  | .cmpleI64 g src => Sys2Proof.Machine.execCmpleI64 g src s
  | .cmpleN64 g src => Sys2Proof.Machine.execCmpleN64 g src s
  | .sel g src => Sys2Proof.Machine.execSel g src s
  | .clz g src => Sys2Proof.Machine.execClz g src s
  | .ctz g src => Sys2Proof.Machine.execCtz g src s
  | .popc g src => Sys2Proof.Machine.execPopc g src s
  | .sextI8 g src => Sys2Proof.Machine.execSextI8 g src s
  | .sextI16 g src => Sys2Proof.Machine.execSextI16 g src s
  | .sextI32 g src => Sys2Proof.Machine.execSextI32 g src s
  | .zextN8 g src => Sys2Proof.Machine.execZextN8 g src s
  | .zextN16 g src => Sys2Proof.Machine.execZextN16 g src s
  | .zextN32 g src => Sys2Proof.Machine.execZextN32 g src s
  | .bfx g src => Sys2Proof.Machine.execBfx g src s
  | .bfi g src => Sys2Proof.Machine.execBfi g src s
  | .ldI8 g src => Sys2Proof.Machine.execLdI8 g src s
  | .ldN8 g src => Sys2Proof.Machine.execLdN8 g src s
  | .ldI16 g src => Sys2Proof.Machine.execLdI16 g src s
  | .ldN16 g src => Sys2Proof.Machine.execLdN16 g src s
  | .ldI32 g src => Sys2Proof.Machine.execLdI32 g src s
  | .ldN32 g src => Sys2Proof.Machine.execLdN32 g src s
  | .ldI64 g src => Sys2Proof.Machine.execLdI64 g src s
  | .stN8 g src => Sys2Proof.Machine.execStN8 g src s
  | .stN16 g src => Sys2Proof.Machine.execStN16 g src s
  | .stN32 g src => Sys2Proof.Machine.execStN32 g src s
  | .stN64 g src => Sys2Proof.Machine.execStN64 g src s
  | .invr g src => Sys2Proof.Machine.execInvr g src s
  | .wbr g src => Sys2Proof.Machine.execWbr g src s
  | .prefl g src => Sys2Proof.Machine.execPrefl g src s
  | .ldl g src => Sys2Proof.Machine.execLdl g src s
  | .faddF32 g src => Sys2Proof.Machine.execFaddF32 g src s
  | .faddBf16 g src => Sys2Proof.Machine.execFaddBf16 g src s
  | .faddF16 g src => Sys2Proof.Machine.execFaddF16 g src s
  | .fsubF32 g src => Sys2Proof.Machine.execFsubF32 g src s
  | .fsubBf16 g src => Sys2Proof.Machine.execFsubBf16 g src s
  | .fsubF16 g src => Sys2Proof.Machine.execFsubF16 g src s
  | .fmulF32 g src => Sys2Proof.Machine.execFmulF32 g src s
  | .fmulBf16 g src => Sys2Proof.Machine.execFmulBf16 g src s
  | .fmulF16 g src => Sys2Proof.Machine.execFmulF16 g src s
  | .fmaF32 g src => Sys2Proof.Machine.execFmaF32 g src s
  | .fmaBf16 g src => Sys2Proof.Machine.execFmaBf16 g src s
  | .fmaF16 g src => Sys2Proof.Machine.execFmaF16 g src s
  | .fminF32 g src => Sys2Proof.Machine.execFminF32 g src s
  | .fminBf16 g src => Sys2Proof.Machine.execFminBf16 g src s
  | .fminF16 g src => Sys2Proof.Machine.execFminF16 g src s
  | .fmaxF32 g src => Sys2Proof.Machine.execFmaxF32 g src s
  | .fmaxBf16 g src => Sys2Proof.Machine.execFmaxBf16 g src s
  | .fmaxF16 g src => Sys2Proof.Machine.execFmaxF16 g src s
  | .fabsF32 g src => Sys2Proof.Machine.execFabsF32 g src s
  | .fnegF32 g src => Sys2Proof.Machine.execFnegF32 g src s
  | .frndF32 g src => Sys2Proof.Machine.execFrndF32 g src s
  | .fcmpeqF32 g src => Sys2Proof.Machine.execFcmpeqF32 g src s
  | .fcmpltF32 g src => Sys2Proof.Machine.execFcmpltF32 g src s
  | .fcmpleF32 g src => Sys2Proof.Machine.execFcmpleF32 g src s
  | .fcmpunF32 g src => Sys2Proof.Machine.execFcmpunF32 g src s
  | .vadd g src => Sys2Proof.Machine.execVadd g src s
  | .vsub g src => Sys2Proof.Machine.execVsub g src s
  | .vmul g src => Sys2Proof.Machine.execVmul g src s
  | .vminI32 g src => Sys2Proof.Machine.execVminI32 g src s
  | .vminN32 g src => Sys2Proof.Machine.execVminN32 g src s
  | .vmaxI32 g src => Sys2Proof.Machine.execVmaxI32 g src s
  | .vmaxN32 g src => Sys2Proof.Machine.execVmaxN32 g src s
  | .vand g src => Sys2Proof.Machine.execVand g src s
  | .vor g src => Sys2Proof.Machine.execVor g src s
  | .vxor g src => Sys2Proof.Machine.execVxor g src s
  | .vshl g src => Sys2Proof.Machine.execVshl g src s
  | .vshrN32 g src => Sys2Proof.Machine.execVshrN32 g src s
  | .vshrI32 g src => Sys2Proof.Machine.execVshrI32 g src s
  | .vcmpeq g src => Sys2Proof.Machine.execVcmpeq g src s
  | .vcmpltI32 g src => Sys2Proof.Machine.execVcmpltI32 g src s
  | .vcmpltN32 g src => Sys2Proof.Machine.execVcmpltN32 g src s
  | .vsel g src => Sys2Proof.Machine.execVsel g src s
  | .vcasF32 g src => Sys2Proof.Machine.execVcasF32 g src s
  | .vcasI32 g src => Sys2Proof.Machine.execVcasI32 g src s
  | .vcasN32 g src => Sys2Proof.Machine.execVcasN32 g src s
  | .vbperm g src => Sys2Proof.Machine.execVbperm g src s
  | .vlperm g src => Sys2Proof.Machine.execVlperm g src s
  | .vredF32 g src => Sys2Proof.Machine.execVredF32 g src s
  | .vredI32 g src => Sys2Proof.Machine.execVredI32 g src s
  | .vredN32 g src => Sys2Proof.Machine.execVredN32 g src s
  | .vscanF32 g src => Sys2Proof.Machine.execVscanF32 g src s
  | .vscanI32 g src => Sys2Proof.Machine.execVscanI32 g src s
  | .vcmpact g src => Sys2Proof.Machine.execVcmpact g src s
  | .vcvtfI32 g src => Sys2Proof.Machine.execVcvtfI32 g src s
  | .vcvtiF32 g src => Sys2Proof.Machine.execVcvtiF32 g src s
  | .vcvtBf16 g src => Sys2Proof.Machine.execVcvtBf16 g src s
  | .vcvtF16 g src => Sys2Proof.Machine.execVcvtF16 g src s
  | .cmset g src => Sys2Proof.Machine.execCmset g src s
  | .cmaff g src => Sys2Proof.Machine.execCmaff g src s
  | .cmtrn g src => Sys2Proof.Machine.execCmtrn g src s
  | .cmst g src => Sys2Proof.Machine.execCmst g src s
  | .cmslc g src => Sys2Proof.Machine.execCmslc g src s
  | .cmidx g src => Sys2Proof.Machine.execCmidx g src s
  | .cmclr g src => Sys2Proof.Machine.execCmclr g src s
  | .vknfN32 g src => Sys2Proof.Machine.execVknfN32 g src s
  | .vknfF32 g src => Sys2Proof.Machine.execVknfF32 g src s
  | .nrcinc g src => Sys2Proof.Machine.execNrcinc g src s
  | .qand g src => Sys2Proof.Machine.execQand g src s
  | .qor g src => Sys2Proof.Machine.execQor g src s
  | .qxor g src => Sys2Proof.Machine.execQxor g src s
  | .qandn g src => Sys2Proof.Machine.execQandn g src s
  | .qcnt g src => Sys2Proof.Machine.execQcnt g src s
  | .qffs g src => Sys2Proof.Machine.execQffs g src s
  | .vbcast g src => Sys2Proof.Machine.execVbcast g src s
  | .exp g src => Sys2Proof.Machine.execExp g src s
  | .exp2 g src => Sys2Proof.Machine.execExp2 g src s
  | .log g src => Sys2Proof.Machine.execLog g src s
  | .rcp g src => Sys2Proof.Machine.execRcp g src s
  | .rsqrt g src => Sys2Proof.Machine.execRsqrt g src s
  | .tanh g src => Sys2Proof.Machine.execTanh g src s
  | .sigm g src => Sys2Proof.Machine.execSigm g src s
  | .sin g src => Sys2Proof.Machine.execSin g src s
  | .cos g src => Sys2Proof.Machine.execCos g src s
  | .erf g src => Sys2Proof.Machine.execErf g src s
  | .vld g src => Sys2Proof.Machine.execVld g src s
  | .vldl g src => Sys2Proof.Machine.execVldl g src s
  | .vst g src => Sys2Proof.Machine.execVst g src s
  | .vldf g src => Sys2Proof.Machine.execVldf g src s
  | .vldfc g src => Sys2Proof.Machine.execVldfc g src s
  | .vstf g src => Sys2Proof.Machine.execVstf g src s
  | .vfe g src => Sys2Proof.Machine.execVfe g src s
  | .vfeclr g src => Sys2Proof.Machine.execVfeclr g src s
  | .vldq g src => Sys2Proof.Machine.execVldq g src s
  | .vstq g src => Sys2Proof.Machine.execVstq g src s
  | .mldt g src => Sys2Proof.Machine.execMldt g src s
  | .mstt g src => Sys2Proof.Machine.execMstt g src s
  | .mmov g src => Sys2Proof.Machine.execMmov g src s
  | .mzer g src => Sys2Proof.Machine.execMzer g src s
  | .mqs g src => Sys2Proof.Machine.execMqs g src s
  | .mqss g src => Sys2Proof.Machine.execMqss g src s
  | .mqsr g src => Sys2Proof.Machine.execMqsr g src s
  | .mfold g src => Sys2Proof.Machine.execMfold g src s
  | .mdrn g src => Sys2Proof.Machine.execMdrn g src s
  | .mkat g src => Sys2Proof.Machine.execMkat g src s
  | .msts g src => Sys2Proof.Machine.execMsts g src s
  | .mcrr g src => Sys2Proof.Machine.execMcrr g src s
  | .xcvtBf16 g src => Sys2Proof.Machine.execXcvtBf16 g src s
  | .xcvtF16 g src => Sys2Proof.Machine.execXcvtF16 g src s
  | .xcvtE4m3 g src => Sys2Proof.Machine.execXcvtE4m3 g src s
  | .xcvtE5m2 g src => Sys2Proof.Machine.execXcvtE5m2 g src s
  | .xcvtE2m3 g src => Sys2Proof.Machine.execXcvtE2m3 g src s
  | .xcvtE3m2 g src => Sys2Proof.Machine.execXcvtE3m2 g src s
  | .xcvtE2m1 g src => Sys2Proof.Machine.execXcvtE2m1 g src s
  | .xcvtI8 g src => Sys2Proof.Machine.execXcvtI8 g src s
  | .xcvtN8 g src => Sys2Proof.Machine.execXcvtN8 g src s
  | .xcvtI4 g src => Sys2Proof.Machine.execXcvtI4 g src s
  | .xcvtN4 g src => Sys2Proof.Machine.execXcvtN4 g src s
  | .xexpBf16 g src => Sys2Proof.Machine.execXexpBf16 g src s
  | .xexpF16 g src => Sys2Proof.Machine.execXexpF16 g src s
  | .xexpE4m3 g src => Sys2Proof.Machine.execXexpE4m3 g src s
  | .xexpE5m2 g src => Sys2Proof.Machine.execXexpE5m2 g src s
  | .xexpE2m3 g src => Sys2Proof.Machine.execXexpE2m3 g src s
  | .xexpE3m2 g src => Sys2Proof.Machine.execXexpE3m2 g src s
  | .xexpE2m1 g src => Sys2Proof.Machine.execXexpE2m1 g src s
  | .xexpI8 g src => Sys2Proof.Machine.execXexpI8 g src s
  | .xexpN8 g src => Sys2Proof.Machine.execXexpN8 g src s
  | .xexpI4 g src => Sys2Proof.Machine.execXexpI4 g src s
  | .xexpN4 g src => Sys2Proof.Machine.execXexpN4 g src s
  | .xexpQ4k g src => Sys2Proof.Machine.execXexpQ4k g src s
  | .xtrnN8 g src => Sys2Proof.Machine.execXtrnN8 g src s
  | .xtrnN16 g src => Sys2Proof.Machine.execXtrnN16 g src s
  | .xtrnN32 g src => Sys2Proof.Machine.execXtrnN32 g src s
  | .xqntE4m3 g src => Sys2Proof.Machine.execXqntE4m3 g src s
  | .xqntE5m2 g src => Sys2Proof.Machine.execXqntE5m2 g src s
  | .xqntE2m3 g src => Sys2Proof.Machine.execXqntE2m3 g src s
  | .xqntE3m2 g src => Sys2Proof.Machine.execXqntE3m2 g src s
  | .xqntE2m1 g src => Sys2Proof.Machine.execXqntE2m1 g src s
  | .xqntI8 g src => Sys2Proof.Machine.execXqntI8 g src s
  | .xqntQ4k g src => Sys2Proof.Machine.execXqntQ4k g src s
  | .xzipN8 g src => Sys2Proof.Machine.execXzipN8 g src s
  | .xzipN16 g src => Sys2Proof.Machine.execXzipN16 g src s
  | .xunzN8 g src => Sys2Proof.Machine.execXunzN8 g src s
  | .xunzN16 g src => Sys2Proof.Machine.execXunzN16 g src s
  | .wind g src => Sys2Proof.Machine.execWind g src s
  | .spadv g src => Sys2Proof.Machine.execSpadv g src s
  | .copy g src => Sys2Proof.Machine.execCopy g src s
  | .gath g src => Sys2Proof.Machine.execGath g src s
  | .scat g src => Sys2Proof.Machine.execScat g src s
  | .kvg g src => Sys2Proof.Machine.execKvg g src s
  | .cmpx g src => Sys2Proof.Machine.execCmpx g src s
  | .xchg g src => Sys2Proof.Machine.execXchg g src s
  | .coll g src => Sys2Proof.Machine.execColl g src s
  | .drain g src => Sys2Proof.Machine.execDrain g src s
  | .fence g src => Sys2Proof.Machine.execFence g src s
  | .prefh g src => Sys2Proof.Machine.execPrefh g src s
  | .migr g src => Sys2Proof.Machine.execMigr g src s
  | .enq g src => Sys2Proof.Machine.execEnq g src s
  | .aaddI32 g src => Sys2Proof.Machine.execAaddI32 g src s
  | .aaddI64 g src => Sys2Proof.Machine.execAaddI64 g src s
  | .aaddF32 g src => Sys2Proof.Machine.execAaddF32 g src s
  | .aaddBf16 g src => Sys2Proof.Machine.execAaddBf16 g src s
  | .aminI32 g src => Sys2Proof.Machine.execAminI32 g src s
  | .aminI64 g src => Sys2Proof.Machine.execAminI64 g src s
  | .aminN32 g src => Sys2Proof.Machine.execAminN32 g src s
  | .aminN64 g src => Sys2Proof.Machine.execAminN64 g src s
  | .amaxI32 g src => Sys2Proof.Machine.execAmaxI32 g src s
  | .amaxI64 g src => Sys2Proof.Machine.execAmaxI64 g src s
  | .amaxN32 g src => Sys2Proof.Machine.execAmaxN32 g src s
  | .amaxN64 g src => Sys2Proof.Machine.execAmaxN64 g src s
  | .aandN32 g src => Sys2Proof.Machine.execAandN32 g src s
  | .aandN64 g src => Sys2Proof.Machine.execAandN64 g src s
  | .aorN32 g src => Sys2Proof.Machine.execAorN32 g src s
  | .aorN64 g src => Sys2Proof.Machine.execAorN64 g src s
  | .axorN32 g src => Sys2Proof.Machine.execAxorN32 g src s
  | .axorN64 g src => Sys2Proof.Machine.execAxorN64 g src s
  | .aswpN32 g src => Sys2Proof.Machine.execAswpN32 g src s
  | .aswpN64 g src => Sys2Proof.Machine.execAswpN64 g src s
  | .acasN32 g src => Sys2Proof.Machine.execAcasN32 g src s
  | .acasN64 g src => Sys2Proof.Machine.execAcasN64 g src s
  | .hinit g src => Sys2Proof.Machine.execHinit g src s
  | .hoffer g src => Sys2Proof.Machine.execHoffer g src s
  | .htake g src => Sys2Proof.Machine.execHtake g src s
  | .balloc g src => Sys2Proof.Machine.execBalloc g src s
  | .bfree g src => Sys2Proof.Machine.execBfree g src s
  | .msarm g src => Sys2Proof.Machine.execMsarm g src s
  | .msarv g src => Sys2Proof.Machine.execMsarv g src s
  | .msbind g src => Sys2Proof.Machine.execMsbind g src s
  | .unwindSpool g src => Sys2Proof.Machine.execUnwindSpool g src s

end Sys2Proof.Machine
end

