-- ==== Sys2Proof/Machine/Step.lean ====
section
/-! DEFINITION. The step: the next action from outside or of another agent that the state lists; else what the bundle boundary calls for; else an
A-cycle of the core, with one step of another agent before it when it is one's turn. -/

namespace Sys2Proof.Machine

/-- The A-cycle that follows a step of another agent, unless that step leaves a boundary that calls for a step first: the first bundle of a thread
that was placed just now may have a breakpoint (R45). -/
def thenCycle (o : Host.Outcome State Fault Refusal) : Host.Outcome State Fault Refusal :=
  match o with
  | .next s => if s.m.urgent.isSome then .next s else .next { s with m := s.m.cycle }
  | o => o

/-- One step. Without the supply (R22) only its return, with package reset, does anything. -/
def step (s : State) : Host.Outcome State Fault Refusal :=
  match s.inputs with
  | i :: is => if s.m.dev.powered || isReset i then exec i { s with inputs := is } else .next { s with inputs := is }
  | [] =>
    if !s.m.dev.powered then .fault .supplyOff
    else match s.m.urgent with
      | some i => exec i s
      | none => match s.m.agentNow with
        | some i => thenCycle (exec i s)
        | none => .next { s with m := s.m.cycle }

/-- The state whose next step runs the instruction of a slot word. -/
def State.withFetchWord (s : State) (nbits w : Nat) : State :=
  { s with m := s.m.withWord (BitVec.ofNat 24 (w % 2 ^ nbits)), issue := none, inputs := [] }

end Sys2Proof.Machine
end

