-- ==== Sys2Proof/WellFormed.lean ====
section
/-! DEFINITION. Which instructions a word can hold: the guard is legal in its slot (R69), the slot's bus reaches source and
destination (R76), a trigger stands in a slot of its class (Table 4-5), a wait carries no guard, and the word is not the all-zero one of
the empty slot (R68). -/

namespace Sys2Proof

/-- The guard field is legal (R69): not guard 0 with inv. -/
def Grd.ok (g : Grd) : Bool := !(g.g.val = 0 && g.inv)

/-- A slot row is well formed when its guard is legal, both ids reach its slot, a `wait` has no guard, and a plain move from a
spool port is written as its own row. The unconditional move of s0 to s0 is not an instruction: its word would be all zero, which is the
empty slot (R68). The device's steps are always well formed. -/
def Instr.wf (i : Instr) : Bool :=
  match i with
  | .move _ (.spool _) _ => false
  | _ =>
    match i.parts with
    | none => true
    | some (dest, g, s) =>
      g.ok && toOk g.slot dest && s.reach g.slot.val && (dest ≠ 0x209 || g.g.val = 0) && (dest ≠ 0 || s.id ≠ 0 || g.g.val ≠ 0)

/-- An instruction that a slot word (with its literal) can hold. -/
def WellFormed (i : Instr) : Prop := i.wf = true

end Sys2Proof
end

