-- ==== Sys2Proof/Safety.lean ====
section
/-! DEFINITION. What counts as a safe run, and the terms in which claims speak of it: a step that does not stop, a move that fires in a
bundle, the operands of a trigger, the bundle that decoded instructions make, and the canonical memories. -/

namespace Sys2Proof.Machine

/-- A step that does not stop. -/
def StepsOn (s : State) : Prop := ∃ t, step s = .next t

/-- The state with another machine: what an action from outside or of another agent makes of it. -/
def State.on (s : State) (m : Mach) : State := { s with m := m }

/-! ### A move in a bundle in progress -/

/-- A slot instruction's move fires in the bundle in progress `b`: its guard lets the lanes `mask` through, at least one, and its source gives the
value `v` (R70, R73 step 1). -/
structure Fires (s : State) (b : Issue) (g : Grd) (src : Src) (mask : BitVec 64) (v : Val) : Prop where
  bundle : s.issue = some b
  guard : guardMask s.m b.isWait g = mask
  passes : mask ≠ 0
  value : s.m.read src = .ok v

/-- The state with the bundle in progress `b`. -/
def State.inBundle (s : State) (b : Issue) : State := { s with issue := some b }

/-- The bundle once a trigger's value stands in the last operand latch of its unit (R73 steps 1 and 3): a spool read port has advanced, and an
operation without operand writes no latch. -/
def Issue.latched (b : Issue) (src : Src) (u : FU) (nops : Nat) (v : Val) : Issue :=
  if nops = 0 then b.popSpool src
  else if u.scalar then ((b.popSpool src).setSl u (nops - 1) v.word).setLsrc u (nops - 1) src allLanes
  else ((b.popSpool src).setVl u (nops - 1) v.vval).setLsrc u (nops - 1) src allLanes

/-- Operand `j` (from 0) of a trigger with `n` operands on a scalar unit: the trigger's value for the last, else what the latch holds when the
bundle's operand moves are made (R73). -/
def Issue.arg (b : Issue) (u : FU) (n j : Nat) (v : Val) : Word := if j + 1 = n then v.word else b.sl u j
/-- Operand `j` of a trigger with `n` operands on a vector unit. -/
def Issue.argV (b : Issue) (u : FU) (n j : Nat) (v : Val) : VVal := if j + 1 = n then v.vval else b.vl u j

/-- The bundle once a vector operation of a latency class has started: its result, with tangents in a dual bundle, is on its way to a port for the guard's
lanes, due at i + LAT (R70, R87, R124, R177, R215). -/
def Issue.gives (b : Issue) (s : State) (p : VPort) (cls : Nat) (mask : BitVec 64) (map : MapD) (lanes : Nat → Lane) (tg : Nat → Nat → Lane) : Issue :=
  let t := b.now.t
  b.modSt fun x => { x with pend := x.pend ++ [⟨.inr p, t.time + (nth t.kern.lat cls).toNat, t.time + actualLat cls t.T b.now.dual t.fusedl1, mask, 0,
    ⟨Vec.build lanes, map, if s.m.dual then mkTg s.m.t.T tg else [], false⟩⟩] }

/-! ### Bundles of decoded instructions (R73, R189, R190) -/

/-- The row is a trigger (Table 4-5): its `to` id is 0x200 or above. -/
def Instr.isTrigger (i : Instr) : Bool := match i.parts with | some (d, _, _) => 0x200 ≤ d | none => false
/-- The row is a `wait`. -/
def Instr.isWait : Instr → Bool | .wait _ _ => true | _ => false
/-- The flag guards of a wait bundle: slot, flag, inversion. -/
def flagGuardsOf (is : List Instr) : List (Nat × Nat × Bool) :=
  is.filterMap fun i => match i.parts with
    | some (_, g, _) => if g.slot.val = 0 || g.g.val = 0 then none else some (g.slot.val, g.g.val, g.inv)
    | none => none
/-- A bundle in progress takes what `exec` makes of one instruction. -/
def Issue.exec (pre : Mach) (b : Issue) (i : Instr) : Issue :=
  match Sys2Proof.Machine.exec i ⟨pre, some b, []⟩ with
  | .next s => s.issue.getD b
  | _ => b
/-- The bundle of decoded instructions read from `pre`: every operand and register move, and every trigger's value in its latch, then every trigger's
operation, each in ascending slot order (R73); each adds what `exec` makes of it. -/
def bundleOf (pre : Mach) (is : List Instr) : Issue :=
  let w := is.any Instr.isWait
  { pre.start with isWait := w, flagG := if w then flagGuardsOf is else [] }.runBy (Issue.exec pre)
    (is.filter fun i => !Instr.isTrigger i) (is.filter Instr.isTrigger)

/-! ### Canonical memories -/

/-- Every memory of the machine is in canonical form: device memory and its checkpoints, the cluster SRAMs, the scratchpads of the two places and
what the last occupants left in their region. -/
def Mach.memOk (m : Mach) : Prop :=
  m.dev.mem.wf = true ∧ (match m.dev.ckHbm with | some i => i.mem.wf = true | none => True) ∧
    (match m.dev.ckSafe with | some i => i.mem.wf = true | none => True) ∧
    (∀ k : Nat, (nth m.dev.csram k).wf = true) ∧ m.thr0.spad.wf = true ∧ m.thr1.spad.wf = true ∧ m.core.left.wf = true

end Sys2Proof.Machine
end

