-- ==== Sys2Proof/Certificates/Slice0/Obligations.lean ====
section
/-! DEFINITION. The statements about the GX960 model that are to be proved. Each says which rules of the spec it states, or which choices of the
model it rests on. -/

open Sys2Proof Sys2Proof.Machine

/-! ### Encodings and the step (chapter 04, R66–R76, R83, R84) -/

/-- Slot words that examples of the spec write out decode to the instructions they stand for: the operand moves and the triggers of Examples 4.1, 9.1, 9.3,
10.2, 11.1 and 12.1, the empty slot, and 0x052005, whose trigger id 0x290 is unassigned, of Example 19.1. An immediate is numbered from its
lowest value, -32. -/
def Parts.DecodesExampleWords : Prop :=
  decodeSlot 0 0x022004 0 = .ok (.move ⟨0, 0, false⟩ (.s 4) (.opnd .sa0 0)) ∧
  decodeSlot 1 0x0481F0 0x0186A0 = .ok (.add ⟨1, 0, false⟩ (.limm 100000)) ∧
  decodeSlot 3 0x052042 0 = .ok (.faddF32 ⟨3, 0, false⟩ (.va 2)) ∧
  decodeSlot 4 0x023841 0 = .ok (.move ⟨4, 0, false⟩ (.va 1) (.opnd .fa0 0)) ∧
  decodeSlot 2 0x24A407 0 = .ok (.cmpltI64 ⟨2, 2, false⟩ (.s 7)) ∧
  decodeSlot 0 0x041322 0 = .ok (.wait ⟨0, 0, false⟩ (.imm 34)) ∧
  decodeSlot 1 0x310120 0 = .ok (.move ⟨1, 3, false⟩ (.imm 32) (.p 0)) ∧
  decodeSlot 2 0x500401 0 = .ok (.move ⟨2, 5, false⟩ (.s 1) (.s 2)) ∧
  decodeSlot 3 0x058892 0 = .ok (.vcmpact ⟨3, 0, false⟩ (.qa 2)) ∧
  decodeSlot 4 0x023845 0 = .ok (.move ⟨4, 0, false⟩ (.va 5) (.opnd .fa0 0)) ∧
  decodeSlot 7 0x06A928 0 = .ok (.mqs ⟨7, 0, false⟩ (.imm 40)) ∧
  decodeSlot 0 0x07E80D 0 = .ok (.acasN32 ⟨0, 0, false⟩ (.s 13)) ∧
  decodeSlot 1 0x02180A 0 = .ok (.move ⟨1, 0, false⟩ (.s 10) (.opnd .am 0)) ∧
  decodeSlot 2 0x021BF0 0x64B014 = .ok (.move ⟨2, 0, false⟩ (.limm 0x64B014) (.opnd .am 1)) ∧
  decodeSlot 0 0 0 = .ok (.nop 0) ∧
  decodeSlot 1 0x052005 0 = .error (.unassigned false 0x290)

/-- Decoding the words of a well-formed slot instruction gives the instruction back, whatever stands in the slot above when it takes no
literal: every guard, source, destination and trigger id of Tables 4-1 to 4-7, at every value (R68, R71, R76). -/
def Obligations.DecodeOfEncode : Prop :=
  ∀ (i : Instr) (above : BitVec 24), WellFormed i → encode i ≠ [] →
    decodeSlot i.slot ((encode i).getD 0 0) ((encode i).getD 1 above) = .ok i

/-- Each word has one meaning: a word that decodes is the word of the instruction it decodes to, which is well formed and stands in that slot; one
whose source is LIMM or LIMMZ takes the slot above as its literal (R68, R71). -/
def Obligations.EncodeOfDecode : Prop :=
  ∀ (n : Fin 8) (w lit : BitVec 24) (i : Instr), decodeSlot n w lit = .ok i →
    WellFormed i ∧ i.slot = n ∧ encode i = w :: (if takesLit w && w ≠ 0 then [lit] else [])

/-- The trigger ids of R83 are instructions in no slot: a word whose `to` field holds one is refused with the id, before its `from` field and its
guard are looked at (R83, R84, R338). -/
def Parts.UnassignedTriggersRefused : Prop :=
  ∀ (n : Fin 8) (w lit : BitVec 24) (id : Nat),
    bitsOf w.toNat 18 9 = id →
    (0x21C ≤ id ∧ id ≤ 0x21F ∨ 0x228 ≤ id ∧ id ≤ 0x23F ∨ 0x262 ≤ id ∧ id ≤ 0x27F ∨ id = 0x28F ∨ 0x2DA ≤ id ∧ id ≤ 0x30F ∨
      0x31A ≤ id ∧ id ≤ 0x32F ∨ 0x33A ≤ id ∧ id ≤ 0x34F ∨ 0x35C ≤ id ∧ id ≤ 0x37F ∨ 0x3A5 ≤ id ∧ id ≤ 0x3AF ∨
      0x3BF ≤ id ∧ id ≤ 0x3DF ∨ id = 0x3FE ∨ id = 0x3FF) →
    decodeSlot n w lit = .error (.unassigned false id)

/-- Words of the examples decode to their instructions, and no unassigned trigger id decodes to any. (R66, R68, R71, R83, R84, R338) -/
def Obligations.WordsDecodeAsWritten : Prop :=
  Parts.DecodesExampleWords ∧ Parts.UnassignedTriggersRefused

/-- A step runs the instructions its bundle decodes to. Where nothing from outside and no other agent comes first, the core's die runs, no access
is late, the core is not frozen, place 1 has no bundle, and place 0 has one whose 24 bytes, of no stopped die, decode to instructions that neither trap, stall nor
freeze (R66, R73, R337): the step makes what comes due, then the bundle that `exec` makes of the decoded instructions, then the boundary and the
end of the A-cycle. -/
def Obligations.StepRunsDecoded : Prop :=
  ∀ (s : State) (ps : List (Nat × Nat)) (is : List Instr),
    let m := s.m.haltTogether
    let n := m.due.at_ .p0
    s.inputs = [] → s.m.dev.powered = true → s.m.urgent = none → s.m.agentNow = none →
    (nth m.dev.pwr m.core.die).tripped = none → m.late = false → m.core.frozen = false →
    m.due.thr0.paired = false → (m.due.at_ .p1).reaches = false →
    n.reaches = true → n.t.inSection false n.st.pc = true →
    n.coreRange (n.t.kern.img + n.t.kern.boff + BitVec.ofNat 64 (24 * n.st.pc.toNat)) 24 false = .ok ps →
    (∀ p ∈ ps, n.dev.stops p.1 p.2 = false) →
    decode (ps.flatMap fun p => n.dev.bytes p.1 p.2) = .ok is →
    n.st.heldTo n.t.time = false →
    (bundleOf n is).verdict = .go →
    let c := (Cyc.of m.due).issue .p0 (bundleOf n is) (bundleOf n is).commit
    let l0 := (if m.thr0.runs then m.thr0.landNow else []).filter fun l => l.dst ≠ .lsr && l.poison.isNone
    let l1 := (if m.thr1.runs then m.thr1.landNow else []).filter fun l => l.dst ≠ .lsr && l.poison.isNone
    step s = .next { s with m := ((c.reland .p0 l0).reland .p1 l1).done }

/-! ### Rules of every slot instruction (R70, R73, R74, R337–R341) -/

/-- A cancelled move does nothing: when the guard of a slot instruction, of any row, lets no lane through, its bundle goes on as if the slot were
empty: nothing is read, nothing traps, nothing is written (R70, R337). -/
def Parts.CancelledMoveDoesNothing : Prop :=
  ∀ (s : State) (b : Issue) (i : Instr) (id : Nat) (g : Grd) (src : Src),
    s.issue = some b → i.parts = some (id, g, src) → guardMask s.m b.isWait g = 0 → exec i s = .next s

/-- The empty slot does nothing, in a bundle (R68). -/
def Parts.EmptySlotDoesNothing : Prop := ∀ (s : State) (n : Fin 8), s.issue.isSome → exec (.nop n) s = .next s

/-- A move whose source may not be read traps with the source's cause at its slot and does nothing else: whatever the row in a privileged thread, and
in an ordinary one of every row but the privileged ones, whose own check comes first (R337, R338). -/
def Parts.SourceTrapOfAnyRow : Prop :=
  ∀ (s : State) (b : Issue) (i : Instr) (id : Nat) (g : Grd) (src : Src) (cause : Nat),
    s.issue = some b → i.parts = some (id, g, src) → guardMask s.m b.isWait g ≠ 0 → s.m.read src = .trap cause →
    let asks := [Instr.move g src .errinjAddr, .writeErrinjCtl g src, .ivqw g src, .errrd g src, .ctxsv g src, .ctxld g src, .qsce g src] ++
      (match src with | .spool sp => [.spoolRead g sp .errinjAddr] | _ => [])
    s.m.t.priv = true ∨ i ∉ asks →
    exec i s = .next (s.inBundle (b.trapAt g.slot.val cause))

/-- The privileged rows (the writes of ERRINJ_ADDR and ERRINJ_CTL, `ivqw`, `errrd`, `ctxsv`, `ctxld`, `qsce`) in a thread without privilege:
the bundle fails its privilege check at that slot and the row does nothing (R78, R179, R212, R337). -/
def Parts.PrivilegedRowsTrap : Prop :=
  ∀ (s : State) (b : Issue) (g : Grd) (src : Src), s.issue = some b → guardMask s.m b.isWait g ≠ 0 → s.m.t.priv = false →
    ∀ i ∈ [Instr.move g src .errinjAddr, .writeErrinjCtl g src, .ivqw g src, .errrd g src, .ctxsv g src, .ctxld g src, .qsce g src],
      exec i s = .next (s.inBundle (b.privAt g.slot.val)) ∧
      ∀ sp : Fin 16, exec (.spoolRead g sp .errinjAddr) s = .next (s.inBundle (b.privAt g.slot.val))

/-- What any row of a slot does when its guard is false, when its source traps, and, of the privileged rows, in a thread without privilege. (R68, R70,
R78, R179, R212, R337, R338) -/
def Obligations.SlotsCancelledTrappedOrPrivileged : Prop :=
  Parts.CancelledMoveDoesNothing ∧ Parts.EmptySlotDoesNothing ∧ Parts.SourceTrapOfAnyRow ∧ Parts.PrivilegedRowsTrap

/-- Several failed checks of one class report the lowest slot, and within a slot the one found first (R338): with `trapAt` for operation causes and
`privAt` for privilege. -/
def Parts.LowestSlotReports : Prop :=
  (∀ (b : Issue) (n c n' c' : Nat), (b.trap = none) → ((b.trapAt n c).trapAt n' c').trap =
      some (if n' < n then ⟨n', c', 0, false, 0⟩ else ⟨n, c, 0, false, 0⟩)) ∧
  (∀ (b : Issue) (n n' : Nat), (b.priv = none) → ((b.privAt n).privAt n').priv = some ⟨min n n', 0x05, 0, false, 0⟩)

/-- What a bundle comes to, in the order of R337 and R338: a failed privilege check traps before any stall; a stall holds the whole bundle before any
operation check, and the cycle in which an unsatisfied wait or a full launch of a stream that is not secondary waits is a waypoint; then an operation check
traps; a bundle that freezes the core has none of its effect: threads, L1 and memory stay, and the core's own cycles stand; and one that passes all checks comes to
its boundary, of which a bundle of the secondary stream makes no waypoint (R35, R139). The machine before the bundle is `pre`. -/
def Parts.VerdictOrder : Prop :=
  ∀ (b : Issue) (pre : Mach),
    (∀ r, b.priv = some r → b.finish pre = (pre.trapped r).tick) ∧
    (∀ h, b.priv = none → b.stall = some h → pre.isSec = true ∨ (∀ w, h ≠ .waiting w) ∧ h ≠ .full → b.finish pre = (pre.stalled h).tick) ∧
    (∀ h, b.priv = none → b.stall = some h → pre.isSec = false → (∃ w, h = .waiting w) ∨ h = .full →
      b.finish pre = (pre.stalled h).tick.atWaypoint) ∧
    (∀ r, b.priv = none → b.stall = none → b.trap = some r → b.finish pre = (pre.trapped r).tick) ∧
    (b.priv = none → b.stall = none → b.trap = none → b.freeze = true →
      let m := b.finish pre
      m.thr0 = pre.thr0 ∧ m.thr1 = pre.thr1 ∧ m.cur = pre.cur ∧ m.core.frozen = true ∧ m.core.cyc = pre.core.cyc ∧ m.core.l1 = pre.core.l1 ∧
        m.dev.mem = pre.dev.mem ∧ m.dev.acyc = pre.dev.acyc + 1) ∧
    (b.priv = none → b.stall = none → b.trap = none → b.freeze = false →
      let c := b.commit
      b.finish pre = if c.isSec then b.breakAfter (c.modT Thr.doRestart).tick
        else if b.wayp then (b.breakAfter c.tick).atWaypoint else b.breakAfter c.tick)

/-- Slot instructions issue as whole bundles: standing alone, a slot instruction is the bundle that it alone makes, from its checks to its boundary
(R66, R73). -/
def Parts.AloneIsABundle : Prop :=
  ∀ (s : State) (i : Instr) (id : Nat) (g : Grd) (src : Src), i.parts = some (id, g, src) → s.issue = none →
    ∃ b, exec i (s.inBundle (s.m.start)) = .next (s.inBundle b) ∧ exec i s = .next { s with m := b.finish s.m }

/-- A step is whole: it leaves no bundle half done, and takes at most the first of the actions from outside that wait (chapter 95). -/
def Parts.StepsAreWhole : Prop :=
  ∀ s t : State, s.issue = none → step s = .next t → t.issue = none ∧ t.inputs = s.inputs.tail

/-- A bundle comes to one verdict, of the class and the slot that R337 and R338 give, and neither a bundle nor a step is left half done. The third
part is about `exec` of a slot instruction outside a bundle, which is the model's convention (log entry 23). (R66, R73, R337, R338) -/
def Obligations.BundlesAreWhole : Prop :=
  Parts.LowestSlotReports ∧ Parts.VerdictOrder ∧ Parts.AloneIsABundle ∧ Parts.StepsAreWhole

/-! ### Moves (R73–R79, R119, R123, R275, R382) -/

/-- A move into a scalar register, a predicate or a scalar unit's operand latch, from any source that has a value: the register takes 64 bits, of
a vector its lane 0 zero-extended; a predicate takes whether they are not zero, and p0 ignores them; of a read-only special register the write is
ignored. Nothing else of the bundle changes but that a spool port it read has advanced (R74, R75, R78). -/
def Parts.MoveToScalarPlaces : Prop :=
  ∀ (s : State) (b : Issue) (g : Grd) (src : Src) (mask : BitVec 64) (v : Val), Fires s b g src mask v →
    let c := b.popSpool src
    let x : Word := match v with | .sc w => w | .vec u => (u.lanes.lane 0).setWidth 64
    (∀ n : Fin 64, exec (.move g src (.s n)) s =
      .next (s.inBundle ({ c.modT (fun t => { t with s := setNth t.s n.val x }) with wroteS63 := c.wroteS63 || n.val = 63 }))) ∧
    (exec (.move g src (.p 0)) s = .next (s.inBundle c)) ∧
    (∀ n : Fin 16, n ≠ 0 → exec (.move g src (.p n)) s =
      .next (s.inBundle (c.modT fun t => { t with p := setNth t.p n.val (x ≠ 0) }))) ∧
    (∀ k, exec (.move g src (.ro k)) s = .next (s.inBundle c)) ∧
    (∀ (u : FU) (j : Fin 3), u.scalar = true → exec (.move g src (.opnd u j)) s =
      .next (s.inBundle ((c.modSt fun y => { y with sl := setNth y.sl u.num (setNth (nth y.sl u.num) j.val x) }).setLsrc u j.val src mask)))

/-- A vector move in every lane: the vector register, bridge or latch takes lanes, map and tangents of the source (R75, R119); of a scalar source its low
32 bits in every lane, with no map and no tangents (R75, R116, R123). -/
def Parts.MoveWholeVectors : Prop :=
  ∀ (s : State) (b : Issue) (g : Grd) (src : Src) (v : Val), Fires s b g src allLanes v →
    let c := b.popSpool src
    let x : VVal := match v with | .sc w => ⟨Vec.splat (w.setWidth 32), MapD.none, [], true⟩ | .vec u => u
    let r : VVal := { x with fromS := false }
    (∀ n : Fin 32, exec (.move g src (.va n)) s = .next (s.inBundle ((c.modT fun t => { t with va := setNth t.va n.val r }).lost false))) ∧
    (∀ n : Fin 32, exec (.move g src (.vb n)) s = .next (s.inBundle ((c.modT fun t => { t with vb := setNth t.vb n.val r }).lost false))) ∧
    (exec (.move g src .xab) s = .next (s.inBundle ((c.modT fun t => { t with xab := r }).lost false))) ∧
    (exec (.move g src .xba) s = .next (s.inBundle ((c.modT fun t => { t with xba := r }).lost false))) ∧
    (∀ (u : FU) (j : Fin 3), u.scalar = false → exec (.move g src (.opnd u j)) s =
      .next (s.inBundle (((c.setVl u j.val x).lost false).setLsrc u j.val src allLanes)))

/-- A vector move under a lane guard that lets some lanes through, into a vector register, a bridge or a vector unit's latch: those lanes and their tangents come
from the source (a scalar one gives its low 32 bits to each), the others stay; the map stays when source and destination have the same map, and is OPAQUE otherwise,
which sets MAPLOST at the boundary (R70, R75, R119). -/
def Parts.MoveSomeLanes : Prop :=
  ∀ (s : State) (b : Issue) (g : Grd) (src : Src) (mask : BitVec 64) (v : Val), Fires s b g src mask v → mask ≠ allLanes →
    let c := b.popSpool src
    let x : VVal := match v with | .sc w => ⟨Vec.splat (w.setWidth 32), MapD.none, [], true⟩ | .vec u => u
    let mixed : VVal → VVal → Prop := fun old r =>
      (∀ i < 64, r.lanes.lane i = if mask.getLsbD i then x.lanes.lane i else old.lanes.lane i) ∧
      (∀ k, ∀ i < 64, r.tgl k i = if mask.getLsbD i then x.tgl k i else old.tgl k i) ∧
      r.map = if x.map.same old.map then x.map else MapD.opaque_
    let lost : VVal → Bool := fun old => !x.map.same old.map
    (∀ n : Fin 32, ∃ r, mixed (nth c.now.t.va n.val) r ∧ exec (.move g src (.va n)) s =
      .next (s.inBundle ((c.modT fun t => { t with va := setNth t.va n.val r }).lost (lost (nth c.now.t.va n.val))))) ∧
    (∀ n : Fin 32, ∃ r, mixed (nth c.now.t.vb n.val) r ∧ exec (.move g src (.vb n)) s =
      .next (s.inBundle ((c.modT fun t => { t with vb := setNth t.vb n.val r }).lost (lost (nth c.now.t.vb n.val))))) ∧
    (∃ r, mixed c.now.t.xab r ∧ exec (.move g src .xab) s = .next (s.inBundle ((c.modT fun t => { t with xab := r }).lost (lost c.now.t.xab)))) ∧
    (∃ r, mixed c.now.t.xba r ∧ exec (.move g src .xba) s = .next (s.inBundle ((c.modT fun t => { t with xba := r }).lost (lost c.now.t.xba)))) ∧
    (∀ (u : FU) (j : Fin 3), u.scalar = false → ∃ r, mixed (c.vl u j.val) r ∧ exec (.move g src (.opnd u j)) s =
      .next (s.inBundle (((c.setVl u j.val r).lost (lost (c.vl u j.val))).setLsrc u j.val src mask)))

/-- A move into a lane predicate: in the guard's lanes it takes whether the source's lane is not zero, or its value if the source is scalar, the others stay; qa0 and qb0 ignore the write
(R75). -/
def Parts.MoveToLanePredicates : Prop :=
  ∀ (s : State) (b : Issue) (g : Grd) (src : Src) (mask : BitVec 64) (v : Val), Fires s b g src mask v →
    let on : Nat → Bool := fun i => match v with | .sc w => decide (w ≠ 0) | .vec u => decide (u.lanes.lane i ≠ 0)
    (exec (.move g src (.qa 0)) s = .next (s.inBundle (b.popSpool src))) ∧
    (exec (.move g src (.qb 0)) s = .next (s.inBundle (b.popSpool src))) ∧
    ∀ n : Fin 16, n ≠ 0 →
      (∃ q : BitVec 64, exec (.move g src (.qa n)) s =
          .next (s.inBundle ((b.popSpool src).modT fun t => { t with qa := setNth t.qa n.val q })) ∧
        ∀ i < 64, q.getLsbD i = if mask.getLsbD i then on i else (nth (b.popSpool src).now.t.qa n.val).getLsbD i) ∧
      (∃ q : BitVec 64, exec (.move g src (.qb n)) s =
          .next (s.inBundle ((b.popSpool src).modT fun t => { t with qb := setNth t.qb n.val q })) ∧
        ∀ i < 64, q.getLsbD i = if mask.getLsbD i then on i else (nth (b.popSpool src).now.t.qb n.val).getLsbD i)

/-- Plain moves: what the destination holds after one, and that nothing else of the bundle changes. That the partial-write rule R119 holds of latches
and bridges is the model's reading (log entry 26). (R70, R73, R74, R75, R78, R116, R119, R123) -/
def Obligations.RegisterMoves : Prop :=
  Parts.MoveToScalarPlaces ∧ Parts.MoveWholeVectors ∧ Parts.MoveSomeLanes ∧ Parts.MoveToLanePredicates

/-- The writable special registers: TSCALE acts on matrix triggers 4 A-cycles later; mpc from the next bundle; a 1 written to a STAT bit clears it at
the boundary; ERRINJ_ADDR keeps 48 bits and ERRINJ_CTL its LEVEL and KIND, with FIRED clear and armed as written unless LEVEL or KIND is
reserved, both by a privileged thread only (R78, R79, R382, R383). -/
def Obligations.MoveToSpecialRegisters : Prop :=
  ∀ (s : State) (b : Issue) (g : Grd) (src : Src) (mask : BitVec 64) (v : Val), Fires s b g src mask v →
    let c := b.popSpool src
    exec (.writeTscale g src) s =
      .next (s.inBundle (c.modT fun t => { t with tscaleq := t.tscaleq ++ [(t.time + 4, v.word.setWidth 32)] })) ∧
    exec (.writeMpc g src) s = .next (s.inBundle (c.modSt fun x => { x with mpc := v.word })) ∧
    exec (.writeStat g src) s = .next (s.inBundle ({ c with clrS := c.clrS ||| (v.word.setWidth 32 &&& 15#32) })) ∧
    (s.m.t.priv = true → exec (.move g src .errinjAddr) s =
      .next (s.inBundle (c.modC fun k => { k with injAddr := BitVec.ofNat 64 (v.word.toNat % 2 ^ 48) }))) ∧
    (s.m.t.priv = true → ∃ x : BitVec 32,
      exec (.writeErrinjCtl g src) s = .next (s.inBundle (c.modC fun k => { k with injCtl := x })) ∧
      bitsOf x.toNat 11 8 = bitsOf v.word.toNat 11 8 ∧ bitsOf x.toNat 1 0 = bitsOf v.word.toNat 1 0 ∧
      x.getLsbD 30 = false ∧
      x.getLsbD 31 = (v.word.getLsbD 31 && decide (bitsOf v.word.toNat 11 8 ≤ 4) && decide (bitsOf v.word.toNat 1 0 ≠ 3)))

/-- Reading a spool port: the slot that RPOS names, 256 bytes of the ring in the scratchpad, as 64 lanes; a read spool's vector has the map of the
winder's pattern at that position, and goes wherever a move from that source would; the spool advances by one, once in a bundle however many moves read it
(R73, R239, R275). -/
def Parts.SpoolReadTakesTheSlot : Prop :=
  ∀ (s : State) (b : Issue) (g : Grd) (sp : Fin 16) (n : Fin 32),
    s.issue = some b → guardMask s.m b.isWait g = allLanes →
    let t := s.m.t
    let x := nth t.spools sp.val
    let off := x.slotOff x.rpos
    x.bound = true → (x.handle = true ∨ x.rpos.toNat < x.total) → x.wpos ≠ x.rpos →
    (s.m.probeSpad (unitsOf off 256 16)).t.spadPoisoned off 256 = false →
    let v : VVal := ⟨Vec.build fun i => BitVec.ofNat 32 (Mem.num t.spad (off + 4 * i) 4),
      if !x.handle && !x.dir then x.mapOf x.rpos.toNat else MapD.none, [], false⟩
    s.m.read (.spool sp) = .ok (.vec v) ∧ (∀ d, exec (.spoolRead g sp d) s = exec (.move g (.spool sp) d) s) ∧
    exec (.spoolRead g sp (.va n)) s =
      .next (s.inBundle (((b.popSpool (.spool sp)).modT fun t => { t with va := setNth t.va n.val v }).lost false)) ∧
    (b.popped.contains sp = true → b.popSpool (.spool sp) = b) ∧
    (b.popped.contains sp = false →
      (nth (b.popSpool (.spool sp)).now.t.spools sp.val) = { nth b.now.t.spools sp.val with rpos := (nth b.now.t.spools sp.val).rpos + 1 })

/-- Writing a spool port: the guard's lanes, and zero bits for the others, go to the slot WPOS mod NSLOT of the ring in the scratchpad; the spool
advances by one, once in a bundle (R70, R74, R275). -/
def Parts.SpoolWriteFillsTheSlot : Prop :=
  ∀ (s : State) (b : Issue) (g : Grd) (src : Src) (mask : BitVec 64) (v : Val) (sp : Fin 16), Fires s b g src mask v →
    let x := nth s.m.t.spools sp.val
    let off := x.slotOff x.wpos
    x.bound = true → (x.handle = true ∨ x.wpos.toNat < x.total) → x.filled < x.nslot →
    ∃ b', exec (.spoolWrite g src sp) s = .next (s.inBundle b') ∧
      (∀ i < 64, Mem.num b'.now.t.spad (off + 4 * i) 4 = if mask.getLsbD i then (v.vval.lanes.lane i).toNat else 0) ∧
      (∀ a, a < off ∨ off + 256 ≤ a → Mem.read b'.now.t.spad a = Mem.read b.now.t.spad a) ∧
      (src ≠ .spool sp → nth b'.now.t.spools sp.val = { nth b.now.t.spools sp.val with
        wpos := (nth b.now.t.spools sp.val).wpos + if b.pushed.contains sp then 0 else 1 }) ∧
      b'.now.t.s = b.now.t.s ∧ b'.now.t.va = b.now.t.va ∧ b'.now.t.flags = b.now.t.flags ∧ b'.now.dev.mem = b.now.dev.mem

/-- The stalls and traps of a spool port: OPERAND where the spool is unbound, SPOOLEND beyond a read or write spool's pattern, and the whole bundle
waits at an empty ring to read and a full ring to write (R239, R275). -/
def Parts.SpoolPortsTrapAndWait : Prop :=
  ∀ (s : State) (b : Issue) (g : Grd) (src : Src) (mask : BitVec 64) (v : Val) (sp : Fin 16) (d : Dst), Fires s b g src mask v →
    let x := nth s.m.t.spools sp.val
    (x.bound = false → s.m.t.priv = true ∨ d ≠ .errinjAddr → exec (.spoolRead g sp d) s = .next (s.inBundle (b.trapAt g.slot.val 0x06))) ∧
    (x.bound = false → exec (.spoolWrite g src sp) s = .next (s.inBundle ((b.popSpool src).trapAt g.slot.val 0x06))) ∧
    (x.bound = true → x.handle = false → x.total ≤ x.rpos.toNat → s.m.t.priv = true ∨ d ≠ .errinjAddr →
      exec (.spoolRead g sp d) s = .next (s.inBundle (b.trapAt g.slot.val 0x12))) ∧
    (x.bound = true → x.handle = false → x.total ≤ x.wpos.toNat →
      exec (.spoolWrite g src sp) s = .next (s.inBundle ((b.popSpool src).trapAt g.slot.val 0x12))) ∧
    (x.bound = true → x.handle = true ∨ x.rpos.toNat < x.total → x.wpos = x.rpos → s.m.t.priv = true ∨ d ≠ .errinjAddr →
      exec (.spoolRead g sp d) s = .next (s.inBundle (b.stallBy .other))) ∧
    (x.bound = true → x.handle = true ∨ x.wpos.toNat < x.total → x.nslot ≤ x.filled →
      exec (.spoolWrite g src sp) s = .next (s.inBundle ((b.popSpool src).stallBy .other)))

/-- Reading and writing a spool port. That a write port beyond its pattern traps is the model's reading (log entry 62). (R70, R73, R74, R239, R275) -/
def Obligations.SpoolPorts : Prop :=
  Parts.SpoolReadTakesTheSlot ∧ Parts.SpoolWriteFillsTheSlot ∧ Parts.SpoolPortsTrapAndWait

/-! ### Scalar ALUs (R205, R206, Table 9-8) -/

/-- Every scalar ALU operation delivers the result of Table 9-8 to its unit's port, `sa0` in slot 1 and `sa1` in the other, at i + LAT[0], or at
i + LAT[1] for `mul` and `mulh`; it sets no status and changes nothing else. `a`, `b` and `c` are the operands o1 to o3, the last of them
the trigger's value. Latencies are this generation's (R177, R178, R205). -/
def Obligations.ScalarAluResults : Prop :=
  ∀ (s : State) (b : Issue) (g : Grd) (src : Src) (mask : BitVec 64) (v : Val), Fires s b g src mask v →
    let u : FU := if g.slot = 1 then .sa0 else .sa1
    let p : SPort := if g.slot = 1 then .sa0r else .sa1r
    let amt : Word → Nat := fun x => x.toNat % 64
    ∀ r ∈ ([ (.add g src, 2, 0, fun a b _ => a + b), (.sub g src, 2, 0, fun a b _ => a - b), (.mul g src, 2, 1, fun a b _ => a * b),
        (.mulhI64 g src, 2, 1, fun a b _ => (a.signExtend 128 * b.signExtend 128).extractLsb' 64 64),
        (.mulhN64 g src, 2, 1, fun a b _ => (a.setWidth 128 * b.setWidth 128).extractLsb' 64 64),
        (.and g src, 2, 0, fun a b _ => a &&& b), (.or g src, 2, 0, fun a b _ => a ||| b),
        (.xor g src, 2, 0, fun a b _ => a ^^^ b), (.andn g src, 2, 0, fun a b _ => a &&& ~~~b),
        (.shl g src, 2, 0, fun a b _ => a <<< amt b), (.shrN64 g src, 2, 0, fun a b _ => a >>> amt b),
        (.shrI64 g src, 2, 0, fun a b _ => a.sshiftRight (amt b)),
        (.rotl g src, 2, 0, fun a b _ => (a <<< amt b) ||| (a >>> (64 - amt b))),
        (.minI64 g src, 2, 0, fun a b _ => if a.toInt < b.toInt then a else b), (.minN64 g src, 2, 0, fun a b _ => if a.toNat < b.toNat then a else b),
        (.maxI64 g src, 2, 0, fun a b _ => if a.toInt < b.toInt then b else a), (.maxN64 g src, 2, 0, fun a b _ => if a.toNat < b.toNat then b else a),
        (.cmpeq g src, 2, 0, fun a b _ => if a = b then 1 else 0),
        (.cmpltI64 g src, 2, 0, fun a b _ => if a.toInt < b.toInt then 1 else 0), (.cmpltN64 g src, 2, 0, fun a b _ => if a.toNat < b.toNat then 1 else 0),
        (.cmpleI64 g src, 2, 0, fun a b _ => if a.toInt ≤ b.toInt then 1 else 0), (.cmpleN64 g src, 2, 0, fun a b _ => if a.toNat ≤ b.toNat then 1 else 0),
        (.sel g src, 3, 0, fun a b c => if c ≠ 0 then a else b),
        (.clz g src, 1, 0, fun a _ _ => a.clz), (.ctz g src, 1, 0, fun a _ _ => a.ctz),
        (.popc g src, 1, 0, fun a _ _ => BitVec.ofNat 64 ((List.range 64).countP fun i => a.getLsbD i)),
        (.sextI8 g src, 1, 0, fun a _ _ => (a.setWidth 8).signExtend 64), (.sextI16 g src, 1, 0, fun a _ _ => (a.setWidth 16).signExtend 64),
        (.sextI32 g src, 1, 0, fun a _ _ => (a.setWidth 32).signExtend 64),
        (.zextN8 g src, 1, 0, fun a _ _ => (a.setWidth 8).setWidth 64), (.zextN16 g src, 1, 0, fun a _ _ => (a.setWidth 16).setWidth 64),
        (.zextN32 g src, 1, 0, fun a _ _ => (a.setWidth 32).setWidth 64) ] : List (Instr × Nat × Nat × (Word → Word → Word → Word))),
      let c := b.latched src u r.2.1 v
      let t := b.now.t
      exec r.1 s = .next (s.inBundle (c.modSt fun x => { x with pend := x.pend ++ [⟨.inl p, t.time + (nth t.kern.lat r.2.2.1).toNat,
        t.time + (if r.2.2.1 = 0 then 1 else 3), allLanes, r.2.2.2 (b.arg u r.2.1 0 v) (b.arg u r.2.1 1 v) (b.arg u r.2.1 2 v), VVal.zero⟩] }))

/-- The bitfield operations: `bfx` extracts len bits from pos, bits at and above 64 reading as 0 and a len above 64 acting as 64; `bfi` inserts the low
bits of b in their place, bits beyond bit 63 being dropped (R206). -/
def Obligations.BitfieldOperations : Prop :=
  ∀ (s : State) (b : Issue) (g : Grd) (src : Src) (mask : BitVec 64) (v : Val), Fires s b g src mask v →
    let u : FU := if g.slot = 1 then .sa0 else .sa1
    let p : SPort := if g.slot = 1 then .sa0r else .sa1r
    let t := b.now.t
    let pos := v.word.toNat % 64
    let len := min (v.word.toNat / 2 ^ 8 % 2 ^ 7) 64
    let put : Issue → Word → Issue := fun c r => c.modSt fun x => { x with pend := x.pend ++
      [⟨.inl p, t.time + (nth t.kern.lat 0).toNat, t.time + 1, allLanes, r, VVal.zero⟩] }
    (∃ r, exec (.bfx g src) s = .next (s.inBundle (put (b.latched src u 2 v) r)) ∧
      ∀ i < 64, r.getLsbD i = (decide (i < len) && (b.sl u 0).getLsbD (pos + i))) ∧
    (∃ r, exec (.bfi g src) s = .next (s.inBundle (put (b.latched src u 3 v) r)) ∧
      ∀ i < 64, r.getLsbD i = if pos ≤ i ∧ i < pos + len then (b.sl u 1).getLsbD (i - pos) else (b.sl u 0).getLsbD i)

/-! ### Branches, calls and loops (R34, R180–R186) -/

/-- A taken branch goes to its target after a gap of two A-cycles, `br` and `call` to the value, `brx` and `callx` to PC plus the value, `brc` only when o1 is
not 0; a call writes the link, loop depth in bits [58:56] and PC + 1, to s63 unless a move of the bundle wrote s63, whose value remains (R74, R180, R181,
R183). -/
def Parts.BranchesAndCalls : Prop :=
  ∀ (s : State) (b : Issue) (g : Grd) (src : Src) (mask : BitVec 64) (v : Val), Fires s b g src mask v →
    let c := b.latched src .seq 1 v
    let pc := s.m.st.pc
    let link : Word := BitVec.ofNat 64 (s.m.st.loops.length * 2 ^ 56 + (pc.toNat + 1) % 2 ^ 56)
    let linked : Issue := if c.wroteS63 then c else c.modT fun t => { t with s := t.s.set 63 link }
    exec (.br g src) s = .next (s.inBundle ({ c with jump := some (v.word, 2) })) ∧
    exec (.brx g src) s = .next (s.inBundle ({ c with jump := some (pc + v.word, 2) })) ∧
    exec (.call g src) s = .next (s.inBundle ({ linked with jump := some (v.word, 2) })) ∧
    exec (.callx g src) s = .next (s.inBundle ({ linked with jump := some (pc + v.word, 2) })) ∧
    exec (.brc g src) s = .next (s.inBundle (let c := b.latched src .seq 2 v
      if b.sl .seq 0 = 0 then c else { c with jump := some (v.word, 2) }))

/-- `ret` pops the loop levels above the depth in bits [58:56] of the link and goes to bits [55:0] after a gap of two A-cycles; with a depth above the
stack's it traps with cause RETDEPTH (R183). -/
def Parts.ReturnPopsLevels : Prop :=
  ∀ (s : State) (b : Issue) (g : Grd) (src : Src) (mask : BitVec 64) (v : Val), Fires s b g src mask v →
    let c := b.latched src .seq 1 v
    let d := v.word.toNat / 2 ^ 56 % 8
    (d ≤ s.m.st.loops.length → exec (.ret g src) s = .next (s.inBundle ({ c.modSt (fun x => { x with loops := x.loops.take d }) with jump := some (BitVec.ofNat 64 (v.word.toNat % 2 ^ 56), 2) }))) ∧
    (s.m.st.loops.length < d → exec (.ret g src) s = .next (s.inBundle (c.trapAt g.slot.val 0x0E)))

/-- `loop` with a count of 0 goes on after the end bundle; with another count it pushes a level with index 0, the count, start PC + 1 and the end; an end before
PC + 1 or outside the section traps with cause LOOPMIS, and a seventh level with cause LOOPOVF (R34, R67, R184). -/
def Parts.LoopOpensALevel : Prop :=
  ∀ (s : State) (b : Issue) (g : Grd) (src : Src) (mask : BitVec 64) (v : Val), Fires s b g src mask v →
    let c := b.latched src .seq 2 v
    let st := s.m.st
    let n : BitVec 32 := (b.sl .seq 0).setWidth 32
    let inside := st.pc.toNat + 1 ≤ v.word.toNat ∧ s.m.t.inSection s.m.isSec v.word = true
    (¬inside → exec (.loop g src) s = .next (s.inBundle (c.trapAt g.slot.val 0x0D))) ∧
    (inside → n = 0 → exec (.loop g src) s = .next (s.inBundle ({ c with jump := some (v.word + 1, 2) }))) ∧
    (inside → n ≠ 0 → 6 ≤ st.loops.length → exec (.loop g src) s = .next (s.inBundle (c.trapAt g.slot.val 0x0C))) ∧
    (inside → n ≠ 0 → st.loops.length < 6 → exec (.loop g src) s = .next (s.inBundle (c.modSt fun x => { x with loops := x.loops ++ [⟨0, n, st.pc + 1, v.word⟩] })))

/-- Where control goes, what `call` links, and which level `loop` opens and `ret` pops. (R34, R67, R74, R180, R181, R183, R184) -/
def Obligations.ControlTransfers : Prop :=
  Parts.BranchesAndCalls ∧ Parts.ReturnPopsLevels ∧ Parts.LoopOpensALevel

/-- `lend` closes an iteration: it traps with LOOPMIS unless its level is the innermost and the bundle is the level's end; while IDX + 1 is below CNT it counts
IDX and goes back to the start without a gap, else it pops the level; the boundary after it is a waypoint, whether or not it branched; cancelled by its guard it does
nothing (R185). -/
def Obligations.LendClosesAnIteration : Prop :=
  (∀ (s : State) (b : Issue) (g : Grd) (src : Src), s.issue = some b → guardMask s.m b.isWait g = 0 → exec (.lend g src) s = .next s) ∧
  ∀ (s : State) (b : Issue) (g : Grd) (src : Src) (mask : BitVec 64) (v : Val), Fires s b g src mask v →
    let c := b.latched src .seq 1 v
    let st := s.m.st
    (st.loops = [] → exec (.lend g src) s = .next (s.inBundle (c.trapAt g.slot.val 0x0D))) ∧
    ∀ l : Lvl, st.loops.getLast? = some l →
      (v.word.toNat + 1 ≠ st.loops.length ∨ st.pc ≠ l.stop → exec (.lend g src) s = .next (s.inBundle (c.trapAt g.slot.val 0x0D))) ∧
      (v.word.toNat + 1 = st.loops.length → st.pc = l.stop → l.idx.toNat + 1 < l.cnt.toNat → exec (.lend g src) s = .next (s.inBundle ({ c.modSt (fun x => { x with loops := x.loops.dropLast ++ [{ l with idx := l.idx + 1 }] }) with wayp := true, jump := some (l.start, 0) }))) ∧
      (v.word.toNat + 1 = st.loops.length → st.pc = l.stop → l.cnt.toNat ≤ l.idx.toNat + 1 → exec (.lend g src) s = .next (s.inBundle ({ c.modSt (fun x => { x with loops := x.loops.dropLast }) with wayp := true })))

/-- `lbrk` pops the levels down to L and goes on after END[L], after a gap of two A-cycles; an L at or above the depth traps with LOOPMIS; it makes no waypoint
(R186). -/
def Obligations.LbrkLeavesLoops : Prop :=
  ∀ (s : State) (b : Issue) (g : Grd) (src : Src) (mask : BitVec 64) (v : Val), Fires s b g src mask v →
    let c := b.latched src .seq 1 v
    let st := s.m.st
    let n := v.word.toNat
    (st.loops.length ≤ n → exec (.lbrk g src) s = .next (s.inBundle (c.trapAt g.slot.val 0x0D))) ∧
    (∀ l : Lvl, st.loops[n]? = some l → exec (.lbrk g src) s = .next (s.inBundle ({ c.modSt (fun x => { x with loops := x.loops.take n }) with jump := some (l.stop + 1, 2) })))

/-! ### The boundary after a bundle; flags and waits (R108, R180, R181, R187–R191) -/

/-- The boundary after a bundle that neither halts nor aborts: the stream goes to the branch's target, not before its gap has passed, else to PC + 1 at i + 1; a
flag that was set stays set whatever cleared it in the same A-cycle, a cleared one goes, and every other one stays; of STAT likewise, with what the events of
the A-cycle set besides; and no register, latch or
byte of memory changes (R108, R180, R181, R188). That a target with bit 63 set is held with bit 62 in its place is the model's choice (log entry 31). -/
def Obligations.BoundaryAfterABundle : Prop :=
  ∀ b : Issue, b.halt = none → b.abort = none →
    let m := b.commit
    (m.st.pc = match b.jump with
      | some (pc, _) => if pc.getLsbD 63 then (pc &&& 0x7FFFFFFFFFFFFFFF) ||| 0x4000000000000000 else pc
      | none => b.now.st.pc + 1) ∧
    (m.st.gap = match b.jump with | some (_, gap) => b.now.t.time + 1 + gap | none => 0) ∧
    (∀ i < 32, m.t.flags.getLsbD i = (b.setF.getLsbD i || (b.now.t.flags.getLsbD i && !b.clrF.getLsbD i))) ∧
    (∀ i < 32, m.t.stat.getLsbD i = (b.setS.getLsbD i || b.now.t.statNow.getLsbD i || (b.now.t.stat.getLsbD i && !b.clrS.getLsbD i))) ∧
    m.t.s = b.now.t.s ∧ m.t.p = b.now.t.p ∧ m.t.va = b.now.t.va ∧ m.t.vb = b.now.t.vb ∧ m.t.ot = b.now.t.ot ∧ m.t.ct = b.now.t.ct ∧
    m.st.sl = b.now.st.sl ∧ m.st.vl = b.now.st.vl ∧ m.st.loops = b.now.st.loops ∧ m.t.spad = b.now.t.spad ∧ m.dev = b.now.dev

/-- `fset` sets and `fclr` clears, at the boundary, every flag whose bit of the value is 1 (R187). -/
def Parts.FlagOperations : Prop :=
  ∀ (s : State) (b : Issue) (g : Grd) (src : Src) (mask : BitVec 64) (v : Val), Fires s b g src mask v →
    let c := b.latched src .seq 1 v
    exec (.fset g src) s = .next (s.inBundle ({ c with setF := c.setF ||| v.word.setWidth 32 })) ∧
    exec (.fclr g src) s = .next (s.inBundle ({ c with clrF := c.clrF ||| v.word.setWidth 32 }))

/-- A wait bundle: with ANY clear it is ready when every flag guard holds, with ANY set when one holds or there is none; ready, it clears each flag that a holding,
not inverted guard without KEEP names; not ready, it stalls whole (R189, R190). A consumption is an acquiring event (Table 8-4): behind reads of the thread that
have not been bound it takes its place in the outbound order, else its later reads use no stale copy; nothing consumed, nothing else changes. -/
def Obligations.WaitReadyOrStalls : Prop :=
  ∀ (s : State) (b : Issue) (g : Grd) (src : Src) (mask : BitVec 64) (v : Val), Fires s b g src mask v →
    let c := b.latched src .seq 1 v
    let f := s.m.t.flags
    let holds : Nat × Nat × Bool → Prop := fun e => f.getLsbD e.2.1 ≠ e.2.2
    let ready : Prop := if v.word.getLsbD 8 then b.flagG = [] ∨ ∃ e ∈ b.flagG, holds e else ∀ e ∈ b.flagG, holds e
    (¬ready → exec (.wait g src) s = .next (s.inBundle (c.stallBy (.waiting [])))) ∧
    let takes : Nat → Bool := fun i => b.flagG.any fun e => e.2.1 = i && f.getLsbD i && !e.2.2 && !v.word.getLsbD (e.1 - 1)
    let t := s.m.t
    let unbound : Prop := (∃ h ∈ t.hops, h.time < t.time ∧ h.op.writeOnly = false) ∨ ∃ l ∈ t.land, l.issued < t.time ∧ l.data = none
    ((∀ e ∈ b.flagG, e.2.1 < 32) → ready → ∃ b' : Issue, exec (.wait g src) s = .next (s.inBundle b') ∧
      (∀ i < 32, b'.clrF.getLsbD i = (c.clrF.getLsbD i || takes i)) ∧
      ((∀ i < 32, takes i = false) → b'.now = c.now) ∧
      ((∃ i < 32, takes i = true) → ¬unbound → b'.now = (c.modD fun d => d.shun t.ref s.m.core.die).now) ∧
      ((∃ i < 32, takes i = true) → unbound → b'.now = (c.hop 0 .consume).now) ∧
      b'.trap = c.trap ∧ b'.priv = c.priv ∧ b'.stall = c.stall ∧ b'.freeze = c.freeze ∧ b'.setF = c.setF ∧ b'.setS = c.setS ∧ b'.clrS = c.clrS ∧
      b'.jump = c.jump)

/-! ### Halt, trap, prefix, FMT, system operations (R194–R197, R204, R211) -/

/-- `trap` traps at issue with cause SWTRAP and the code v[15:0] (R195). -/
def Parts.TrapTraps : Prop :=
  ∀ (s : State) (b : Issue) (g : Grd) (src : Src) (mask : BitVec 64) (v : Val), Fires s b g src mask v → b.trap = none →
    exec (.trap g src) s = .next (s.inBundle ({ b.latched src .seq 1 v with trap := some ⟨g.slot.val, 0x13, 0, false, v.word.toNat % 2 ^ 16⟩ }))

/-- `halt` ends the stream at the boundary with exit code v[7:0]; `dual` opens a window of n bundles, does nothing with T = 0 and traps with OPERAND for any n but
1 to 64; `fmtw` writes FMT, reserved fields zero, for operations 4 A-cycles later; `pcrd` delivers the PC with bit 63 for the secondary stream; `brkp` notes its
tag; `crabort` unwinds an open region with its id, else traps with CRMIS (R194, R196, R197, R204, R211). -/
def Parts.SequencerOperations : Prop :=
  ∀ (s : State) (b : Issue) (g : Grd) (src : Src) (mask : BitVec 64) (v : Val), Fires s b g src mask v →
    let c := b.latched src .seq 1 v
    let k := b.latched src .sys 0 v
    let t := b.now.t
    let n := v.word.toNat
    exec (.halt g src) s = .next (s.inBundle ({ c with halt := some (v.word.setWidth 8) })) ∧
    (1 ≤ n → n ≤ 64 → s.m.t.T ≠ 0 → exec (.dual g src) s = .next (s.inBundle ({ c with dualSet := some n }))) ∧
    (1 ≤ n → n ≤ 64 → s.m.t.T = 0 → exec (.dual g src) s = .next (s.inBundle c)) ∧
    (n = 0 ∨ 64 < n → exec (.dual g src) s = .next (s.inBundle (c.trapAt g.slot.val 0x06))) ∧
    exec (.fmtw g src) s = .next (s.inBundle (c.modT fun t => { t with fmtq := t.fmtq ++ [(t.time + 4, v.word &&& 0xFFFF000000EF01FF)] })) ∧
    exec (.pcrd g src) s = .next (s.inBundle (k.modSt fun x => { x with pend := x.pend ++
      [⟨.inl .sysr, t.time + (nth t.kern.lat 0).toNat, t.time + 1, allLanes,
        BitVec.ofNat 64 (s.m.st.pc.toNat % 2 ^ 56 + if s.m.isSec then 2 ^ 63 else 0), VVal.zero⟩] })) ∧
    exec (.brkp g src) s = .next (s.inBundle ({ b.latched src .sys 1 v with brk := some (v.word.setWidth 16) })) ∧
    ((∃ r ∈ s.m.t.regions, r.id = v.word.setWidth 16) → exec (.crabort g src) s =
      .next (s.inBundle ({ c with abort := some (n % 2 ^ 16) }))) ∧
    ((∀ r ∈ s.m.t.regions, r.id ≠ v.word.setWidth 16) → exec (.crabort g src) s = .next (s.inBundle (c.trapAt g.slot.val 0x11)))

/-- `rdsr` delivers the special register of its id as it stood before the bundle, zero-extended, FMT as it is in force and TSCALE as last written (log entry 30); ERRINJ_ADDR and ERRINJ_CTL by a privileged thread only, else it traps
with PRIV; ids 0x0CC to 0x0FF trap with UNASSIGNED (R78, R211). That any other id traps with OPERAND is the model's choice (log entry 29). -/
def Parts.RdsrDelivers : Prop :=
  ∀ (s : State) (b : Issue) (g : Grd) (src : Src) (mask : BitVec 64) (v : Val), Fires s b g src mask v →
    let c := b.latched src .sys 1 v
    let m := s.m
    let t := b.now.t
    let put : Word → Issue := fun w => c.modSt fun x => { x with pend := x.pend ++
      [⟨.inl .sysr, t.time + (nth t.kern.lat 0).toNat, t.time + 1, allLanes, w, VVal.zero⟩] }
    (∀ r ∈ ([(0x0C0, m.t.fmt),
        (0x0C1, (match m.t.tscaleq.getLast? with | some e => e.2 | none => m.t.tscale).setWidth 64), (0x0C2, m.t.seed),
        (0x0C3, m.t.nrc.setWidth 64), (0x0C4, m.st.mpc), (0x0C5, m.t.flags.setWidth 64), (0x0C6, m.t.stat.setWidth 64),
        (0x0C7, (nth m.core.poolb 0).setWidth 64), (0x0C8, (nth m.core.poolb 1).setWidth 64), (0x0C9, (nth m.core.poolb 2).setWidth 64)] :
        List (Nat × Word)), v.word.toNat = r.1 → exec (.rdsr g src) s = .next (s.inBundle (put r.2))) ∧
    (m.t.priv = true → v.word.toNat = 0x0CA → exec (.rdsr g src) s = .next (s.inBundle (put m.core.injAddr))) ∧
    (m.t.priv = true → v.word.toNat = 0x0CB → exec (.rdsr g src) s = .next (s.inBundle (put (m.core.injCtl.setWidth 64)))) ∧
    (m.t.priv = false → (v.word.toNat = 0x0CA ∨ v.word.toNat = 0x0CB) → exec (.rdsr g src) s =
      .next (s.inBundle (c.trapAt g.slot.val 0x05))) ∧
    (0x0CC ≤ v.word.toNat → v.word.toNat ≤ 0x0FF → exec (.rdsr g src) s =
      .next (s.inBundle (c.trapWith g.slot.val 0x01 v.word.toNat false 0))) ∧
    ((v.word.toNat < 0x0C0 ∨ 0x0FF < v.word.toNat) → exec (.rdsr g src) s = .next (s.inBundle (c.trapAt g.slot.val 0x06)))

/-- The secondary stream: `secgo` of the primary stream of a paired thread restarts a stopped secondary at its value at once, and one that runs after its current
bundle; `secstop` of either stream stops it, dropping a restart that waits; in a single-stream thread both trap with OPERAND, and so does `secgo` in the secondary.
That a waiting `secgo` is dropped by `secstop`, and how a target with bit 63 set is held, is the model's choice (log entry 31) (R200). -/
def Parts.SecondaryControl : Prop :=
  ∀ (s : State) (b : Issue) (g : Grd) (src : Src) (mask : BitVec 64) (v : Val), Fires s b g src mask v →
    let c := b.latched src .seq 1 v
    let k := b.latched src .seq 0 v
    let target : Word := if v.word.getLsbD 63 then (v.word &&& 0x7FFFFFFFFFFFFFFF) ||| 0x4000000000000000 else v.word
    (s.m.t.paired = true → s.m.isSec = false → exec (.secgo g src) s = .next (s.inBundle (c.modT fun t =>
      if t.sec.pc.getLsbD 63 then { t with sec := { t.sec with pc := target, gap := 0, hold := .none, tau := none } }
      else { t with restart := some v.word }))) ∧
    (s.m.t.paired = true → exec (.secstop g src) s = .next (s.inBundle (k.modT fun t =>
      { t with restart := none, sec := { t.sec with pc := t.sec.pc ||| 0x8000000000000000, hold := .none, tau := none } }))) ∧
    ((s.m.t.paired = false ∨ s.m.isSec = true) → exec (.secgo g src) s = .next (s.inBundle (c.trapAt g.slot.val 0x06))) ∧
    (s.m.t.paired = false → exec (.secstop g src) s = .next (s.inBundle (k.trapAt g.slot.val 0x06)))

/-- Containment regions: `cropen` pushes its handler, id, stream, loop depth and the queue position after its own; a fifth region traps with CRDEPTH, a handler outside the section with
OPERAND; `crclose` pops the top region with its id once no command issued since is without its completion signals, waits whole while there is one, and traps with
CRMIS for another id or an empty stack (R204, R375). -/
def Parts.ContainmentRegions : Prop :=
  ∀ (s : State) (b : Issue) (g : Grd) (src : Src) (mask : BitVec 64) (v : Val), Fires s b g src mask v →
    let c := b.latched src .seq 2 v
    let k := b.latched src .seq 1 v
    let h := b.sl .seq 0
    let rs := s.m.t.regions
    (rs.length < 4 → s.m.t.inSection s.m.isSec h = true → exec (.cropen g src) s = .next (s.inBundle (c.modT fun t =>
      { t with seq := t.seq + 1, regions := ⟨h, v.word.setWidth 16, s.m.isSec, s.m.st.loops.length, t.seq + 1⟩ :: t.regions }))) ∧
    (4 ≤ rs.length → exec (.cropen g src) s = .next (s.inBundle (c.trapAt g.slot.val 0x10))) ∧
    (rs.length < 4 → s.m.t.inSection s.m.isSec h = false → exec (.cropen g src) s = .next (s.inBundle (c.trapAt g.slot.val 0x06))) ∧
    (∀ r rest, rs = r :: rest → r.id = v.word.setWidth 16 → s.m.cmdsSince r.pos = false → exec (.crclose g src) s =
      .next (s.inBundle (k.modT fun t => { t with regions := rest }))) ∧
    (∀ r rest, rs = r :: rest → r.id = v.word.setWidth 16 → s.m.cmdsSince r.pos = true → exec (.crclose g src) s =
      .next (s.inBundle (k.stallBy .other))) ∧
    (∀ r rest, rs = r :: rest → r.id ≠ v.word.setWidth 16 → exec (.crclose g src) s = .next (s.inBundle (k.trapAt g.slot.val 0x11))) ∧
    (rs = [] → exec (.crclose g src) s = .next (s.inBundle (k.trapAt g.slot.val 0x11)))

/-- Starting and stopping the secondary stream, and opening and closing containment regions. How a `secgo` meets a running stream is in part the
model's reading (log entry 31). (R200, R204, R339, R340, R375) -/
def Obligations.StreamsAndRegions : Prop :=
  Parts.SecondaryControl ∧ Parts.ContainmentRegions

/-! ### Operations that perform at home (R42, R192, R198–R203, R292–R306) -/

/-- The home atomics at issue: on an aligned address whose window entry grants reads and writes, with D at least 1 and room in the landing buffer for a value that
returns, the operation enters the thread's outbound order with its operand and, for `acas`, the old value of the destination register; its landing is due at i + D.
With NORET nothing lands, and `acas` with NORET traps with OPERAND (R292, R293). The order and scope are W's ORD and the effective scope of W's SCOPE. -/
def Parts.AtomicsEnterTheOrder : Prop :=
  ∀ (s : State) (b : Issue) (g : Grd) (src : Src) (mask : BitVec 64) (v : Val) (dva : Word), Fires s b g src mask v →
    let c := b.latched src .am 3 v
    let a := b.sl .am 0
    let w := b.sl .am 1
    let d := w.toNat % 2 ^ 12
    let dst := w.toNat / 2 ^ 12 % 64
    let low : Nat → Word → Word := fun n x => BitVec.ofNat 64 (x.toNat % 2 ^ (8 * n))
    ∀ r ∈ [(Instr.aaddI32 g src, AtomOp.addI, 4, true), (.aaddI64 g src, .addI, 8, false), (.aaddF32 g src, .addF32, 4, false),
        (.aaddBf16 g src, .addBf16, 4, false), (.aminI32 g src, .minI, 4, true), (.aminI64 g src, .minI, 8, false), (.aminN32 g src, .minN, 4, false),
        (.aminN64 g src, .minN, 8, false), (.amaxI32 g src, .maxI, 4, true), (.amaxI64 g src, .maxI, 8, false), (.amaxN32 g src, .maxN, 4, false),
        (.amaxN64 g src, .maxN, 8, false), (.aandN32 g src, .and, 4, false), (.aandN64 g src, .and, 8, false), (.aorN32 g src, .or, 4, false),
        (.aorN64 g src, .or, 8, false), (.axorN32 g src, .xor, 4, false), (.axorN64 g src, .xor, 8, false), (.aswpN32 g src, .swp, 4, false),
        (.aswpN64 g src, .swp, 8, false), (.acasN32 g src, .cas, 4, false), (.acasN64 g src, .cas, 8, false)],
      let op := HopOp.atom r.2.1 r.2.2.1 r.2.2.2 (low r.2.2.1 v.word) (low r.2.2.1 (nth s.m.t.s dst)) (w.toNat / 2 ^ 18 % 4)
        (s.m.effScope (w.toNat / 2 ^ 20 % 8))
      a.toNat % r.2.2.1 = 0 → s.m.t.win? a r.2.2.1 true true = some dva →
      (w.getLsbD 23 = false → d ≠ 0 → c.now.t.landings c.now.isSec < 16 → exec r.1 s = .next (s.inBundle
        ((c.modT fun t => { t with land := t.land ++
          [⟨.s (Fin.ofNat 64 dst), t.time + d, allLanes, .home, t.seq, t.time, c.now.isSec, none, none, c.now.dev.acyc, false, []⟩] }).hop dva op))) ∧
      (w.getLsbD 23 = true → r.2.1 ≠ .cas → exec r.1 s = .next (s.inBundle (c.hop dva op))) ∧
      (w.getLsbD 23 = true → r.2.1 = .cas → exec r.1 s = .next (s.inBundle (c.trapAt g.slot.val 0x06)))

/-- The other home operations at issue: each, on an object that is aligned and whose window entry grants reads and writes, with its counts in range, its scratchpad
buffer inside the pool and room for its landing, enters the thread's outbound order with the operands of its form: heaps, page allocator, milestones,
monitors, next-tile requests, launches, and the joins and leaves of skeins (R42, R192, R198, R199, R202, R203, R295–R306). -/
def Parts.HomeOperationsEnterTheOrder : Prop :=
  ∀ (s : State) (b : Issue) (g : Grd) (src : Src) (mask : BitVec 64) (v : Val) (dva : Word), Fires s b g src mask v →
    let c2 := b.latched src .am 2 v
    let c3 := b.latched src .am 3 v
    let a := b.sl .am 0
    let o := b.sl .am 1
    let x := v.word
    let f : Fin 32 := Fin.ofNat 32 (x.toNat % 32)
    let n13 := x.toNat % 2 ^ 13
    let n20 := x.toNat / 2 ^ 8 % 2 ^ 13
    let n12 := x.toNat / 2 ^ 6 % 2 ^ 7
    (a.toNat % 64 = 0 → 1 ≤ n13 → n13 ≤ 4096 → s.m.t.win? a (64 + 8 * n13) true true = some dva →
      exec (.hinit g src) s = .next (s.inBundle (c2.hop dva (.hinit n13)))) ∧
    (a.toNat % 64 = 0 → o.getLsbD 50 = false → s.m.t.win? a 64 true true = some dva →
      exec (.hoffer g src) s = .next (s.inBundle (c3.hop dva (.hoffer (x.setWidth 32) (o.setWidth 32))))) ∧
    (a.toNat % 64 = 0 → o.toNat % 16 = 0 → 1 ≤ n20 → n20 ≤ 4096 → o.toNat + 16 + 8 * n20 ≤ s.m.spadSize → s.m.t.win? a 64 true true = some dva →
      exec (.htake g src) s = .next (s.inBundle (c3.hop dva (.htake o.toNat f (x.getLsbD 5) (x.getLsbD 6) n20)))) ∧
    (a.toNat % 64 = 0 → o.toNat % 16 = 0 → 1 ≤ n12 → n12 ≤ 64 → o.toNat + 16 + 4 * n12 ≤ s.m.spadSize → s.m.t.win? a 64 true true = some dva →
      exec (.balloc g src) s = .next (s.inBundle (c3.hop dva (.balloc o.toNat f n12 (x.toNat / 2 ^ 13 % 2 ^ 7))))) ∧
    (a.toNat % 64 = 0 → o.toNat % 4 = 0 → 1 ≤ n12 → n12 ≤ 64 → o.toNat + 4 * n12 ≤ s.m.spadSize → s.m.t.win? a 64 true true = some dva →
      (s.m.probeSpad (unitsOf o.toNat (4 * n12) 16)).t.spadPoisoned o.toNat (4 * n12) = false →
      exec (.bfree g src) s = .next (s.inBundle (({ c3 with now := c3.now.probeSpad (unitsOf o.toNat (4 * n12) 16) } : Issue).hop dva
        (.bfree ((List.range n12).map fun i => Mem.num s.m.t.spad (o.toNat + 4 * i) 4) f (x.getLsbD 5))))) ∧
    (a.toNat % 16 = 0 → s.m.t.win? a 16 true true = some dva →
      exec (.msarm g src) s = .next (s.inBundle (c3.hop dva (.msarm (o.toNat % 2 ^ 40) (o.toNat / 2 ^ 40) (BitVec.ofNat 3 x.toNat)
        (s.m.effScope (x.toNat % 8)))))) ∧
    (a.toNat % 16 = 0 → s.m.t.win? a 16 true true = some dva → x.toNat % 2 ^ 24 ≠ 0 →
      exec (.msarv g src) s = .next (s.inBundle (c2.hop dva (.msarv (x.toNat % 2 ^ 24) (BitVec.ofNat 3 (x.toNat / 2 ^ 24))
        (s.m.effScope (x.toNat / 2 ^ 24 % 8)))))) ∧
    (a.toNat % 16 = 0 → s.m.t.win? a 16 true true = some dva →
      exec (.msbind g src) s = .next (s.inBundle (c2.hop dva (.msbind f (Fin.ofNat 32 (x.toNat / 2 ^ 8 % 32)) (x.getLsbD 13))))) ∧
    (let size := if x.getLsbD 8 then 8 else 4
     let p := b.sl .seq 0
     p.toNat % size = 0 → s.m.t.win? p size true false = some dva → exec (.waita g src) s = .next (s.inBundle ((b.latched src .seq 3 v).hop dva
        (.monitor f size (BitVec.ofNat 64 ((b.sl .seq 1).toNat % 2 ^ (8 * size))))))) ∧
    (let c := b.latched src .seq 1 v
     let t := c.now.t
     x.toNat % 16 = 0 → s.m.t.win? x 16 true true = some dva → t.wout < 4 → t.landings c.now.isSec < 16 →
      exec (.ntreq g src) s = .next (s.inBundle (((c.modT fun t => { t with land := t.land ++
        [⟨.w (Fin.ofNat 4 t.wrot), t.time + 48, allLanes, .home, t.seq, t.time, c.now.isSec, none, none, c.now.dev.acyc, false, []⟩] }).hop dva .ntreq).modT fun u =>
          { u with wrot := (t.wrot + 1) % 4, wout := t.wout + 1 }))) ∧
    (let c := b.latched src .seq 2 v
     let k := (b.sl .seq 0).toNat % 64
     let h := c.hop dva (.launch (if k < 32 then some (Fin.ofNat 32 k) else none) false)
     let hw := c.hop dva (.launch (if k < 32 then some (Fin.ofNat 32 k) else none) true)
     x.toNat % 64 = 0 → s.m.t.win? x 64 true false = some dva → c.now.launchFull = false →
      exec (.launch g src) s = .next (s.inBundle h) ∧ exec (.launchw g src) s = .next (s.inBundle (hw.modT fun t => { t with park := true, kids := t.kids + 1 }))) ∧
    (∀ i, let c := b.latched src .seq 2 v
     let me : Memb := ⟨BitVec.ofNat 32 (dva.toNat / 2 ^ 6), dva⟩
     x.toNat % 64 = 0 → s.m.t.win? x 64 true true = some dva → dva.toNat < 2 ^ 38 → c.now.t.memberAt dva = none → c.now.t.freeMember = some i →
      exec (.skjoin g src) s = .next (s.inBundle ((c.modT fun t => { t with skeins := setNth t.skeins i (some me) }).hop dva (.skjoin ((b.sl .seq 0).getLsbD 0))))) ∧
    (∀ i, let c := b.latched src .seq 1 v
     s.m.t.win? x 64 true true = some dva → c.now.t.memberAt dva = some i →
      exec (.skleave g src) s = .next (s.inBundle ((c.modT fun t => { t with skeins := setNth t.skeins i none }).hop dva .skleave)))

/-- An operation on an object traps whole, with cause ALIGN for an address that is not aligned and, aligned, with WINDOW where no window entry grants it
reads and writes (R148, R292, R295, R299, R303, R338), whatever the counts and buffers of its other operands; this names the atomics of 8 bytes and `hoffer` without a reply, `hinit`,
`htake`, `balloc`, `bfree`, `msarm`, `msarv` and `msbind`. -/
def Parts.ObjectsAreChecked : Prop :=
  ∀ (s : State) (b : Issue) (g : Grd) (src : Src) (mask : BitVec 64) (v : Val), Fires s b g src mask v →
    let a := b.sl .am 0
    let c2 := b.latched src .am 2 v
    let c3 := b.latched src .am 3 v
    let bad : Nat → Nat → Option Nat := fun al n => if a.toNat % al ≠ 0 then some 0x07 else if s.m.t.win? a n true true = none then some 0x08 else none
    (∀ e, bad 8 8 = some e → (b.sl .am 1).getLsbD 23 = true → ∀ i ∈ [Instr.aaddI64 g src, .aminI64 g src, .aminN64 g src, .amaxI64 g src, .amaxN64 g src,
        .aandN64 g src, .aorN64 g src, .axorN64 g src, .aswpN64 g src, .acasN64 g src],
      exec i s = .next (s.inBundle (c3.trapAt g.slot.val e))) ∧
    (∀ e, bad 64 64 = some e → (b.sl .am 1).getLsbD 50 = false → exec (.hoffer g src) s = .next (s.inBundle (c3.trapAt g.slot.val e))) ∧
    (∀ e, bad 64 64 = some e → exec (.hinit g src) s = .next (s.inBundle (c2.trapAt g.slot.val e)) ∧
      ∀ i ∈ [Instr.htake g src, .balloc g src, .bfree g src], exec i s = .next (s.inBundle (c3.trapAt g.slot.val e))) ∧
    (∀ e, bad 16 16 = some e → exec (.msarm g src) s = .next (s.inBundle (c3.trapAt g.slot.val e)) ∧
      exec (.msarv g src) s = .next (s.inBundle (c2.trapAt g.slot.val e)) ∧ exec (.msbind g src) s = .next (s.inBundle (c2.trapAt g.slot.val e)))

/-- The triggers whose operations perform at home slices enter the thread's outbound order with the operands captured at issue, or trap. The order of
several failing checks is the model's reading (log entry 32, 67). (R139, R148, R162, R192, R292, R293, R294, R295, R297, R298, R299, R303) -/
def Obligations.HomeOperationsIssue : Prop :=
  Parts.AtomicsEnterTheOrder ∧ Parts.HomeOperationsEnterTheOrder ∧ Parts.ObjectsAreChecked

/-! ### Privileged system operations (R152, R212, R374) -/

/-- The privileged system operations in a privileged thread, with their operands in range and what they read of no stopped die: `ivqw` puts the 32-byte command at its address into the die's
queue of 64; `errrd` delivers a word of the die's oldest error record, all ones without one, and removes the record on w[8]; `ctxsv` raises the pre-emption request
of the thread on a place of this core and remembers flag and record, and for an empty place writes the all-ones record and sets the flag; `ctxld` of an area
whose header has another MAGIC or SAVED = 0 counts a refusal and sets the flag, and of one that holds a saved context queues its thread for a restore, whose flag
follows it (Table 19-4); `qsce` of another die stops placements there and sets the flag (R212, R374). That a flag operand above 31 is its low 5 bits and that the record of `ctxsv` needs no alignment are the model's readings (log entries 28 and 48). That a context of which the device keeps nothing belongs to
the asking thread's kernel is the model's choice (log entry 92). -/
def Obligations.PrivilegedSystemOperations : Prop :=
  ∀ (s : State) (b : Issue) (g : Grd) (src : Src) (mask : BitVec 64) (v : Val), Fires s b g src mask v → s.m.t.priv = true →
    let m := s.m
    let x := v.word
    let die := m.core.die
    let f : Fin 32 := Fin.ofNat 32 (x.toNat % 32)
    let c1 := b.latched src .sys 1 v
    let c2 := b.latched src .sys 2 v
    let c3 := b.latched src .sys 3 v
    (∀ dva pa pte bits, (nth m.dev.ivq die).length < 64 → x.toNat % 32 = 0 → m.t.win? x 32 true false = some dva →
      m.xlate m.t.asid dva false true = .ok pa pte bits → m.dev.stops pa 32 = false →
      exec (.ivqw g src) s = .next (s.inBundle (({ c1 with now := c1.now.probeHome pa 32 } : Issue).modD fun d =>
        let w : Nat → Word := fun i => BitVec.ofNat 64 (m.dev.num (pa + 8 * i) 8)
        { d with ivq := setNth d.ivq die (nth d.ivq die ++ [(⟨w 0, w 1, w 2, w 3, m.t.ref, m.t.win? (w 2) 16 true true, m.t.asid, false⟩ : Ivq)]) }))) ∧
    (let q := (nth m.dev.errs die).recs
     let r : Issue := c1.modSt fun y => { y with pend := y.pend ++ [(⟨.inl .sysr, b.now.t.time + (nth b.now.t.kern.lat 0).toNat, b.now.t.time + 1, allLanes,
        (match q with | [] => BitVec.allOnes 64 | r :: _ => nth r (x.toNat % 8)), VVal.zero⟩ : Pend)] }
     exec (.errrd g src) s = .next (s.inBundle (if x.getLsbD 8 then r.modD fun d =>
        { d with errs := setNth d.errs die { nth d.errs die with recs := q.drop 1 } } else r))) ∧
    (∀ dva pa pte bits t, (b.sl .sys 0).toNat ≤ 575 → m.t.win? (b.sl .sys 1) 16 false true = some dva → m.xlate m.t.asid dva true true = .ok pa pte bits →
      m.onPlace (b.sl .sys 0).toNat = some t → exec (.ctxsv g src) s = .next (s.inBundle
        (({ c3 with now := c3.now.modRef t.ref fun t => { t with preq := true } } : Issue).modD fun d =>
          { d with ctxWaits := d.ctxWaits ++ [⟨m.t.ref, f, some (m.t.asid, dva), some t.ref, none⟩] }))) ∧
    (∀ dva pa pte bits, (b.sl .sys 0).toNat ≤ 575 → m.t.win? (b.sl .sys 1) 16 false true = some dva → m.xlate m.t.asid dva true true = .ok pa pte bits →
      m.onPlace (b.sl .sys 0).toNat = none → exec (.ctxsv g src) s = .next (s.inBundle
        ({ c3 with setF := c3.setF ||| BitVec.ofNat 32 (2 ^ f.val), now := c3.now.putRecord none m.t.asid dva (List.replicate 16 0xFF) } : Issue))) ∧
    (let area := b.sl .sys 0
     let queued : TRef → Dev → Dev := fun r d => { d with saved := d.saved.map fun y =>
        if y.ref = r then { y with auto := true, since := d.acyc, boost := 0, done := y.done ++ [(m.t.ref, f)] } else y }
     area.toNat % 0x10000 = 0 →
     (∀ p, m.coreRange area 256 false = .absent p → exec (.ctxld g src) s = .next (s.inBundle { c2 with freeze := true, waitFor := [p] })) ∧
     (∀ ps, m.coreRange area 256 false = .ok ps → (∀ p ∈ ps, m.dev.stops p.1 p.2 = false) →
      let h := (ps.flatMap fun p => m.dev.bytes p.1 p.2).toArray
      let num : Nat → Nat → Nat := fun o n => leNat ((List.range n).map fun i => h.getD (o + i) 0)
      (num 0 4 ≠ 0x46580001 ∨ num 4 4 % 2 = 0 → exec (.ctxld g src) s = .next (s.inBundle
        (({ c2 with setF := c2.setF ||| BitVec.ofNat 32 (2 ^ f.val) } : Issue).modD fun d => d.count die 12))) ∧
      (num 0 4 = 0x46580001 → num 4 4 % 2 = 1 →
        let c : Issue := { c2 with now := ps.foldl (fun (n : Mach) (p : Nat × Nat) => n.probeHome p.1 p.2) c2.now }
        (∀ x, c.now.dev.saved.find? (fun x => x.area = area && x.asid = m.t.asid) = some x →
          exec (.ctxld g src) s = .next (s.inBundle (c.modD (queued x.ref)))) ∧
        (c.now.dev.saved.find? (fun x => x.area = area && x.asid = m.t.asid) = none →
          ∃ x : Saved, x.ref = ⟨c.now.dev.launchNext, BitVec.ofNat 32 (num 0x38 4), none⟩ ∧ x.asid = m.t.asid ∧ x.area = area ∧ x.kern = m.t.kern ∧
            x.prio = m.t.prio ∧ exec (.ctxld g src) s = .next (s.inBundle
              (c.modD fun d => queued x.ref { d with launchNext := d.launchNext + 1, saved := d.saved ++ [x] })))))) ∧
    ((b.sl .sys 0).toNat ≤ 3 → m.dev.dies.getLsbD (b.sl .sys 0).toNat = true → (b.sl .sys 0).toNat ≠ die → exec (.qsce g src) s = .next (s.inBundle
      (let c : Issue := c2.modD fun d => { d with qstop := d.qstop ||| BitVec.ofNat 4 (2 ^ (b.sl .sys 0).toNat) }
       { c with setF := c.setF ||| BitVec.ofNat 32 (2 ^ f.val) })))

/-! ### Scalar memory (R136, R207–R210) -/

/-- The scalar loads: on an address aligned to the width whose window entry grants reads, a hit in the first-level translations and in L1 delivers the bytes, little-endian,
extended by the type, to `ls.r` at i + LAT[2]; with no L1, or on a miss of either, the load becomes a read that lands in `ls.r`, due then. A misaligned address
traps with ALIGN, one without a window entry with WINDOW. Actual latency is this generation's: 4, fused 10. That these reads take no entry of the landing buffer
is the model's reading of R139 and R363 (log entry 35). (R136, R207) -/
def Obligations.ScalarLoads : Prop :=
  ∀ (s : State) (b : Issue) (g : Grd) (src : Src) (mask : BitVec 64) (v : Val), Fires s b g src mask v → s.m.core.lsFree ≤ s.m.core.cyc →
    let c := b.latched src .ls 1 v
    let a := v.word
    let m := s.m
    let t := b.now.t
    let land : LandSrc → Issue := fun l => c.modT fun t => { t with land := t.land ++
      [⟨.lsr, t.time + (nth t.kern.lat 2).toNat, allLanes, l, t.seq, t.time, c.now.isSec, none, none, c.now.dev.acyc, false, []⟩] }
    ∀ r ∈ [(Instr.ldI8 g src, 1, true), (.ldN8 g src, 1, false), (.ldI16 g src, 2, true), (.ldN16 g src, 2, false), (.ldI32 g src, 4, true),
        (.ldN32 g src, 4, false), (.ldI64 g src, 8, true)],
      let n := r.2.1
      let ext : Nat → Word := fun x => if r.2.2 then (BitVec.ofNat (8 * n) x).signExtend 64 else (BitVec.ofNat (8 * n) x).setWidth 64
      (a.toNat % n ≠ 0 → exec r.1 s = .next (s.inBundle (c.trapAt g.slot.val 0x07))) ∧
      (a.toNat % n = 0 → m.t.win? a n true false = none → exec r.1 s = .next (s.inBundle (c.trapAt g.slot.val 0x08))) ∧
      ∀ dva, a.toNat % n = 0 → m.t.win? a n true false = some dva →
        (m.l1Lines = 0 → exec r.1 s = .next (s.inBundle (land (.scalar dva n r.2.2)))) ∧
        (m.l1Lines ≠ 0 → tlbHit m.core.tlb m.t.asid dva.toNat = none → exec r.1 s = .next (s.inBundle (land (.l1 dva n r.2.2)))) ∧
        (∀ e pa pte bits, m.l1Lines ≠ 0 → tlbHit m.core.tlb m.t.asid dva.toNat = some e → m.dev.leaf e.pte e.bits dva.toNat false m.t.priv = .ok pa pte bits →
          m.core.line (pa / 128) = none → exec r.1 s = .next (s.inBundle (land (.l1 dva n r.2.2)))) ∧
        (∀ e pa pte bits l, m.l1Lines ≠ 0 → tlbHit m.core.tlb m.t.asid dva.toNat = some e → m.dev.leaf e.pte e.bits dva.toNat false m.t.priv = .ok pa pte bits →
          m.core.line (pa / 128) = some l → l.have_ = BitVec.allOnes 128 → l.poison = 0 → exec r.1 s = .next (s.inBundle
            (c.modSt fun x => { x with pend := x.pend ++ [⟨.inl .lsr, t.time + (nth t.kern.lat 2).toNat, t.time + (if t.fusedl1 then 10 else 4), allLanes,
              ext (leNat ((List.range n).map fun i => nth l.data (pa % 128 + i))), VVal.zero⟩] })))

/-- The scalar stores: on an address aligned to the width whose window entry grants writes, a store into a line that L1 holds writes the low bytes of the value,
little-endian, into that copy, makes the line dirty, and leaves every other byte of it, every other line and device memory as they were; of the thread's landings
nothing changes but what a load that waits is to find at bytes that later stores pass over; a store with no L1 enters the outbound order as a remote write. A misaligned address traps with ALIGN, one without a window entry with WINDOW (R136, R207). -/
def Parts.ScalarStores : Prop :=
  ∀ (s : State) (b : Issue) (g : Grd) (src : Src) (mask : BitVec 64) (v : Val), Fires s b g src mask v → s.m.core.lsFree ≤ s.m.core.cyc →
    let c := b.latched src .ls 2 v
    let a := b.sl .ls 0
    let m := s.m
    ∀ r ∈ [(Instr.stN8 g src, 1), (.stN16 g src, 2), (.stN32 g src, 4), (.stN64 g src, 8)],
      let n := r.2
      (a.toNat % n ≠ 0 → exec r.1 s = .next (s.inBundle (c.trapAt g.slot.val 0x07))) ∧
      (a.toNat % n = 0 → m.t.win? a n false true = none → exec r.1 s = .next (s.inBundle (c.trapAt g.slot.val 0x08))) ∧
      ∀ dva, a.toNat % n = 0 → m.t.win? a n false true = some dva →
        (m.l1Lines = 0 → exec r.1 s = .next (s.inBundle (c.hop dva (.store (leBytes n v.word.toNat))))) ∧
        (∀ pa pte bits l, m.l1Lines ≠ 0 → m.xlate m.t.asid dva true m.t.priv = .ok pa pte bits → inMgmt pa = false → pa % n = 0 →
          m.core.line (pa / 128) = some l →
          ∃ (l' : L1Line) (ls : List Landing), exec r.1 s = .next (s.inBundle ((({ c with now := (c.now.cacheXlate m.t.asid dva (.ok pa pte bits)).modT fun t =>
              { t with land := ls } } : Issue)).modC fun k => { k with l1 := k.l1.map fun x => if x.line = l'.line then l' else x })) ∧
            ls.map (fun x : Landing => { x with seen := [] }) = c.now.t.land.map (fun x => { x with seen := [] }) ∧
            (∀ (j : Nat) (x y : Landing), c.now.t.land[j]? = some x → ls[j]? = some y → x.data.isSome ∨ (∀ a n e, x.src ≠ .l1 a n e) → y = x) ∧
            l'.line = l.line ∧ l'.dirty = true ∧ l'.poison = l.poison ∧ (∀ o, o ∈ l'.own ↔ o = m.t.ref ∨ o ∈ l.own) ∧
            (∀ i < 128, nth l'.data i = if pa % 128 ≤ i ∧ i < pa % 128 + n then BitVec.ofNat 8 (v.word.toNat / 2 ^ (8 * (i - pa % 128))) else nth l.data i) ∧
            (∀ i < 128, l'.have_.getLsbD i = (l.have_.getLsbD i || decide (pa % 128 ≤ i ∧ i < pa % 128 + n))))

/-- A store that misses allocates its line with only the stored bytes valid, when a way of its set is free and fewer than 8 store misses are outstanding; with 8, the
bundle freezes. `prefl` of an absent line allocates it with no byte valid, and does nothing with no L1, without a window entry or permission, or for a line L1
holds (R136, R207, R209). -/
def Parts.LinesAreAllocated : Prop :=
  ∀ (s : State) (b : Issue) (g : Grd) (src : Src) (mask : BitVec 64) (v : Val), Fires s b g src mask v →
    let c := b.latched src .ls 2 v
    let k := b.latched src .ls 1 v
    let a := b.sl .ls 0
    let m := s.m
    let sets := max (m.l1Lines / 8) 1
    let misses := (m.core.l1.filter fun l => l.have_ ≠ BitVec.allOnes 128 && l.dirty).length
    (∀ dva pa pte bits, m.core.lsFree ≤ m.core.cyc → a.toNat % 8 = 0 → m.t.win? a 8 false true = some dva → m.l1Lines ≠ 0 →
      m.xlate m.t.asid dva true m.t.priv = .ok pa pte bits → inMgmt pa = false → m.core.line (pa / 128) = none →
      let now := (c.now.cacheXlate m.t.asid dva (.ok pa pte bits)).passLoads pa 8
      (8 ≤ misses → exec (.stN64 g src) s = .next (s.inBundle { c with now := now, freeze := true })) ∧
      (misses < 8 → c.now.core.poolb = m.core.poolb → c.now.t.fusedl1 = m.t.fusedl1 →
        (now.core.l1.filter fun l => l.line % sets = pa / 128 % sets).length < 8 →
        exec (.stN64 g src) s = .next (s.inBundle ((({ c with now := now } : Issue)).modC fun x =>
          { x with l1 := x.l1 ++ [(⟨pa / 128, Vector.replicate 128 0, 0, false, 0, [], m.t.ref, m.t.time⟩ : L1Line).put m.t.ref (pa % 128) (leBytes 8 v.word.toNat)] })))) ∧
    (m.l1Lines = 0 ∨ m.t.win? v.word 1 true false = none → exec (.prefl g src) s = .next (s.inBundle k)) ∧
    (∀ dva pa pte bits, m.l1Lines ≠ 0 → m.t.win? v.word 1 true false = some dva → m.xlate m.t.asid dva false m.t.priv = .ok pa pte bits → inMgmt pa = false →
      (∀ l, m.core.line (pa / 128) = some l → exec (.prefl g src) s = .next (s.inBundle k)) ∧
      (let now := k.now.cacheXlate m.t.asid dva (.ok pa pte bits)
       m.core.line (pa / 128) = none → k.now.core.poolb = m.core.poolb → k.now.t.fusedl1 = m.t.fusedl1 →
        (now.core.l1.filter fun l => l.line % sets = pa / 128 % sets).length < 8 →
        exec (.prefl g src) s = .next (s.inBundle ((({ k with now := now } : Issue)).modC fun x =>
          { x with l1 := x.l1 ++ [⟨pa / 128, Vector.replicate 128 0, 0, false, 0, [], m.t.ref, m.t.time⟩] }))))

/-- What a store writes and leaves alone, when a store that misses allocates its line, and what `prefl` does. Which lines share a set is the model's
choice (log entry 35). (R136, R148, R207, R209) -/
def Obligations.ScalarStoresAndPrefetch : Prop :=
  Parts.ScalarStores ∧ Parts.LinesAreAllocated

/-- `wbr` and `invr` over at most 2^24 bytes with a window entry for each page: every dirty line of L1 that the range covers enters the outbound order as a write-back, in
the order of the lines, and then `wbr` keeps the covered lines clean and `invr` drops them; `ls` is occupied for one A-cycle per covered line. More than
2^24 bytes trap with OPERAND (R208). -/
def Parts.CacheOperations : Prop :=
  ∀ (s : State) (b : Issue) (g : Grd) (src : Src) (mask : BitVec 64) (v : Val), Fires s b g src mask v → s.m.core.lsFree ≤ s.m.core.cyc →
    let c := b.latched src .ls 2 v
    let m := s.m
    let done : (List (Nat × Nat)) → Issue := fun rs => (m.core.l1.filter fun l => l.covered rs && l.dirty).foldl (fun b l => b.modT fun t =>
      { t with seq := t.seq + 1, hops := t.hops ++
        [⟨t.seq, t.time, m.core.cyc, m.isSec, BitVec.ofNat 64 (l.line * 128), .writeBack l.data.toList l.poison l.own⟩] }) c
    (2 ^ 24 < v.word.toNat → exec (.wbr g src) s = .next (s.inBundle (c.trapAt g.slot.val 0x06)) ∧
      exec (.invr g src) s = .next (s.inBundle (c.trapAt g.slot.val 0x06))) ∧
    ∀ rs, v.word.toNat ≤ 2 ^ 24 → m.linesOf (b.sl .ls 0) v.word.toNat = some rs → (∀ l ∈ m.core.l1, l.covered rs = true → l.have_ = BitVec.allOnes 128) →
      let busy := (m.core.l1.filter fun l => l.covered rs).length
      exec (.wbr g src) s = .next (s.inBundle ((done rs).modC fun k =>
        { k with lsFree := k.cyc + busy, l1 := k.l1.map fun l => if l.covered rs then { l with dirty := false, own := [] } else l })) ∧
      exec (.invr g src) s = .next (s.inBundle ((done rs).modC fun k =>
        { k with lsFree := k.cyc + busy, l1 := k.l1.filter fun l => !l.covered rs }))

/-- A landing load: with a D of at least 1 and room for it, on an aligned address whose window entry grants reads, a read that lands in the register that its control value
names at i + D, past L1 (R210); while an `invr` or `wbr` occupies `ls` an `ls`
trigger freezes the core (R208). -/
def Parts.LandingLoads : Prop :=
  ∀ (s : State) (b : Issue) (g : Grd) (src : Src) (mask : BitVec 64) (v : Val), Fires s b g src mask v →
    let c := b.latched src .ls 2 v
    let a := b.sl .ls 0
    let w := v.word.toNat
    let n := 2 ^ (w / 2 ^ 18 % 4)
    let d := w % 2 ^ 12
    ∀ dva, a.toNat % n = 0 → s.m.t.win? a n true false = some dva → d ≠ 0 → c.now.t.landings c.now.isSec < 16 →
      let r := c.modT fun t => { t with land := t.land ++ [⟨.s (Fin.ofNat 64 (w / 2 ^ 12 % 64)), t.time + d, allLanes, .scalar dva n (v.word.getLsbD 20),
        t.seq, t.time, c.now.isSec, none, none, c.now.dev.acyc, false, []⟩] }
      (s.m.core.lsFree ≤ s.m.core.cyc → exec (.ldl g src) s = .next (s.inBundle r)) ∧
      (s.m.core.cyc < s.m.core.lsFree → exec (.ldl g src) s = .next (s.inBundle { r with freeze := true }))

/-- Writing back and invalidating lines of L1, and the load that lands in a register. (R139, R208, R210) -/
def Obligations.CacheControlAndLandingLoads : Prop :=
  Parts.CacheOperations ∧ Parts.LandingLoads

/-! ### Vector units (R213–R231) -/

/-- FP32 arithmetic of the function units, lane by lane: sums, products and `fma` exact and rounded once, minimumNumber and maximumNumber, sign operations, rounding to an
integral value, and compares that give 1 or 0; the tangents of R124; the map is the common map of the operands, which sets MAPLOST when it is lost; the result
comes at i + LAT of the operation's class in the guard's lanes (R118, R124, R215–R218). That the tangent of `fabs` of a NaN is NaN is the model's reading
(log entry 43). -/
def Obligations.Fp32Results : Prop :=
  ∀ (s : State) (b : Issue) (g : Grd) (src : Src) (mask : BitVec 64) (v : Val), Fires s b g src mask v →
    let u := faUnit g.slot.val
    let x := b.argV u 2 0 v
    let y := b.argV u 2 1 v
    let maps := commonMap [x.map, y.map]
    let c2 := (b.latched src u 2 v).lost maps.2
    let c1 := b.latched src u 1 v
    let a := v.vval
    let tx : Nat → Nat → Fp := fun k l => fp (x.tgl k l)
    let ty : Nat → Nat → Fp := fun k l => fp (y.tgl k l)
    let X : Nat → Fp := fun l => fp (x.lanes.lane l)
    let Y : Nat → Fp := fun l => fp (y.lanes.lane l)
    let A : Nat → Fp := fun l => fp (a.lanes.lane l)
    let tA : Nat → Nat → Fp := fun k l => fp (a.tgl k l)
    let is : Bool → Lane := fun p => if p then 1 else 0
    (∀ r ∈ ([(.faddF32 g src, 3, fun l => rnd ((X l).add (Y l)), fun k l => rnd ((tx k l).add (ty k l))),
        (.fsubF32 g src, 3, fun l => rnd ((X l).sub (Y l)), fun k l => rnd ((tx k l).sub (ty k l))),
        (.fmulF32 g src, 4, fun l => rnd ((X l).mul (Y l)), fun k l => rnd (((tx k l).mul (Y l)).add ((X l).mul (ty k l)))),
        (.fminF32 g src, 3, fun l => rnd (if pickFirst true (X l) (Y l) then X l else Y l), fun k l => if pickFirst true (X l) (Y l) then rnd (tx k l) else rnd (ty k l)),
        (.fmaxF32 g src, 3, fun l => rnd (if pickFirst false (X l) (Y l) then X l else Y l), fun k l => if pickFirst false (X l) (Y l) then rnd (tx k l) else rnd (ty k l)),
        (.fcmpeqF32 g src, 3, fun l => is ((X l).eq (Y l)), fun _ _ => 0), (.fcmpltF32 g src, 3, fun l => is ((X l).lt (Y l)), fun _ _ => 0),
        (.fcmpleF32 g src, 3, fun l => is ((X l).lt (Y l) || (X l).eq (Y l)), fun _ _ => 0),
        (.fcmpunF32 g src, 3, fun l => is ((X l).isNan || (Y l).isNan), fun _ _ => 0)] : List (Instr × Nat × (Nat → Lane) × (Nat → Nat → Lane))),
      exec r.1 s = .next (s.inBundle (c2.gives s (portR u) r.2.1 mask maps.1 r.2.2.1 r.2.2.2))) ∧
    (let p := b.vl u 0
     let q := b.vl u 1
     let m := commonMap [p.map, q.map, a.map]
     exec (.fmaF32 g src) s = .next (s.inBundle (((b.latched src u 3 v).lost m.2).gives s (portR u) 4 mask m.1
      (fun l => rnd (((fp (p.lanes.lane l)).mul (fp (q.lanes.lane l))).add (A l)))
      (fun k l => rnd ((((fp (p.tgl k l)).mul (fp (q.lanes.lane l))).add ((fp (p.lanes.lane l)).mul (fp (q.tgl k l)))).add (tA k l)))))) ∧
    exec (.fabsF32 g src) s = .next (s.inBundle (c1.gives s (portR u) 3 mask a.map (fun l => rnd (A l).abs)
      (fun k l => rnd (if (A l).isNan then .nan else if (A l).neg && !(A l).isZero then (tA k l).negate else tA k l)))) ∧
    exec (.fnegF32 g src) s = .next (s.inBundle (c1.gives s (portR u) 3 mask a.map (fun l => rnd (A l).negate) (fun k l => rnd (tA k l).negate))) ∧
    exec (.frndF32 g src) s = .next (s.inBundle (c1.gives s (portR u) 3 mask a.map (fun l => rnd (integral (A l))) (fun _ _ => 0)))

/-- The BF16 and FP16 forms work on two elements a lane, each exact and rounded once to the format; a latch last written by a scalar source stands for the FP32 value
of its bits [31:0] rounded to the format; tangents are BF16 (R124, R214, R216). -/
def Obligations.SixteenBitResults : Prop :=
  ∀ (s : State) (b : Issue) (g : Grd) (src : Src) (mask : BitVec 64) (v : Val), Fires s b g src mask v →
    let u := faUnit g.slot.val
    let x := b.argV u 2 0 v
    let y := b.argV u 2 1 v
    let maps := commonMap [x.map, y.map]
    let c := (b.latched src u 2 v).lost maps.2
    let pack : (Nat → Nat) → Nat → Lane := fun f l => BitVec.ofNat 32 (f (2 * l) % 2 ^ 16 + 2 ^ 16 * (f (2 * l + 1) % 2 ^ 16))
    let el : FFmt → VVal → Nat → Fp := fun f w e => f.dec (if w.fromS then f.rne (fp (w.lanes.lane 0)) else
      (w.lanes.lane (e / 2)).toNat / 2 ^ (16 * (e % 2)) % 2 ^ 16)
    let tel : VVal → Nat → Nat → Fp := fun w k e => if w.fromS then .zero else bf16.dec ((w.tgl k (e / 2)).toNat / 2 ^ (16 * (e % 2)) % 2 ^ 16)
    (∀ r ∈ ([(.faddBf16 g src, bf16, 3, Fp.add, fun _ _ ta tb => ta.add tb), (.faddF16 g src, f16, 3, Fp.add, fun _ _ ta tb => ta.add tb),
        (.fsubBf16 g src, bf16, 3, Fp.sub, fun _ _ ta tb => ta.sub tb), (.fsubF16 g src, f16, 3, Fp.sub, fun _ _ ta tb => ta.sub tb),
        (.fmulBf16 g src, bf16, 4, Fp.mul, fun a b ta tb => (ta.mul b).add (a.mul tb)), (.fmulF16 g src, f16, 4, Fp.mul, fun a b ta tb => (ta.mul b).add (a.mul tb)),
        (.fminBf16 g src, bf16, 3, fun a b => if pickFirst true a b then a else b, fun a b ta tb => if pickFirst true a b then ta else tb),
        (.fminF16 g src, f16, 3, fun a b => if pickFirst true a b then a else b, fun a b ta tb => if pickFirst true a b then ta else tb),
        (.fmaxBf16 g src, bf16, 3, fun a b => if pickFirst false a b then a else b, fun a b ta tb => if pickFirst false a b then ta else tb),
        (.fmaxF16 g src, f16, 3, fun a b => if pickFirst false a b then a else b, fun a b ta tb => if pickFirst false a b then ta else tb)] :
        List (Instr × FFmt × Nat × (Fp → Fp → Fp) × (Fp → Fp → Fp → Fp → Fp))),
      exec r.1 s = .next (s.inBundle (c.gives s (portR u) r.2.2.1 mask maps.1 (pack fun e => r.2.1.rne (r.2.2.2.1 (el r.2.1 x e) (el r.2.1 y e)))
        (fun k => pack fun e => bf16.rne (r.2.2.2.2 (el r.2.1 x e) (el r.2.1 y e) (tel x k e) (tel y k e)))))) ∧
    (∀ r ∈ [(Instr.fmaBf16 g src, bf16), (.fmaF16 g src, f16)],
      let p := b.vl u 0
      let q := b.vl u 1
      let a := v.vval
      let m := commonMap [p.map, q.map, a.map]
      exec r.1 s = .next (s.inBundle (((b.latched src u 3 v).lost m.2).gives s (portR u) 4 mask m.1
        (pack fun e => r.2.rne (((el r.2 p e).mul (el r.2 q e)).add (el r.2 a e)))
        (fun k => pack fun e => bf16.rne ((((tel p k e).mul (el r.2 q e)).add ((el r.2 p e).mul (tel q k e))).add (tel a k e))))))

/-- Integer, bitwise and predicate operations lane by lane, with no tangents; `vsel` and `vcas` move tangents with values: `vcas` delivers the greater to `r` and the lesser to
`rx`, equal operands in order; `vbcast` gives every lane a chosen one; `qcnt` counts and `qffs` finds the first of the non-zero lanes (R219–R221). -/
def Obligations.IntegerLaneResults : Prop :=
  ∀ (s : State) (b : Issue) (g : Grd) (src : Src) (mask : BitVec 64) (v : Val), Fires s b g src mask v →
    let u := faUnit g.slot.val
    let x := b.argV u 2 0 v
    let y := b.argV u 2 1 v
    let a := v.vval
    let maps := commonMap [x.map, y.map]
    let c := (b.latched src u 2 v).lost maps.2
    let c1 := b.latched src u 1 v
    let X : Nat → Lane := x.lanes.lane
    let Y : Nat → Lane := y.lanes.lane
    (∀ r ∈ ([(.vadd g src, 3, fun a b => a + b), (.vsub g src, 3, fun a b => a - b), (.vmul g src, 4, fun a b => a * b),
        (.vminI32 g src, 3, fun a b => if b.toInt < a.toInt then b else a), (.vminN32 g src, 3, fun a b => if b.toNat < a.toNat then b else a),
        (.vmaxI32 g src, 3, fun a b => if a.toInt < b.toInt then b else a), (.vmaxN32 g src, 3, fun a b => if a.toNat < b.toNat then b else a),
        (.vand g src, 3, fun a b => a &&& b), (.vor g src, 3, fun a b => a ||| b), (.vxor g src, 3, fun a b => a ^^^ b),
        (.vshl g src, 3, fun a b => a <<< (b.toNat % 32)), (.vshrN32 g src, 3, fun a b => a >>> (b.toNat % 32)),
        (.vshrI32 g src, 3, fun a b => a.sshiftRight (b.toNat % 32)), (.vcmpeq g src, 3, fun a b => if a = b then 1 else 0),
        (.vcmpltI32 g src, 3, fun a b => if a.toInt < b.toInt then 1 else 0), (.vcmpltN32 g src, 3, fun a b => if a.toNat < b.toNat then 1 else 0),
        (.qand g src, 3, fun a b => if a ≠ 0 ∧ b ≠ 0 then 1 else 0), (.qor g src, 3, fun a b => if a ≠ 0 ∨ b ≠ 0 then 1 else 0),
        (.qxor g src, 3, fun a b => if (a = 0) ≠ (b = 0) then 1 else 0), (.qandn g src, 3, fun a b => if a ≠ 0 ∧ b = 0 then 1 else 0)] :
        List (Instr × Nat × (Lane → Lane → Lane))),
      exec r.1 s = .next (s.inBundle (c.gives s (portR u) r.2.1 mask maps.1 (fun l => r.2.2 (X l) (Y l)) fun _ _ => 0))) ∧
    (let p := b.vl u 0
     let q := b.vl u 1
     let m := commonMap [p.map, q.map]
     exec (.vsel g src) s = .next (s.inBundle (((b.latched src u 3 v).lost m.2).gives s (portR u) 3 mask m.1
      (fun l => if a.lanes.lane l ≠ 0 then p.lanes.lane l else q.lanes.lane l) (fun k l => if a.lanes.lane l ≠ 0 then rnd (fp (p.tgl k l)) else rnd (fp (q.tgl k l)))))) ∧
    (∀ r ∈ ([(.vcasF32 g src, fun a b => totalLt (fp a) (fp b), fun a => rnd (fp a)), (.vcasI32 g src, fun a b => decide (a.toInt < b.toInt), id),
        (.vcasN32 g src, fun a b => decide (a.toNat < b.toNat), id)] : List (Instr × (Lane → Lane → Bool) × (Lane → Lane))),
      let sw : Nat → Bool := fun l => r.2.1 (X l) (Y l)
      exec r.1 s = .next (s.inBundle ((c.gives s (portR u) 3 mask maps.1 (fun l => r.2.2 (if sw l then Y l else X l))
          (fun k l => if sw l then rnd (fp (y.tgl k l)) else rnd (fp (x.tgl k l)))).gives s (portRx u) 3 mask maps.1 (fun l => r.2.2 (if sw l then X l else Y l))
          (fun k l => if sw l then rnd (fp (x.tgl k l)) else rnd (fp (y.tgl k l)))))) ∧
    (let n := (Y 0).toNat % 64
     exec (.vbcast g src) s = .next (s.inBundle ((b.latched src u 2 v).gives s (portR u) 3 mask MapD.none (fun _ => X n) (fun k _ => x.tgl k n)))) ∧
    (let live := (List.range 64).filter fun l => a.lanes.lane l ≠ 0
     exec (.qcnt g src) s = .next (s.inBundle (c1.gives s (portR u) 3 mask MapD.none (fun _ => BitVec.ofNat 32 live.length) fun _ _ => 0)) ∧
     exec (.qffs g src) s = .next (s.inBundle (c1.gives s (portR u) 3 mask MapD.none (fun _ => BitVec.ofNat 32 (live.headD 64)) fun _ _ => 0)))

/-- Special functions: the correctly rounded value in every lane, with the tangent of Table 6-7 and the map of the operand, at i + LAT[5] (R125, R231). -/
def Parts.SpecialFunctionTriggers : Prop :=
  ∀ (s : State) (b : Issue) (g : Grd) (src : Src) (mask : BitVec 64) (v : Val), Fires s b g src mask v →
    let u : FU := if g.slot = 3 then .sfa else .sfb
    let a := v.vval
    ∀ r ∈ [(Instr.exp g src, SFun.exp), (.exp2 g src, .exp2), (.log g src, .log), (.rcp g src, .rcp), (.rsqrt g src, .rsqrt), (.tanh g src, .tanh),
        (.sigm g src, .sigm), (.sin g src, .sin), (.cos g src, .cos), (.erf g src, .erf)],
      exec r.1 s = .next (s.inBundle ((b.latched src u 1 v).gives s (portR u) 5 mask a.map (fun l => r.2.val (fp (a.lanes.lane l)))
        fun k l => r.2.tan (fp (a.tgl k l)) (fp (a.lanes.lane l)) (fp (r.2.val (fp (a.lanes.lane l))))))

/-- What the values and tangents are (R125, R231, Tables 6-7 and 10-7): the special values; `exp2` of an integer and `rsqrt` of an even power of two are exact; `rcp` and `rsqrt` are nearest: the midpoint
between the result r and any other FP32 number x lies on x's side of the exact value, by exact products, and `rcp` overflows just where 1/a rounds past the greatest number. The tangents are the formulas
of Table 6-7 rounded once; `sin` takes cos a, so that with t = 1 its tangent is the value of `cos`. The other values are those of enclosures of the real function both of whose ends round to one number. -/
def Parts.SpecialFunctionValues : Prop :=
  (∀ f : SFun, f.val .nan = 0x7FC00000) ∧
  (∀ e ∈ [(SFun.exp, (0xFF800000 : Lane), (0 : Lane)), (.exp, 0x7F800000, 0x7F800000), (.exp, 0, 0x3F800000), (.exp, 0x80000000, 0x3F800000), (.exp2, 0xFF800000, 0),
      (.exp2, 0x7F800000, 0x7F800000), (.exp2, 0, 0x3F800000), (.exp2, 0x80000000, 0x3F800000), (.log, 0, 0xFF800000), (.log, 0x80000000, 0xFF800000), (.log, 0x3F800000, 0),
      (.log, 0x7F800000, 0x7F800000), (.log, 0xFF800000, 0x7FC00000), (.rcp, 0, 0x7F800000), (.rcp, 0x80000000, 0xFF800000), (.rcp, 0x7F800000, 0), (.rcp, 0xFF800000, 0x80000000),
      (.rsqrt, 0, 0x7F800000), (.rsqrt, 0x80000000, 0xFF800000), (.rsqrt, 0xFF800000, 0x7FC00000), (.rsqrt, 0x7F800000, 0), (.tanh, 0, 0), (.tanh, 0x80000000, 0x80000000),
      (.tanh, 0x7F800000, 0x3F800000), (.tanh, 0xFF800000, 0xBF800000), (.sigm, 0xFF800000, 0), (.sigm, 0x7F800000, 0x3F800000), (.sin, 0, 0), (.sin, 0x80000000, 0x80000000),
      (.sin, 0x7F800000, 0x7FC00000), (.sin, 0xFF800000, 0x7FC00000), (.cos, 0, 0x3F800000), (.cos, 0x80000000, 0x3F800000), (.cos, 0x7F800000, 0x7FC00000),
      (.cos, 0xFF800000, 0x7FC00000), (.erf, 0, 0), (.erf, 0x80000000, 0x80000000), (.erf, 0x7F800000, 0x3F800000), (.erf, 0xFF800000, 0xBF800000)],
    e.1.val (fp e.2.1) = e.2.2) ∧
  (∀ (m : Nat) (e : Int), m ≠ 0 → SFun.log.val (.fin true m e) = 0x7FC00000 ∧ SFun.rsqrt.val (.fin true m e) = 0x7FC00000) ∧
  (∀ (a : Lane) (k : Int), ((fp a).eq (.ofInt k) = true → SFun.exp2.val (fp a) = rnd (.fin false 1 k)) ∧
    ((fp a).eq (.fin false 1 (2 * k)) = true → SFun.rsqrt.val (fp a) = rnd (.fin false 1 (-k)))) ∧
  (∀ (a x : Lane) (m : Nat) (e : Int), fp a = .fin false m e → m ≠ 0 →
    let p := SFun.rcp.val (fp a)
    let q := SFun.rsqrt.val (fp a)
    SFun.rcp.val (.fin true m e) = p ^^^ 0x80000000 ∧
    (p = 0x7F800000 ↔ (Fp.fin false 1 0).lt ((Fp.fin false (2 ^ 25 - 1) 103).mul (fp a)) = false) ∧ q < 0x7F800000 ∧
    (x < 0x7F800000 →
      (p < 0x7F800000 → let z := ((fp p).add (fp x)).mul (fp a);
        ((fp p).lt (fp x) = true → z.lt (.fin false 1 1) = false) ∧ ((fp x).lt (fp p) = true → (Fp.fin false 1 1).lt z = false)) ∧
      (let z := (((fp q).add (fp x)).mul ((fp q).add (fp x))).mul (fp a);
        ((fp q).lt (fp x) = true → z.lt (.fin false 1 2) = false) ∧ ((fp x).lt (fp q) = true → (Fp.fin false 1 2).lt z = false)))) ∧
  (∀ t a y : Fp,
    SFun.exp.tan t a y = rnd (t.mul y) ∧ SFun.exp2.tan t a y = mulEnc (t.mul y) (fun P => (ivLn2 P).enc P) ∧ SFun.log.tan t a y = fdiv32 t a ∧
    SFun.rcp.tan t a y = rnd ((t.mul y).mul y).negate ∧ SFun.rsqrt.tan t a y = rnd ((((t.mul y).mul y).mul y).negate.scale (-1)) ∧
    SFun.tanh.tan t a y = rnd (t.mul ((Fp.fin false 1 0).sub (y.mul y))) ∧ SFun.sigm.tan t a y = rnd ((t.mul y).mul ((Fp.fin false 1 0).sub y)) ∧
    (a.isZero = true → SFun.sin.tan t a y = rnd t ∧ SFun.cos.tan t a y = rnd (t.mul a).negate) ∧
    (∀ n m e, a = .fin n m e → SFun.sin.tan (.fin false 1 0) a y = SFun.cos.val a) ∧
    (∀ n m e, a = .fin n m e → m ≠ 0 → SFun.cos.tan t a y = mulEnc t fun P => (ivTrig P false (sgnMant n m) e).neg.enc P) ∧
    (∀ n, a = .inf n → SFun.sin.tan t a y = 0x7FC00000 ∧ SFun.cos.tan t a y = 0x7FC00000 ∧ SFun.erf.tan t a y = rnd (t.mul Fp.zero)))

/-- What the special functions deliver, and what their values and tangents are. (R125, R231) -/
def Obligations.SpecialFunctionResults : Prop :=
  Parts.SpecialFunctionTriggers ∧ Parts.SpecialFunctionValues

/-- Operations across lanes: `vbperm` picks bytes within groups of 8 lanes, `vlperm` picks lanes, `vcmpact` moves the selected lanes down and counts them in `rx`; `vred` gives every
lane the sum over the tree of R224 or the least or greatest value of the guard's lanes, mode 3 trapping with OPERAND; `vscan` gives each lane the sum, in lane order,
of the guard's lanes up to it, itself included or not; picked lanes carry tangents and coordinates (R117, R120, R222–R226). -/
def Obligations.CrossLaneResults : Prop :=
  ∀ (s : State) (b : Issue) (g : Grd) (src : Src) (mask : BitVec 64) (v : Val), Fires s b g src mask v →
    let u := faUnit g.slot.val
    let x := b.vl u 0
    let X : Nat → Lane := x.lanes.lane
    let Y : Nat → Lane := v.vval.lanes.lane
    let c := b.latched src u 2 v
    let k : Ctx := ⟨s.m, g.slot.val, u, mask, v⟩
    let byte : Lane → Nat → Nat := fun w j => w.toNat / 2 ^ (8 * j) % 2 ^ 8
    let picked : (Nat → Option Nat) → Issue := fun fr =>
      let r := c.gathered k (portR u) x.map fr
      r.2.gives s (portR u) 3 mask r.1 (fun l => match fr l with | some i => X i | none => 0) (fun t l => match fr l with | some i => x.tgl t i | none => 0)
    let on : (Nat → Lane) → List (Option Lane) := fun f => (List.range 64).map fun l => if mask.getLsbD l then some (f l) else none
    let upTo : Nat → List Nat := fun l => (List.range (if (Y 0).getLsbD 0 then l else l + 1)).filter fun j => mask.getLsbD j
    (let pick : Nat → Nat → Nat := fun l j => let w := byte (Y l) j; if 128 ≤ w then 0 else byte (X (8 * (l / 8) + w % 32 / 4)) (w % 4)
     exec (.vbperm g src) s = .next (s.inBundle (c.gives s (portR u) 3 mask x.map
      (fun l => BitVec.ofNat 32 (pick l 0 + 2 ^ 8 * pick l 1 + 2 ^ 16 * pick l 2 + 2 ^ 24 * pick l 3))
      (fun t l => let w := byte (Y l) 0; if 128 ≤ w then 0 else x.tgl t (8 * (l / 8) + w % 32 / 4))))) ∧
    exec (.vlperm g src) s = .next (s.inBundle (picked fun l => if (Y l).getLsbD 31 then none else some ((Y l).toNat % 64))) ∧
    (let live := (List.range 64).filter fun l => Y l ≠ 0
     exec (.vcmpact g src) s = .next (s.inBundle ((picked fun l => live[l]?).gives s (portRx u) 3 mask MapD.none (fun _ => BitVec.ofNat 32 live.length) fun _ _ => 0))) ∧
    (∀ r ∈ ([(.vredF32 g src, fadd32, fun mn p acc => !pickFirst mn (fp acc) (fp p), fun a => rnd (fp a)),
        (.vredI32 g src, fun a b => a + b, fun mn p acc => if mn then decide (p.toInt < acc.toInt) else decide (acc.toInt < p.toInt), id),
        (.vredN32 g src, fun a b => a + b, fun mn p acc => if mn then decide (p.toNat < acc.toNat) else decide (acc.toNat < p.toNat), id)] :
        List (Instr × (Lane → Lane → Lane) × (Bool → Lane → Lane → Bool) × (Lane → Lane))),
      let best : Bool → Nat := fun mn => bestLane (fun p acc => r.2.2.1 mn (X p) (X acc)) ((List.range 64).filter fun l => mask.getLsbD l)
      ((Y 0).toNat % 4 = 0 → exec r.1 s = .next (s.inBundle (c.gives s (portR u) 4 mask MapD.none (fun _ => r.2.2.2 ((foldTree r.2.1 (on X)).getD 0))
        fun t _ => rnd (fp ((foldTree fadd32 (on (x.tgl t))).getD 0))))) ∧
      ((Y 0).toNat % 4 = 1 → exec r.1 s = .next (s.inBundle (c.gives s (portR u) 4 mask MapD.none (fun _ => r.2.2.2 (X (best true))) fun t _ => rnd (fp (x.tgl t (best true)))))) ∧
      ((Y 0).toNat % 4 = 2 → exec r.1 s = .next (s.inBundle (c.gives s (portR u) 4 mask MapD.none (fun _ => r.2.2.2 (X (best false))) fun t _ => rnd (fp (x.tgl t (best false)))))) ∧
      ((Y 0).toNat % 4 = 3 → exec r.1 s = .next (s.inBundle (c.trapAt g.slot.val 0x06)))) ∧
    (∀ r ∈ ([(.vscanF32 g src, fadd32), (.vscanI32 g src, fun a b => a + b)] : List (Instr × (Lane → Lane → Lane))),
      exec r.1 s = .next (s.inBundle (c.gives s (portR u) 4 mask x.map (fun l => (upTo l).foldl (fun acc j => r.2 acc (X j)) 0)
        fun t l => (upTo l).foldl (fun acc j => fadd32 acc (x.tgl t j)) 0)))

/-- Conversions of a vector convert the guard's lanes under FMT.RMODE, SATE4 and, in stochastic rounding, the noise of each lane's linear index, and set CVTNAN and CVTSAT;
`vknf` gives each lane the noise of its linear index under SEED, NRC and the stream of its second operand, as 32 bits or as a fraction of 24 bits; `nrcinc` adds
to NRC (R105–R110, R227, R229, R230). -/
def Parts.ConversionsAndNoise : Prop :=
  ∀ (s : State) (b : Issue) (g : Grd) (src : Src) (mask : BitVec 64) (v : Val), Fires s b g src mask v →
    let u := faUnit g.slot.val
    let t := s.m.t
    let a := v.vval
    let x := b.vl u 0
    let c1 := b.latched src u 1 v
    let c2 := b.latched src u 2 v
    let ta : Nat → Nat → Lane := fun k l => rnd (fp (a.tgl k l))
    (∀ r ∈ ([(.vcvtfI32 g src, .flt f32, fun w => Fp.ofInt w.toInt, ta), (.vcvtiF32 g src, .int 32 true, fp, fun _ _ => 0),
        (.vcvtBf16 g src, .flt bf16, fp, ta), (.vcvtF16 g src, .flt f16, fp, ta)] : List (Instr × CvtT × (Lane → Fp) × (Nat → Nat → Lane))),
      let rs := t.convert r.2.1 (a.map.lin (t.store a.map)) ((List.range 64).map fun l => if mask.getLsbD l then some (r.2.2.1 (a.lanes.lane l)) else none)
      exec r.1 s = .next (s.inBundle ((c1.status (cvtStatus rs).1 (cvtStatus rs).2 false).gives s (portR u) 3 mask a.map
        (fun l => match rs[l]? with | some (some q) => BitVec.ofNat 32 q.code | _ => 0) r.2.2.2))) ∧
    (let noise : Nat → Nat := fun l => noise32 t.seed ((a.lanes.lane 0).toNat % 2 ^ 16) t.nrc (x.map.lin (t.store x.map) l)
     exec (.vknfN32 g src) s = .next (s.inBundle (c2.gives s (portR u) 3 mask x.map (fun l => BitVec.ofNat 32 (noise l)) fun _ _ => 0)) ∧
     exec (.vknfF32 g src) s = .next (s.inBundle (c2.gives s (portR u) 3 mask x.map (fun l => rnd (.fin false (noise l / 2 ^ 8) (-24))) fun _ _ => 0))) ∧
    exec (.nrcinc g src) s = .next (s.inBundle (c1.modT fun t => { t with nrc := t.nrc + BitVec.ofNat 16 (a.lanes.lane 0).toNat }))

/-- The coordinate-map operations give the data operand, values and tangents unchanged, another map: `cmset` the image in the second operand, `cmaff` new moving entries of an
AFFINE map, each trapping with OPERAND when the result breaks the rules of a map; `cmtrn` exchanges the dimensions of two entries; `cmslc` moves the origin; `cmidx`
takes explicit coordinates of one dimension; `cmclr` drops the map; `cmst` reads the state and header. NONE and OPAQUE maps pass through as Table 10-6 says
(R117, R120, R228). That `cmset` of an image of state NONE keeps none of its other fields is the model's reading (log entry 47). -/
def Parts.CoordinateMapOperations : Prop :=
  ∀ (s : State) (b : Issue) (g : Grd) (src : Src) (mask : BitVec 64) (v : Val), Fires s b g src mask v →
    let u := faUnit g.slot.val
    let x := b.vl u 0
    let a := v.vval
    let Y : Nat → Lane := a.lanes.lane
    let c := b.latched src u 2 v
    let c1 := b.latched src u 1 v
    let k : Ctx := ⟨s.m, g.slot.val, u, mask, v⟩
    let remap : Issue → VVal → MapD → Issue := fun c x m => c.gives s (portR u) 3 mask m x.lanes.lane x.tgl
    let bad := s.inBundle (c.trapAt g.slot.val 0x06)
    (let m := mapOfLanes Y
     (m.setOk 64 = true → exec (.cmset g src) s = .next (s.inBundle (remap c x m.held))) ∧ (m.setOk 64 = false → exec (.cmset g src) s = .next bad)) ∧
    (let m : MapD := { x.map with mov := Vector.ofFn fun k => movOf (Y k.val), nmov := BitVec.ofNat 3 (Y 4).toNat }
     (x.map.st = .affine → m.setOk 64 = true → exec (.cmaff g src) s = .next (s.inBundle (remap c x m))) ∧
     (x.map.st = .affine → m.setOk 64 = false → exec (.cmaff g src) s = .next bad) ∧
     (x.map.st = .opq → exec (.cmaff g src) s = .next (s.inBundle (remap c x MapD.opaque_))) ∧
     (x.map.st = .none ∨ x.map.st = .indexed → exec (.cmaff g src) s = .next (s.inBundle (remap (c.lost true) x MapD.opaque_)))) ∧
    (let i := (Y 0).toNat % 4
     let j := (Y 0).toNat / 4 % 4
     (x.map.st = .none ∨ x.map.st = .opq → exec (.cmtrn g src) s = .next (s.inBundle (remap c x x.map)) ∧
        exec (.cmslc g src) s = .next (s.inBundle (remap c x x.map))) ∧
     (x.map.st = .affine ∨ x.map.st = .indexed →
       (x.map.nmov.toNat ≤ i ∨ x.map.nmov.toNat ≤ j → exec (.cmtrn g src) s = .next bad) ∧
       (i < x.map.nmov.toNat → j < x.map.nmov.toNat → ∃ m : MapD, exec (.cmtrn g src) s = .next (s.inBundle (remap c x m)) ∧
          (nth m.mov i).dim = (nth x.map.mov j).dim ∧ (nth m.mov j).dim = (nth x.map.mov i).dim ∧
          (∀ n < 4, n ≠ i → n ≠ j → nth m.mov n = nth x.map.mov n) ∧ (∀ n < 4, (nth m.mov n).str = (nth x.map.mov n).str ∧ (nth m.mov n).cnt = (nth x.map.mov n).cnt) ∧
          m.org = x.map.org ∧ m.ext = x.map.ext ∧ m.rank = x.map.rank ∧ m.nmov = x.map.nmov ∧ m.st = x.map.st) ∧
       exec (.cmslc g src) s = .next (s.inBundle (remap c x { x.map with org := Vector.ofFn fun d => nth x.map.org d.val + Y d.val })))) ∧
    (let d := (Y 0).toNat % 16
     let data := b.vl u 0
     let at_ := b.vl u 1
     let c3 := b.latched src u 3 v
     let base : MapD := if data.map.st = .affine ∨ data.map.st = .indexed then data.map else { MapD.none with rank := 1 }
     let m : MapD := { base with nmov := 1, mov := #v[⟨BitVec.ofNat 4 d, 0, 0⟩, ⟨0, 0, 0⟩, ⟨0, 0, 0⟩, ⟨0, 0, 0⟩] }
     (base.rank.toNat ≤ d → exec (.cmidx g src) s = .next (s.inBundle (c3.trapAt g.slot.val 0x06))) ∧
     (d < base.rank.toNat →
       let r := c3.claim k (portR u) m fun l => some (if at_.lanes.lane l = 0x80000000 then vacantRec else #v[at_.lanes.lane l, 0, 0, 0])
       exec (.cmidx g src) s = .next (s.inBundle (remap r.2 data r.1)))) ∧
    exec (.cmclr g src) s = .next (s.inBundle (remap c1 a MapD.none)) ∧
    exec (.cmst g src) s = .next (s.inBundle ((c1.gives s (portR u) 3 mask MapD.none (fun _ => BitVec.ofNat 32 a.map.st.num) fun _ _ => 0).gives s (portRx u) 3 mask
      MapD.none (fun _ => a.map.hdr.setWidth 32) fun _ _ => 0))

/-- Conversions with their status, noise by linear index, and the operations on maps. (R105, R106, R107, R108, R110, R111, R120, R227, R228, R229,
R230) -/
def Obligations.ConversionsNoiseAndMaps : Prop :=
  Parts.ConversionsAndNoise ∧ Parts.CoordinateMapOperations

/-! ### Vector memory (R232–R238) -/

/-- A vector load, plain or by descriptor, on lane addresses that are aligned and inside the scratchpad reads, in the guard's lanes, the words as they were before the bundle,
with the descriptor's map or none, and in a dual bundle with TGSTR its tangents TGSTR bytes apart; the result comes to `r` at i + LAT[6]. `vldf` waits whole while a
granule it reads is empty; `vldfc` then empties the granules at the boundary. Where a granule it reads is poisoned it delivers nothing, and the thread unwinds
with POISON when the value was due, and `vldfc` empties none (R233–R235, R238, R371). That the map of a descriptor of state NONE keeps none of its other fields is the model's
reading (log entry 47). -/
def Parts.VectorLoads : Prop :=
  ∀ (s : State) (b : Issue) (g : Grd) (src : Src) (mask : BitVec 64) (v : Val) (f : Nat → Int), Fires s b g src mask v →
    let u : FU := if g.slot = 3 then .vma else .vmb
    let d := b.vl u 0
    let w := v.vval.lanes.lane 0
    let k : Ctx := ⟨s.m, g.slot.val, u, mask, v⟩
    let t := s.m.t
    let c := b.latched src u 2 v
    let gs := granules (k.words f)
    vmAddrs w d = .ok f → k.checkAddrs f = none →
     ((∃ a ∈ k.words f, (s.m.probeSpad gs).t.spadPoison.contains (a / 16) = true) → ∃ a ∈ k.words f, ∀ i ∈ [Instr.vld g src, .vldf g src, .vldfc g src],
       i = .vld g src ∨ k.empties f = false → exec i s = .next (s.inBundle
       (({ c with now := c.now.probeSpad gs } : Issue).modT fun t =>
         { t with unw := t.unw ++ [⟨0x81, 0, none, BitVec.ofNat 64 a, t.time + (nth t.kern.lat 6).toNat⟩] }))) ∧
     ((∀ a ∈ k.words f, (s.m.probeSpad gs).t.spadPoison.contains (a / 16) = false) →
      let word : Nat → Nat → Lane := fun n l => if mask.getLsbD l then BitVec.ofNat 32 (Mem.num t.spad (f l + (n * t.tgstr.toNat : Nat)).toNat 4) else 0
      let r : Issue := ({ c with now := c.now.probeSpad gs } : Issue).resultV (portR u) 6 mask ⟨Vec.build (word 0), if w.getLsbD 31 then (mapOfLanes d.lanes.lane).held else MapD.none,
        if s.m.dual then (List.range s.m.tgMoves).map fun n => Vec.build (word (n + 1)) else [], false⟩
      exec (.vld g src) s = .next (s.inBundle r) ∧
      (k.empties f = false → exec (.vldf g src) s = .next (s.inBundle r) ∧
        exec (.vldfc g src) s = .next (s.inBundle { r.modT (fun t => { t with fe := t.fe.filter fun x => !gs.contains x }) with eaten := r.eaten ++ gs })) ∧
      (k.empties f = true → ∃ b' b'', exec (.vldf g src) s = .next (s.inBundle b') ∧ b'.stall.isSome ∧ exec (.vldfc g src) s = .next (s.inBundle b'') ∧ b''.stall.isSome))

/-- A vector store, plain or by descriptor, on lane addresses that are aligned and inside the scratchpad writes the guard's lanes, and in a dual bundle with TGSTR their tangents
TGSTR bytes apart, at the boundary; where several of its writes meet, primal before tangents and lower lanes before higher, the last one remains; every other byte
of the scratchpad stays, and so does everything else but poison that whole granules lose; `vstf` also fills the granules it writes (R233–R235, R238, R369). -/
def Parts.VectorStores : Prop :=
  ∀ (s : State) (b : Issue) (g : Grd) (src : Src) (mask : BitVec 64) (v : Val) (f : Nat → Int), Fires s b g src mask v →
    let u : FU := if g.slot = 3 then .vma else .vmb
    let x := b.vl u 0
    let w := v.vval.lanes.lane 0
    let k : Ctx := ⟨s.m, g.slot.val, u, mask, v⟩
    let c := b.latched src u 3 v
    let T := s.m.tgMoves
    let addr : Nat → Nat → Nat := fun n l => (f l + (n * s.m.t.tgstr.toNat : Nat)).toNat
    let live : Nat → Nat → Prop := fun n l => n ≤ T ∧ l < 64 ∧ mask.getLsbD l = true
    vmAddrs w (b.vl u 1) = .ok f → k.checkAddrs f = none →
      ∃ X P F, exec (.vst g src) s = .next (s.inBundle (c.modT fun t => { t with spad := X, spadPoison := P })) ∧
        exec (.vstf g src) s = .next (s.inBundle (c.modT fun t => { t with spad := X, spadPoison := P, fe := F })) ∧
        (∀ n l, live n l → (∀ n' l', live n' l' → (n < n' ∨ n = n' ∧ l < l') → addr n l + 4 ≤ addr n' l' ∨ addr n' l' + 4 ≤ addr n l) →
          Mem.num X (addr n l) 4 = (if n = 0 then x.lanes.lane l else x.tgl (n - 1) l).toNat) ∧
        (∀ a, (∀ n l, live n l → a < addr n l ∨ addr n l + 4 ≤ a) → Mem.read X a = Mem.read b.now.t.spad a) ∧
        (∀ y, y ∈ P → y ∈ c.now.t.spadPoison) ∧
        (∀ y, y ∈ F ↔ y ∈ b.now.t.fe ∨ ∃ n l, live n l ∧ y = addr n l / 16)

/-- What stops a vector load or store: in plain form an offset that is not aligned to 16 bytes traps with ALIGN; a descriptor that breaks R233 with OPERAND; an
address of a lane that the guard lets through that is not aligned to 4 bytes with ALIGN, and one that it, or a tangent moved with it, has outside the scratchpad with
WINDOW; whatever a full-empty load finds, it waits whole while a granule it could read is empty (R132, R233, R235, R238, R337). -/
def Parts.VectorAccessTraps : Prop :=
  ∀ (s : State) (b : Issue) (g : Grd) (src : Src) (mask : BitVec 64) (v : Val), Fires s b g src mask v →
    let u : FU := if g.slot = 3 then .vma else .vmb
    let w := v.vval.lanes.lane 0
    let k : Ctx := ⟨s.m, g.slot.val, u, mask, v⟩
    let T := s.m.tgMoves
    ∀ r ∈ [(Instr.vld g src, 2, 0, false), (.vldf g src, 2, 0, true), (.vldfc g src, 2, 0, true), (.vst g src, 3, 1, false), (.vstf g src, 3, 1, false)],
      let c := b.latched src u r.2.1 v
      let x := b.vl u r.2.2.1
      (w.getLsbD 31 = false → w.toNat % 2 ^ 21 % 16 ≠ 0 → exec r.1 s = .next (s.inBundle (c.trapAt g.slot.val 0x07))) ∧
      (w.getLsbD 31 = true → x.desc.map.descOk = false → exec r.1 s = .next (s.inBundle (c.trapAt g.slot.val 0x06))) ∧
      ∀ f, vmAddrs w x = .ok f →
        let e : Issue := if r.2.2.2 && k.empties f then c.stallBy .other else c
        ((∃ l < 64, mask.getLsbD l = true ∧ f l % 4 ≠ 0) → exec r.1 s = .next (s.inBundle (e.trapAt g.slot.val 0x07))) ∧
        ((∀ l < 64, mask.getLsbD l = true → f l % 4 = 0) →
          (∃ l < 64, mask.getLsbD l = true ∧ ∃ n ≤ T, f l + (n * s.m.t.tgstr.toNat : Nat) < 0 ∨ (s.m.spadSize : Int) < f l + (n * s.m.t.tgstr.toNat : Nat) + 4) →
          exec r.1 s = .next (s.inBundle (e.trapAt g.slot.val 0x08)))

/-- Scratchpad loads and stores in plain and descriptor form, with their frames and traps. (R132, R232, R233, R234, R235) -/
def Obligations.VectorMemory : Prop :=
  Parts.VectorLoads ∧ Parts.VectorStores ∧ Parts.VectorAccessTraps

/-- Full-empty bits: `vfe` reads the bits of 64 granules from an aligned offset as 1 and 0, 0 beyond the scratchpad's end; `vfeclr` empties, or with its fill bit fills, up to
4,096 granules inside the scratchpad and does nothing for none. A misaligned offset traps with ALIGN, a descriptor or a higher count with OPERAND, granules past
the end with WINDOW (R132, R133, R234). -/
def Parts.FullEmptyBits : Prop :=
  ∀ (s : State) (b : Issue) (g : Grd) (src : Src) (mask : BitVec 64) (v : Val), Fires s b g src mask v →
    let u : FU := if g.slot = 3 then .vma else .vmb
    let w := v.vval.lanes.lane 0
    let off : Nat := w.toNat % 2 ^ 21
    let o := (b.vl u 0).lanes.lane 0
    let n := o.toNat % 2 ^ 13
    let c1 := b.latched src u 1 v
    let c2 := b.latched src u 2 v
    let gs := (List.range n).map fun i => i + off / 16
    (w.getLsbD 31 = false → off % 16 = 0 → exec (.vfe g src) s = .next (s.inBundle (c1.resultV (portR u) 6 mask
      ⟨Vec.build fun l => if off + 16 * l + 16 ≤ s.m.spadSize ∧ (off / 16 + l) ∈ s.m.t.fe then 1 else 0, MapD.none, [], false⟩))) ∧
    (w.getLsbD 31 = true → exec (.vfe g src) s = .next (s.inBundle (c1.trapAt g.slot.val 0x06))) ∧
    (w.getLsbD 31 = false → off % 16 ≠ 0 → exec (.vfe g src) s = .next (s.inBundle (c1.trapAt g.slot.val 0x07))) ∧
    (n = 0 → w.getLsbD 31 = false → exec (.vfeclr g src) s = .next (s.inBundle c2)) ∧
    (1 ≤ n → n ≤ 4096 → w.getLsbD 31 = false → off % 16 = 0 → off + 16 * n ≤ s.m.spadSize → exec (.vfeclr g src) s = .next (s.inBundle
      (c2.modT fun t => if o.getLsbD 31 then { t with fe := gs.foldl (fun l x => insertNat x l) t.fe } else { t with fe := t.fe.filter fun x => !gs.contains x }))) ∧
    (4096 < n ∨ w.getLsbD 31 = true → exec (.vfeclr g src) s = .next (s.inBundle (c2.trapAt g.slot.val 0x06))) ∧
    (1 ≤ n → n ≤ 4096 → w.getLsbD 31 = false → off % 16 ≠ 0 → exec (.vfeclr g src) s = .next (s.inBundle (c2.trapAt g.slot.val 0x07))) ∧
    (1 ≤ n → n ≤ 4096 → w.getLsbD 31 = false → off % 16 = 0 → s.m.spadSize < off + 16 * n → exec (.vfeclr g src) s = .next (s.inBundle (c2.trapAt g.slot.val 0x08)))

/-- Coordinate records and landing loads: `vldq` of an INDEXED descriptor reads its lanes and gives the result the guard's records of the 64 at BASE in a side-store it claims; `vstq` writes
the records of the guard's lanes, 16 bytes each, and leaves every other byte of the scratchpad; both leave the records of other lanes alone; `vldl` lands 256 bytes of cluster SRAM or of device memory,
with tangents, in a register of its cluster at i + D. That the entries of the map of `vldq` have STR 0 is the model's reading (log entry 46) (R113, R120, R127, R236–R238). -/
def Parts.RecordsAndLandings : Prop :=
  ∀ (s : State) (b : Issue) (g : Grd) (src : Src) (mask : BitVec 64) (v : Val), Fires s b g src mask v →
    let u : FU := if g.slot = 3 then .vma else .vmb
    let k : Ctx := ⟨s.m, g.slot.val, u, mask, v⟩
    let x := b.vl u 0
    let w := v.vval.lanes.lane 0
    let off : Nat := w.toNat % 2 ^ 21
    let c := b.latched src u 2 v
    let t := s.m.t
    (let d := x.desc
     let f : Nat → Int := fun (l : Nat) => if w.getLsbD 31 then (off : Int) + (l : Int) * d.bstr 0 else ((off + 4 * l : Nat) : Int)
     let recs := (k.lanes.flatMap fun l => (List.range 4).map fun i => d.base + 16 * l + 4 * i) ++ k.words f
     let gs := granules recs
     let stops : Nat → Prop := fun e => exec (.vldq g src) s = .next (s.inBundle (c.trapAt g.slot.val e))
     let inside : Prop := ∀ l < 64, mask.getLsbD l = true → d.base + 16 * l + 16 ≤ s.m.spadSize
     let fits : Prop := if w.getLsbD 31 then d.bstr 0 % 4 = 0 else off % 16 = 0
     (d.map.st ≠ .indexed → stops 0x06) ∧ (d.map.st = .indexed → d.base % 16 ≠ 0 → stops 0x07) ∧
     (d.map.st = .indexed → d.base % 16 = 0 → ¬inside → stops 0x08) ∧ (d.map.st = .indexed → d.base % 16 = 0 → inside → ¬fits → stops 0x07) ∧
     (d.map.st = .indexed → d.base % 16 = 0 → inside → fits → k.checkAddrs f = none →
      (∀ a ∈ recs, (s.m.probeSpad gs).t.spadPoison.contains (a / 16) = false) →
      let r := ({ c with now := c.now.probeSpad gs } : Issue).claim k (portR u) (d.map.indexed 0) fun l =>
        if mask.getLsbD l then some (recAt t.spad (d.base + 16 * l)) else none
      exec (.vldq g src) s = .next (s.inBundle (r.2.resultV (portR u) 6 mask (k.loadVec f r.1))))) ∧
    (w.getLsbD 31 = true → exec (.vstq g src) s = .next (s.inBundle (c.trapAt g.slot.val 0x06))) ∧
    (w.getLsbD 31 = false → off % 16 ≠ 0 → exec (.vstq g src) s = .next (s.inBundle (c.trapAt g.slot.val 0x07))) ∧
    (w.getLsbD 31 = false → off % 16 = 0 → (∃ l < 64, mask.getLsbD l = true ∧ s.m.spadSize < off + 16 * l + 16) →
      exec (.vstq g src) s = .next (s.inBundle (c.trapAt g.slot.val 0x08))) ∧
    (w.getLsbD 31 = false → off % 16 = 0 → (∀ l < 64, mask.getLsbD l = true → off + 16 * l + 16 ≤ s.m.spadSize) →
      ∃ X P, exec (.vstq g src) s = .next (s.inBundle (c.modT fun t => { t with spad := X, spadPoison := P })) ∧
        (∀ l < 64, mask.getLsbD l = true → ∀ n < 4, Mem.num X (off + 16 * l + 4 * n) 4 = (nth (x.map.recOf (t.store x.map) l) n).toNat) ∧
        (∀ a, (∀ l < 64, mask.getLsbD l = true → a < off + 16 * l ∨ off + 16 * l + 16 ≤ a) → Mem.read X a = Mem.read b.now.t.spad a)) ∧
    (let a := (x.lanes.lane 0).toNat + ((b.vl u 1).lanes.lane 0).toNat % 2 ^ 16 * 2 ^ 32
     let D := w.toNat % 2 ^ 12
     let n := s.m.tgMoves
     let st := t.tgstr.toNat
     let e := b.latched src u 3 v
     let land : LandSrc → Issue := fun q => e.modT fun t => { t with land := t.land ++ [⟨.v (if g.slot = 3 then .a else .b) (Fin.ofNat 32 (w.toNat / 2 ^ 17 % 32)), t.time + D,
        mask, q, t.seq, t.time, e.now.isSec, none, none, e.now.dev.acyc, false, []⟩] }
     (a % 64 ≠ 0 → e.now.t.landings e.now.isSec < 16 → exec (.vldl g src) s = .next (s.inBundle (e.trapAt g.slot.val 0x07))) ∧
     (a % 64 = 0 → D ≠ 0 → e.now.t.landings e.now.isSec < 16 →
      (w.getLsbD 22 = true → a + n * st + 256 ≤ 0x800000 → exec (.vldl g src) s = .next (s.inBundle (land (.cluster a ((List.range n).map fun i => a + (i + 1) * st))))) ∧
      (∀ dva, w.getLsbD 22 = false → t.win? (BitVec.ofNat 64 a) (n * st + 256) true false = some dva →
        exec (.vldl g src) s = .next (s.inBundle (land (.vec dva ((List.range n).map fun i => dva + BitVec.ofNat 64 ((i + 1) * st))))))))

/-- Loads that consume and stores that fill, records loaded and stored with a register, and the vector landing load. (R113, R120, R133, R139, R235,
R236, R237, R238) -/
def Obligations.FullEmptyRecordsAndLandings : Prop :=
  Parts.FullEmptyBits ∧ Parts.RecordsAndLandings

/-! ### Squaring array and tiles (R103, R240–R263) -/

/-- Squares give products: half of the sum of the squared sums less both sums of squares is exactly the sum of the products, over the integers (R252). -/
def Parts.SquaresGiveProducts : Prop :=
  ∀ ps : List (Int × Int), squareP ps = (ps.map fun p => p.1 * p.2).sum

/-- A pass added into an accumulator tile without tangents: under an FP32 accumulator every element becomes its sum with the pass's value by IEEE 754 addition, or
the value itself under ZERO; under INT32 the exact sum, of which the old element is 0 under ZERO, and which saturates at −2^31 and 2^31 − 1 and then asks for CVTSAT. The status row and the map
stay (R103, R253). -/
def Parts.AccumulatorTakesAPass : Prop :=
  ∀ (t : ATile) (zero isInt : Bool) (vals : Vector (Vector Int 96) 96),
    let r := t.applyPasses 0 zero [⟨none, isInt, vals⟩]
    let old : Nat → Nat → Lane := fun i j => if zero then 0 else nth (nth t.rows i) j
    let sum : Nat → Nat → Int := fun i j => (old i j).toInt + nth (nth vals i) j
    r.1.status = t.status ∧ r.1.map = t.map ∧ r.1.sh = t.sh ∧
    (isInt = true → (∀ i < 96, ∀ j < 96, (nth (nth r.1.rows i) j).toInt = max (-(2 ^ 31)) (min (2 ^ 31 - 1) (sum i j))) ∧
      (r.2 = true ↔ ∃ i < 96, ∃ j < 96, sum i j < -(2 ^ 31) ∨ 2 ^ 31 - 1 < sum i j)) ∧
    (isInt = false → r.2 = false ∧
      ∀ i < 96, ∀ j < 96, nth (nth r.1.rows i) j = (if zero then BitVec.ofInt 32 (nth (nth vals i) j)
        else rnd ((fp (nth (nth t.rows i) j)).add (fp (BitVec.ofInt 32 (nth (nth vals i) j))))))

/-- The identity the squaring array rests on, and accumulation of one pass. (R103, R252, R253) -/
def Obligations.ArrayArithmetic : Prop :=
  Parts.SquaresGiveProducts ∧ Parts.AccumulatorTakesAPass

/-- Array operations on the thread's own tiles that no wait holds, whose control word is legal and whose operands fit FMT, outside the hazard window, start: mpc counts up, the
operand tiles are busy for the interval, and the passes are added into C 40 A-cycles after it and after every earlier trigger's, C being busy until then; with DEFER the
operation extends the chain. `mqsr` of a tile of this core's other place does likewise with 56, and takes zeros where no thread of the launch is placed. Where `mqss` reads
poison, nothing is added and the thread unwinds when the result was due. A control word with reserved bits traps with OPERAND, operands that do not fit with RSVCOMB
(R67, R244, R249, R250, R253, R255–R259, R371). -/
def Parts.ArrayTriggersStart : Prop :=
  ∀ (s : State) (b : Issue) (g : Grd) (src : Src) (mask : BitVec 64) (v : Val), Fires s b g src mask v →
    let ii := if s.m.dual && opFloating (bitsOf s.m.t.fmt.toNat 3 0) then 128 * (1 + 2 * s.m.t.T) else 128
    (∀ e n, s.m.core.arrLast = some (e, n) → max n ii ≤ s.m.core.cyc - e ∧ (nth s.m.t.kern.lat 10).toNat ≤ s.m.core.cyc - e) →
    let k : Ctx := ⟨s.m, g.slot.val, .mx, mask, v⟩
    let w := v.vval.lanes.lane 0
    let t := s.m.t
    let fmt := t.fmt
    let na := tileNo w 0
    let nb := tileNo w 3
    let nc := tileNo w 6
    let a := nth t.ot na.val
    let bt := nth t.ot nb.val
    let b2 := nth t.ot ((nb.val + 1) % 8)
    let nb2 : Fin 8 := Fin.ofNat 8 (nb.val + 1)
    let nT := if s.m.dual then t.T else 0
    let c := b.latched src .mx 1 v
    let now := c.now.t
    let free : List TileId → Prop := fun l => (∀ i ∈ l, now.busyFor i [.arrRead] = false) ∧ (w.getLsbD 9 = false → now.busyFor (.c nc) [.arrAcc] = false)
    let names : List (Fin 8) → List (Fin 8) := fun l => l ++ if w.getLsbD 9 then [] else [nc]
    let start : Issue → Nat → Issue := fun b fold =>
      let b := (b.modSt fun x => { x with mpc := x.mpc + 1 }).modC fun q => { q with arrLast := some (q.cyc, ii) }
      if w.getLsbD 9 then b else b.modT fun t => { t with busy := t.busy ++ [⟨.c nc, now.time + ii + fold, .arrAcc⟩] }
    let read : Issue → List TileId → Issue := fun b l => l.foldl (fun b i => b.modT fun t => { t with busy := t.busy ++ [⟨i, now.time + ii, .arrRead⟩] }) b
    let done : Issue → ArrayRun → Issue := fun b r =>
      if w.getLsbD 9 then b.modT fun t => { t with arr := { ((t.arr.after r (t.arr.chainN ≠ 0)).extend r fmt) with foldAt := t.time } }
      else b.modT fun t => { t with arr := { t.arr.after r false with foldAt := t.time + ii + 40 }
                                    tops := t.tops ++ [⟨max (t.time + ii + 40) (t.accDue nc), .acc nc (w.getLsbD 10) (nT = 0) r.passes⟩] }
    let stops : Instr → Issue → Nat → Prop := fun i c e => exec i s = .next (s.inBundle (c.trapAt g.slot.val e))
    (2 ^ 11 ≤ w.toNat → exec (.mqs g src) s = .next (s.inBundle
      (let b := (c.waitTile (.t na) [.arrRead]).waitTile (.t nb) [.arrRead]
       (if w.getLsbD 9 then b else b.waitTile (.c nc) [.arrAcc]).trapAt g.slot.val 0x06))) ∧
    (w.toNat < 2 ^ 11 → free [.t na, .t nb] →
      (k.arrayOk fmt false (w.getLsbD 9) a [bt] (names [na, nb]) = true →
        exec (.mqs g src) s = .next (s.inBundle (done (read (start c 40) [.t na, .t nb]) (runArray fmt nT a [bt] none)))) ∧
      (k.arrayOk fmt false (w.getLsbD 9) a [bt] (names [na, nb]) = false → exec (.mqs g src) s = .next (s.inBundle (c.trapAt g.slot.val 0x09)))) ∧
    (free [.t na, .t nb, .t nb2] →
      let fits : Prop := nb.val % 2 = 0 ∧ k.arrayOk fmt true (w.getLsbD 9) a [bt, b2] (names [na, nb, nb2]) = true
      (2 ^ 11 ≤ w.toNat → stops (.mqss g src) c 0x06) ∧ (w.toNat < 2 ^ 11 → ¬fits → stops (.mqss g src) c 0x09) ∧
      ∀ x, w.toNat < 2 ^ 11 → fits → sparseMeta k = .ok x →
        let e : Issue := { c with now := x.word.foldl (fun (m : Mach) (p : Nat × Nat) => m.probeHome p.1 p.2) (c.now.probeSpad x.gs) }
        (x.bad = none → exec (.mqss g src) s = .next (s.inBundle (done (read (start e 40) [.t na, .t nb, .t nb2]) (runArray fmt nT a [bt, b2] x.sel)))) ∧
        (∀ p, x.bad = some p → exec (.mqss g src) s = .next (s.inBundle ((read (start e 40) [.t na, .t nb, .t nb2]).modT fun t =>
          { t with unw := t.unw ++ [⟨0x81, 0, none, BitVec.ofNat 64 p, now.time + ii + 40⟩] })))) ∧
    (let c := b.latched src .mx 2 v
     let now := c.now.t
     let r := (b.vl .mx 0).lanes.lane 0
     let pl : Place := if r.getLsbD 3 then .p1 else .p0
     let far := s.m.placed pl
     let there : Prop := bitsOf r.toNat 2 0 = s.m.core.num % 8 ∧ far.live = true ∧ far.ref.launch = t.ref.launch
     let legal : Prop := r.toNat < 2 ^ 4 ∧ w.toNat < 2 ^ 11
     let ok : OTile → Prop := fun o => k.arrayOk fmt false false o [bt] [na, nb, nc] = true
     w.getLsbD 9 = false → now.busyFor (.t nb) [.arrRead] = false → now.busyFor (.c nc) [.arrAcc] = false →
      (¬legal → stops (.mqsr g src) c 0x06) ∧
      (legal → there → ¬ok (nth far.ot na.val) → stops (.mqsr g src) c 0x09) ∧ (legal → ¬there → ¬ok (zeroRemote fmt) → stops (.mqsr g src) c 0x09) ∧
      (legal → there → ok (nth far.ot na.val) → s.m.setPoisoned pl = false → exec (.mqsr g src) s = .next (s.inBundle
        ((read (start c 56) [.t nb]).modT fun t => { t with arr := { t.arr with foldAt := t.time + ii + 56 }
                                                            tops := t.tops ++ [⟨t.time + ii, .remote pl na (nth far.ot na.val) bt fmt nT nc (w.getLsbD 10)⟩] }))) ∧
      (legal → ¬there → ok (zeroRemote fmt) →
        let run := runArray fmt nT { zeroRemote fmt with sh := [] } [bt] none
        exec (.mqsr g src) s = .next (s.inBundle ((read (start c 56) [.t nb]).modT fun t =>
          { t with arr := { t.arr.after run false with foldAt := t.time + ii + 56 }
                   tops := t.tops ++ [⟨max (t.time + ii + 56) (t.accDue nc), .acc nc (w.getLsbD 10) (nT = 0) run.passes⟩] }))))

/-- The hazard monitor: an array trigger fewer A-cycles after the previous one than LAT[10] traps with HAZARD, and one later but within the
interval waits whole (R88). That the interval is the longer one of the previous trigger's and, for a trigger of tiles in a dual window, its own (R350), is the model's
reading (log entry 93). -/
def Parts.HazardMonitor : Prop :=
  ∀ (s : State) (b : Issue) (g : Grd) (src : Src) (mask : BitVec 64) (v : Val) (e n : Nat), Fires s b g src mask v → b.trap = none →
    s.m.core.arrLast = some (e, n) →
    let el := s.m.core.cyc - e
    let lat := (nth s.m.t.kern.lat 10).toNat
    let ii := if s.m.dual && opFloating (bitsOf s.m.t.fmt.toNat 3 0) then 128 * (1 + 2 * s.m.t.T) else 128
    ∀ r ∈ [(Instr.mqs g src, ii), (.mqss g src, ii), (.mqsr g src, ii), (.mkat g src, 0)],
      (el < lat → ∃ b', exec r.1 s = .next (s.inBundle b') ∧ b'.trap = some ⟨g.slot.val, 0x0A, 0, false, 0⟩) ∧
      (lat ≤ el → el < max n r.2 → ∃ b', exec r.1 s = .next (s.inBundle b') ∧ b'.stall.isSome)

/-- The triggers of the array from their checks to the passes they leave, and the triggers that come too early. (R67, R88, R244, R249, R250, R253,
R255, R256, R257, R258, R259, R371) -/
def Obligations.ArrayOperations : Prop :=
  Parts.ArrayTriggersStart ∧ Parts.HazardMonitor

/-- `mfold` of an open chain adds its fold into C after 40 A-cycles and after every earlier trigger's update, C being busy until then, and closes the chain; with no chain it does nothing. `mcrr` delivers words of the
correction registers or the alignment exponents, `msts` the status row, which its CLR bit clears, both at i + 2; `mkat` whose signature is the array's
delivers 0 at i + 168, or, where the device's array errs, 1 or 2 at i + 336, and one that is not the array's 2; with an open chain it traps with RSVCOMB; `mzer` clears a tile after 36 A-cycles. None of the tiles is busy, and no fold is under way (R244, R248, R252, R259, R260, R262, R263). -/
def Obligations.ArrayRegisters : Prop :=
  ∀ (s : State) (b : Issue) (g : Grd) (src : Src) (mask : BitVec 64) (v : Val), Fires s b g src mask v →
    let w := v.vval.lanes.lane 0
    let t := s.m.t
    let n : Fin 8 := Fin.ofNat 8 (w.toNat % 8)
    let c := b.latched src .mx 1 v
    let now := c.now.t
    let put : Issue → Nat → (Nat → Lane) → Issue := fun c d f => c.resultAt .mxr (now.time + d) (now.time + d) mask ⟨Vec.build f, MapD.none, [], false⟩
    (w.toNat < 2 ^ 4 → t.arr.chainN = 0 → exec (.mfold g src) s = .next (s.inBundle c)) ∧
    (w.toNat < 2 ^ 4 → t.arr.chainN ≠ 0 → now.busyFor (.c n) [.arrAcc] = false → exec (.mfold g src) s = .next (s.inBundle (c.modT fun t =>
      { t with busy := t.busy ++ [⟨.c n, now.time + 40, .arrAcc⟩], tops := t.tops ++ [⟨max (now.time + 40) (t.accDue n), .acc n (w.getLsbD 3) (!s.m.dual) [s.m.t.arr.fold]⟩]
               arr := { t.arr.close with foldAt := now.time + 40 } }))) ∧
    (w.toNat < 2 ^ 5 → t.arr.foldAt ≤ now.time → exec (.mcrr g src) s = .next (s.inBundle (put c 2 fun l =>
      let e := 64 * (w.toNat / 2 % 2) + l
      let j := 32 * (w.toNat / 4 % 4)
      if 96 ≤ e then 0
      else if w.getLsbD 4 then (nth (if w.getLsbD 0 then t.arr.eb else t.arr.ea) e).signExtend 32
      else BitVec.ofNat 32 ((nth (if w.getLsbD 0 then t.arr.cb else t.arr.ra) e).toNat / 2 ^ j)))) ∧
    (let st := (nth t.ct n.val).status
     w.toNat < 2 ^ 4 → now.busyFor (.c n) [] = false → (∀ k ∈ t.busy, k.tile = .c n → k.kind = .drain → k.till + 6 ≤ t.time) →
      let r := put c 2 fun l => match l with
        | 0 => if st = 0 then 0 else 1 | 1 => BitVec.ofNat 32 st.toNat | 2 => BitVec.ofNat 32 (st.toNat / 2 ^ 32) | 3 => BitVec.ofNat 32 (st.toNat / 2 ^ 64) | _ => 0
      exec (.msts g src) s = .next (s.inBundle (if w.getLsbD 3 then
        r.modT fun t => { t with ct := setNth t.ct n.val { nth t.ct n.val with status := 0 } } else r))) ∧
    (let c := b.latched src .mx 2 v
     let right : Prop := katSig ((b.vl .mx 0).lanes.lane 0) = v.vval.lanes.lane 1 ++ v.vval.lanes.lane 0
     let out : Nat → Issue := fun q =>
       let lat := if q = 0 then 168 else 336
       let e := ((c.modD fun d => { d with free := d.free + 1 }).modC fun k => { k with arrLast := some (k.cyc, if q = 0 then 128 else 296) }).resultAt .mxr
         (now.time + 168) (now.time + lat) mask ⟨Vec.build fun l => if l = 0 then BitVec.ofNat 32 q else 0, MapD.none, [], false⟩
       if q = 0 then e else e.modT fun t => { t with tops := t.tops ++ [⟨now.time + lat, .kat (q = 2)⟩] }
     (∀ e n, s.m.core.arrLast = some (e, n) → n ≤ s.m.core.cyc - e ∧ (nth t.kern.lat 10).toNat ≤ s.m.core.cyc - e) →
      (t.arr.chainN = 0 → right → ∃ q < 3, exec (.mkat g src) s = .next (s.inBundle (out q))) ∧
      (t.arr.chainN = 0 → ¬right → exec (.mkat g src) s = .next (s.inBundle (out 2))) ∧
      (t.arr.chainN ≠ 0 → exec (.mkat g src) s = .next (s.inBundle (c.trapAt g.slot.val 0x09)))) ∧
    (w.toNat < 2 ^ 3 → now.busyFor (.c n) [] = false → exec (.mzer g src) s = .next (s.inBundle (c.modT fun t =>
      { t with busy := t.busy ++ [⟨.c n, now.time + 36, .other⟩], tops := t.tops ++ [⟨now.time + 36, .zeroA n⟩] })))

/-- Tiles and scratchpad: with legal control words, offsets and pitches aligned and inside the scratchpad, and the tile not busy, `mldt` takes the bytes as they stand before the
bundle into its tile after 48 A-cycles, an accumulator after 144; `mstt` writes the tile as it stands at issue one A-cycle after that time; `mmov` writes a
256-byte chunk at i + 1 or reads it at i + 2 (R240, R243–R247). That an image of state NONE keeps none of its other fields, and how far a tile with shadow copies
reaches, are the model's (log entries 47 and 102). -/
def Parts.TilesAndScratchpad : Prop :=
  ∀ (s : State) (b : Issue) (g : Grd) (src : Src) (mask : BitVec 64) (v : Val), Fires s b g src mask v →
    let w := v.vval.lanes.lane 0
    let x := w.toNat
    let t := s.m.t
    let n : Fin 8 := Fin.ofNat 8 (x % 8)
    let acc := w.getLsbD 3
    let kc := x / 2 ^ 4 % 4
    let scl := x / 2 ^ 6 % 4
    let id : TileId := if acc then .c n else .t n
    let len := if acc then 144 else 48
    let grain := if scl = 3 then 8 else 16
    let copies := s.m.tileCopies n
    let st := t.tgstr.toNat
    (∀ off pitch,
      let c := b.latched src .mx 3 v
      let m := mapOfLanes (b.vl .mx 0).lanes.lane
      let gs := (List.range (copies + 1)).flatMap fun i => tileGranules acc kc scl (off + i * st) pitch
      let map := if w.getLsbD 8 then m.held else MapD.none
      x < 2 ^ 9 → sclOk acc kc scl = true → c.now.t.busyFor id [] = false → addressing s.m ((b.vl .mx 1).lanes.lane 0) 96 (rowBytes acc scl) grain 0 = .ok (off, pitch) →
      off + copies * st + tileReach acc kc scl pitch ≤ s.m.spadSize → (w.getLsbD 8 = true → m.setOk (if acc then 9216 else 96 * kcCols kc) = true) →
      (∀ y ∈ gs, (s.m.probeSpad gs).t.spadPoison.contains y = false) →
      exec (.mldt g src) s = .next (s.inBundle (({ c with now := c.now.probeSpad gs } : Issue).modT fun u =>
        { u with busy := u.busy ++ [⟨id, u.time + len, .other⟩], tops := u.tops ++ [⟨u.time + len,
            if acc then .setA n ⟨loadA t.spad off pitch, 0, map, (List.range copies).map fun i => loadA t.spad (off + (i + 1) * st) pitch⟩
            else .setO n ⟨(loadO t.spad off pitch kc scl).1, BitVec.ofNat 2 kc, BitVec.ofNat 2 scl, (loadO t.spad off pitch kc scl).2, map,
              (List.range copies).map fun i => (loadO t.spad (off + (i + 1) * st) pitch kc scl).1⟩⟩] }))) ∧
    (∀ off pitch,
      let c := b.latched src .mx 2 v
      let o := nth t.ot n.val
      let a := nth t.ct n.val
      x < 2 ^ 10 → w.getLsbD 8 = false → sclOk acc kc scl = true → (acc = false → o.scl.toNat = scl) →
      c.now.t.busyFor id (if acc then [] else [.arrRead]) = false → addressing s.m ((b.vl .mx 0).lanes.lane 0) 96 (rowBytes acc scl) grain 0 = .ok (off, pitch) →
      off + copies * st + tileReach acc kc scl pitch ≤ s.m.spadSize →
      exec (.mstt g src) s = .next (s.inBundle (c.modT fun u => { u with tops := u.tops ++ [⟨u.time + len + 1, .store (mergeRuns
        (if acc then storeA a.rows off pitch ++ (List.range copies).flatMap fun i => storeA (a.shadow i) (off + (i + 1) * st) pitch
         else storeO o.rows (some o.scales) off pitch kc scl ++ (List.range copies).flatMap fun i => storeO (o.shadow i) none (off + (i + 1) * st) pitch kc scl))
        (w.getLsbD 9)⟩] }))) ∧
    (let c := b.latched src .mx 2 v
     let y := b.vl .mx 0
     let ch := x % 2 ^ 8
     let n : Fin 8 := Fin.ofNat 8 (x / 2 ^ 8 % 8)
     let acc := w.getLsbD 11
     let kc := x / 2 ^ 13 % 4
     let id : TileId := if acc then .c n else .t n
     let sh := if s.m.dual then (List.range t.T).map fun i => Vec.build (y.tgl i) else []
     x < 2 ^ 15 → ch < (if acc then 144 else 48) →
      (w.getLsbD 12 = false → (acc = false → kc ≠ 3) → c.now.t.busyFor id [] = false → exec (.mmov g src) s = .next (s.inBundle (c.modT fun u =>
        { u with busy := u.busy ++ [⟨id, u.time + 1, .other⟩], tops := u.tops ++ [⟨u.time + 1,
            if acc then .chunkA n ch y.lanes sh else .chunkO n ch y.lanes (BitVec.ofNat 2 kc) sh⟩] }))) ∧
      (w.getLsbD 12 = true → c.now.t.busyFor id (if acc then [] else [.arrRead]) = false → exec (.mmov g src) s = .next (s.inBundle
        (c.resultAt .mxr (c.now.t.time + 2) (c.now.t.time + 2) mask
          ⟨if acc then chunkOfA (nth t.ct n.val).rows ch else chunkOfO (nth t.ot n.val).rows ch, MapD.none, [], false⟩))))

/-- Drains: with a legal control word and the tile not busy, `mdrn` of one row in FP32 to registers delivers columns 0 to 63 to `mx.r` and 64 to 95 to `mx.rx` at i + 9, rounded
and scaled as R103 says, with the maps of R261; `mdrn` to the scratchpad writes row q one A-cycle after i + 8 + q; in dual state the scaled shadow rows go with the row as
its tangents, for tiles 0 to 3 to the scratchpad (R103, R126, R244, R261). That SETF and the time of a row hold of its shadow rows too is the model's choice (log entry 107). -/
def Parts.Drains : Prop :=
  ∀ (s : State) (b : Issue) (g : Grd) (src : Src) (mask : BitVec 64) (v : Val), Fires s b g src mask v →
    let w := v.vval.lanes.lane 0
    let x := w.toNat
    let t := s.m.t
    let n : Fin 8 := Fin.ofNat 8 (x % 8)
    let a := nth t.ct n.val
    let row0 := x / 2 ^ 8 % 2 ^ 7
    let nr := x / 2 ^ 15 % 2 ^ 7
    let c := b.latched src .mx 2 v
    let time := c.now.t.time
    x < 2 ^ 23 → c.now.t.busyFor (.c n) [] = false → 1 ≤ nr → row0 + nr ≤ 96 →
    (∀ fmt wd, drainFmt (x / 2 ^ 4 % 2 ^ 4) = some (fmt, wd) →
      let row : Nat → List Nat × (Bool × Bool) × Bool := fun q => t.drainRow fmt a.map (nth t.tsC n.val) (nth a.rows (row0 + q)) (row0 + q)
      let shadow : Nat → Nat → Nat → Lane := fun i r cl => rnd ((fp (nth (nth (a.shadow i) r) cl)).mul (fp t.tscale))
      let tgs : Nat → List Vec := fun o => if s.m.dual then (List.range t.T).map fun i => Vec.build fun l => if o + l < 96 then shadow i row0 (o + l) else 0 else []
      let nT := if n.val < 4 then s.m.tgMoves else 0
      let ts := t.tgstr.toNat
      let stores : Nat → Nat → Nat → List TileOp := fun off pitch wd =>
        (List.range nr).map fun q => ⟨time + 9 + q, .store ((off + q * pitch, packEls wd (row q).1) :: (List.range nT).map fun i =>
          (off + q * pitch + (i + 1) * ts, (List.range 96).flatMap fun cl => leBytes 4 (shadow i (row0 + q) cl).toNat)) (w.getLsbD 22)⟩
      (w.getLsbD 3 = true → nr = 1 → x / 2 ^ 4 % 2 ^ 4 = 0 → (row 0).2.2 = false →
        let m := drainMaps a.map row0
        let c := (c.status (row 0).2.1.1 (row 0).2.1.2 m.2.2).modT fun u => { u with busy := u.busy ++ [⟨.c n, time + 9, .drain⟩] }
        exec (.mdrn g src) s = .next (s.inBundle ((c.resultAt .mxr (time + 9) (time + 9) mask
          ⟨Vec.build fun l => BitVec.ofNat 32 ((row 0).1.getD l 0), m.1, tgs 0, false⟩).resultAt .mxrx (time + 9) (time + 9) mask
          ⟨Vec.build fun l => BitVec.ofNat 32 ((row 0).1.getD (64 + l) 0), m.2.1, tgs 64, false⟩))) ∧
      (∀ off pitch, w.getLsbD 3 = false → addressing s.m ((b.vl .mx 0).lanes.lane 0) nr (12 * wd) 16 (max (12 * wd) (if nT = 0 then 0 else nT * ts + 384)) = .ok (off, pitch) →
        (∀ q < nr, (row q).2.2 = false) →
        exec (.mdrn g src) s = .next (s.inBundle (((c.status ((List.range nr).any fun q => (row q).2.1.1) ((List.range nr).any fun q => (row q).2.1.2) false).modT
          fun u => { u with busy := u.busy ++ [⟨.c n, time + 8 + nr, .drain⟩] }).modT fun u => { u with tops := u.tops ++ stores off pitch wd }))))

/-- Tiles from and to the scratchpad and registers, and accumulator drains. (R103, R240, R243, R244, R245, R246, R247, R261) -/
def Obligations.TilesAndDrains : Prop :=
  Parts.TilesAndScratchpad ∧ Parts.Drains

/-! ### Transform unit (R264–R270) -/

/-- The transform unit with its previous beat over: `xcvt` converts 64 values and packs them from byte 0, `xexp` widens one group of a packed vector exactly, `xqnt` quantises to
an MX format with its scales in `rx`, or in two parts to a q4k group; beats, maps, status and latency as R264 to R268 say; a control word with reserved bits or a
group out of range traps with OPERAND (R92, R95–R100, R104–R108, R264–R268). That a block of an MX format with a NaN sets no CVTNAN and that `xexp.bf16` and `xexp.f16` read a latch
that a scalar source wrote as packed are the model's readings (log entry 57), and so is the free choice of the code for a zero of `xqnt.q4k` (log entry 8). -/
def Parts.TransformConversions : Prop :=
  ∀ (s : State) (b : Issue) (g : Grd) (src : Src) (mask : BitVec 64) (v : Val), Fires s b g src mask v →
    (∀ e n, s.m.core.xfLast = some (e, n) → n ≤ s.m.core.cyc - e) →
    let t := s.m.t
    let dn : Nat := if s.m.dual then 1 + t.T else 1
    let busy : Nat → Nat → Issue := fun nops beat => (b.latched src .xf nops v).modC fun k => { k with xfLast := some (k.cyc, beat * dn) }
    let a := v.vval
    let w := (b.vl .xf 0).lanes.lane 0
    (∀ r ∈ ([(.xcvtBf16 g src, .flt bf16 16, true), (.xcvtF16 g src, .flt f16 16, true), (.xcvtE4m3 g src, .flt e4m3 8, false), (.xcvtE5m2 g src, .flt e5m2 8, false),
        (.xcvtE2m3 g src, .flt e2m3 8, false), (.xcvtE3m2 g src, .flt e3m2 8, false), (.xcvtE2m1 g src, .flt e2m1 4, false), (.xcvtI8 g src, .int 8 true, false),
        (.xcvtN8 g src, .int 8 false, false), (.xcvtI4 g src, .int 4 true, false), (.xcvtN4 g src, .int 4 false, false)] : List (Instr × PFmt × Bool)),
      let rs := t.convert r.2.1.tgt (a.map.lin (t.store a.map)) ((List.range 64).map fun l => some (fp (a.lanes.lane l)))
      let m := a.map.pack (32 / r.2.1.wd)
      exec r.1 s = .next (s.inBundle (((busy 1 2).status (cvtStatus rs).1 (cvtStatus rs).2 m.2).gives s .xfr 7 mask m.1
        (packLane r.2.1.wd 64 fun e => match rs[e]? with | some (some q) => q.code | _ => 0)
        (if r.2.2 then fun k => packLane 16 64 fun e => bf16.rne (fp (a.tgl k e)) else fun _ _ => 0)))) ∧
    (∀ r ∈ ([(.xexpBf16 g src, .flt bf16 16, true), (.xexpF16 g src, .flt f16 16, true), (.xexpE4m3 g src, .flt e4m3 8, false), (.xexpE5m2 g src, .flt e5m2 8, false),
        (.xexpE2m3 g src, .flt e2m3 8, false), (.xexpE3m2 g src, .flt e3m2 8, false), (.xexpE2m1 g src, .flt e2m1 4, false), (.xexpI8 g src, .int 8 true, false),
        (.xexpN8 g src, .int 8 false, false), (.xexpI4 g src, .int 4 true, false), (.xexpN4 g src, .int 4 false, false)] : List (Instr × PFmt × Bool)),
      let f := r.2.1
      let n := w.toNat % 8
      let m := a.map.unpack (32 / f.wd) n
      (w.toNat < 8 → n < 32 / f.wd → exec r.1 s = .next (s.inBundle (((busy 2 2).lost m.2).gives s .xfr 8 mask m.1
        (fun l => rnd (f.val (f.code a (64 * n + l))))
        (if r.2.2 then fun k l => rnd (bf16.dec ((a.tgl k ((64 * n + l) / 2)).toNat / 2 ^ (16 * ((64 * n + l) % 2)) % 2 ^ 16)) else fun _ _ => 0)))) ∧
      (8 ≤ w.toNat ∨ 32 / f.wd ≤ n → exec r.1 s = .next (s.inBundle ((busy 2 2).trapAt g.slot.val 0x06)))) ∧
    (let n := w.toNat % 8
     let base := 8 * (w.toNat / 8)
     let s256 := f32.dec (leNat ((List.range 4).map fun i => BitVec.ofNat 8 (a.byte (base + 132 + i))))
     (w.toNat < 16 → n < 4 → exec (.xexpQ4k g src) s = .next (s.inBundle ((busy 2 2).gives s .xfr 8 mask MapD.none
      (fun l => q4kVal (q4kD s256 (a.byte (base + 128 + n))) (a.byte (base + 32 * n + l / 2) / 16 ^ (l % 2) % 16)) fun _ _ => 0))) ∧
     (16 ≤ w.toNat ∨ 4 ≤ n → exec (.xexpQ4k g src) s = .next (s.inBundle ((busy 2 2).trapAt g.slot.val 0x06)))) ∧
    (let x := b.vl .xf 1
     let val : VVal → Nat → Nat → List Fp := fun v l n => (List.range n).map fun i => fp (v.lanes.lane (l + i))
     let lin : VVal → Nat → Word := fun v l => v.map.lin (t.store v.map) l
     let at_ : List Nat → Nat → Nat := fun l i => l.getD i 0
     ∀ r ∈ [(Instr.xqntE4m3 g src, MxT.flt e4m3 8 8), (.xqntE5m2 g src, .flt e5m2 8 15), (.xqntE2m3 g src, .flt e2m3 8 2), (.xqntE3m2 g src, .flt e3m2 8 4),
        (.xqntE2m1 g src, .flt e2m1 4 2), (.xqntI8 g src, .i8)],
      let lo := t.mxBlock r.2 (lin a) (val a 0 32)
      let hi := t.mxBlock r.2 (fun i => lin a (32 + i)) (val a 32 32)
      let m := a.map.pack (32 / r.2.wd)
      (w.toNat = 0 → exec r.1 s = .next (s.inBundle ((((busy 3 2).status false (lo.2.2 || hi.2.2) m.2).gives s .xfr 7 mask m.1
        (packLane r.2.wd (lo.2.1 ++ hi.2.1).length (at_ (lo.2.1 ++ hi.2.1))) fun _ _ => 0).gives s .xfrx 7 mask MapD.none
        (fun l => if l = 0 then BitVec.ofNat 32 (lo.1 + 256 * hi.1) else 0) fun _ _ => 0))) ∧
      (2 ≤ w.toNat ∨ w.toNat = 1 ∧ r.1 ≠ .xqntE4m3 g src → exec r.1 s = .next (s.inBundle ((busy 3 2).trapAt g.slot.val 0x06))) ∧
      (let q := t.mxBlock r.2 (fun i => if i < 64 then lin x i else lin a (i - 64)) (val x 0 64 ++ val a 0 64)
       w.toNat = 1 → r.1 = .xqntE4m3 g src → exec r.1 s = .next (s.inBundle ((((busy 3 2).status false q.2.2 false).gives s .xfr 7 mask MapD.none
        (packLane 8 q.2.1.length (at_ q.2.1)) fun _ _ => 0).gives s .xfrx 7 mask MapD.none
        (fun l => if l = 0 then BitVec.ofNat 32 q.1 else 0) fun _ _ => 0)))) ∧
    (let x := b.vl .xf 1
     let st := s.m.st.stage
     (2 ≤ w.toNat → exec (.xqntQ4k g src) s = .next (s.inBundle ((busy 3 8).trapAt g.slot.val 0x06))) ∧
     (w.toNat = 0 → exec (.xqntQ4k g src) s = .next (s.inBundle ((busy 3 8).modSt fun y => { y with stage := #v[x.lanes, a.lanes] }))) ∧
     (let q := q4kGroup s.m.dev.free (([nth st 0, nth st 1, x.lanes, a.lanes].flatMap fun v => v.toList).map fp)
      w.toNat = 1 → exec (.xqntQ4k g src) s = .next (s.inBundle (((((busy 3 8).modD fun d => { d with free := d.free + 256 }).modSt fun y => { y with stage := Vector.replicate 2 (Vec.splat 0) }).status q.2.1 q.2.2 false).gives s
        .xfr 7 mask MapD.none (packLane 8 136 fun e => q.1.getD e 0) fun _ _ => 0))))

/-- Transposes and interleaves with the previous beat over: `xtrn` exchanges rows and columns of 16 × 16 bytes, 8 × 8 lanes, or 16 × 16 halves of two operands; `xzip` interleaves the
elements of two operands and `xunz` takes the even ones apart from the odd ones, so that it undoes `xzip`; the maps are those of R269 and R270, and tangents move with
lanes and 16-bit elements (R264, R269, R270). -/
def Parts.TransposesAndInterleaves : Prop :=
  (∀ n e, e < 2 * n → unzFrom n (zipFrom n e) = e ∧ zipFrom n (unzFrom n e) = e) ∧
  ∀ (s : State) (b : Issue) (g : Grd) (src : Src) (mask : BitVec 64) (v : Val), Fires s b g src mask v →
    (∀ e n, s.m.core.xfLast = some (e, n) → n ≤ s.m.core.cyc - e) →
    let dn : Nat := if s.m.dual then 1 + s.m.t.T else 1
    let busy : Nat → Nat → Issue := fun nops beat => (b.latched src .xf nops v).modC fun k => { k with xfLast := some (k.cyc, beat * dn) }
    let a := v.vval
    let x := b.vl .xf 0
    let keep : MapD → Option MapD → MapD × Bool := fun m t => match t with | some q => (q, false) | none => m.elseLost
    let pair := mapPair x.map a.map
    let half : (Nat → Lane) → (Nat → Lane) → Nat → Nat := fun f h e =>
      (if e < 128 then f (e / 2) else h ((e - 128) / 2)).toNat / 2 ^ (16 * (e % 2)) % 2 ^ 16
    let byte : (Nat → Lane) → (Nat → Lane) → Nat → Nat := fun f h e => (if e < 256 then f (e / 4) else h ((e - 256) / 4)).toNat / 2 ^ (8 * (e % 4)) % 2 ^ 8
    let X := x.lanes.lane
    let A := a.lanes.lane
    (let m := keep a.map (a.map.transposed 4 16)
     exec (.xtrnN8 g src) s = .next (s.inBundle (((busy 1 4).lost m.2).gives s .xfr 9 mask m.1 (packLane 8 256 fun e => byte A A (16 * (e % 16) + e / 16)) fun _ _ => 0))) ∧
    (let m := keep a.map (a.map.transposed 8 8)
     exec (.xtrnN32 g src) s = .next (s.inBundle (((busy 1 4).lost m.2).gives s .xfr 9 mask m.1 (fun l => A (8 * (l % 8) + l / 8)) fun k l => a.tgl k (8 * (l % 8) + l / 8)))) ∧
    (∃ m mx lost, exec (.xtrnN16 g src) s = .next (s.inBundle ((((busy 2 4).lost lost).gives s .xfr 9 mask m
        (packLane 16 128 fun e => half X A (16 * (e % 16) + e / 16)) fun k => packLane 16 128 fun e => half (x.tgl k) (a.tgl k) (16 * (e % 16) + e / 16)).gives s .xfrx 9 mask mx
        (packLane 16 128 fun e => half X A (16 * ((128 + e) % 16) + (128 + e) / 16)) fun k => packLane 16 128 fun e => half (x.tgl k) (a.tgl k) (16 * ((128 + e) % 16) + (128 + e) / 16))) ∧
      (x.map.transposed 8 8 = none → m = pair.1 ∧ mx = pair.1 ∧ lost = pair.2) ∧
      (∀ q, x.map.transposed 8 8 = some q →
        (a.map.same (x.map.advance (nth x.map.mov 1).dim.toNat 8) = true → m = q ∧ mx = q.advance (nth x.map.mov 0).dim.toNat 8 ∧ lost = false) ∧
        (a.map.same (x.map.advance (nth x.map.mov 1).dim.toNat 8) = false → m = pair.1 ∧ mx = pair.1 ∧ lost = pair.2))) ∧
    (∀ r ∈ [(Instr.xzipN8 g src, zipFrom 256), (.xunzN8 g src, unzFrom 256)],
      exec r.1 s = .next (s.inBundle ((((busy 2 2).lost pair.2).gives s .xfr 8 mask pair.1 (packLane 8 256 fun e => byte X A (r.2 e)) fun _ _ => 0).gives s .xfrx 8 mask pair.1
        (packLane 8 256 fun e => byte X A (r.2 (256 + e))) fun _ _ => 0))) ∧
    (∀ r ∈ [(Instr.xzipN16 g src, zipFrom 128), (.xunzN16 g src, unzFrom 128)],
      exec r.1 s = .next (s.inBundle ((((busy 2 2).lost pair.2).gives s .xfr 8 mask pair.1 (packLane 16 128 fun e => half X A (r.2 e))
        fun k => packLane 16 128 fun e => half (x.tgl k) (a.tgl k) (r.2 e)).gives s .xfrx 8 mask pair.1 (packLane 16 128 fun e => half X A (r.2 (128 + e)))
        fun k => packLane 16 128 fun e => half (x.tgl k) (a.tgl k) (r.2 (128 + e)))))

/-- The operations of the transform unit with its previous beat over. (R92, R95, R104, R105, R108, R264, R265, R266, R267, R268, R269, R270) -/
def Obligations.TransformUnit : Prop :=
  Parts.TransformConversions ∧ Parts.TransposesAndInterleaves

/-! ### Engine commands (R271–R291) -/

/-- The engine commands with a block: when the place's queue has room, the block is aligned and inside the scratchpad, the milestone is one, and the block's counts, kinds, offsets
and ranges are legal, the command enters the engine queue with its rows translated at issue and its signals, for `wind` the spool being bound as well
(R271–R274, R278, R280–R284, R286). A copy of no elements checks no range; a skipped index has no row; `kvg` whose table entries wait for earlier
operations issues and is read behind them (log entry 61). -/
def Parts.BlockCommandsEnterTheQueue : Prop :=
  ∀ (s : State) (b : Issue) (g : Grd) (src : Src) (mask : BitVec 64) (v : Val) (ms : Option Word), Fires s b g src mask v →
    let c := b.latched src .en 3 v
    let w := v.word
    let x := w.toNat
    let o := (b.sl .en 0).toNat
    let t := s.m.t
    let S := s.m.spadSize
    let f : Nat → Nat → Nat → Nat := fun n i k => leNat (((Mem.readN t.spad o n).drop i).take k)
    let adr : Nat → Word := BitVec.ofNat 64
    let sig : Sig := ⟨ms, w.getLsbD 6 && w.getLsbD 7, if w.getLsbD 5 then some (Fin.ofNat 32 (x % 32)) else none⟩
    let put : Nat → Nat × Nat → CmdK → State := fun n l k =>
      s.inBundle (({ c with now := c.now.probeSpad (unitsOf o n 16 ++ unitsOf l.1 l.2 16) } : Issue).enqueue k sig)
    s.m.queueFull = false → o % 64 = 0 → s.m.cmdMs w (b.sl .en 1) = .ok ms →
    -- wind
    (let blk := Mem.readN t.spad o 256
     let n := x / 2 ^ 16 % 16
     let dir := w.getLsbD 20
     let handle := w.getLsbD 21
     let sp := spoolOf blk dir handle 0
     let bound : Issue := { c.modT (fun t => { t with spools := setNth t.spools n (spoolOf blk dir handle t.seq) }) with
        now := (c.modT fun t => { t with spools := setNth t.spools n (spoolOf blk dir handle t.seq) }).now.probeSpad (unitsOf o 256 16) }
     o + 256 ≤ S → (nth t.spools n).bound = false → sp.ring % 256 = 0 → 2 ≤ sp.nslot → sp.nslot ≤ 4096 → sp.ring + 256 * sp.nslot ≤ S →
      (handle = true → exec (.wind g src) s = .next (s.inBundle (bound.modT fun t => { t with seq := t.seq + 1 }))) ∧
      (handle = false → (∀ d < 6, 1 ≤ sp.cnt d ∧ sp.cnt d ≤ 65535 ∧ (sp.f8 (0xB0 + 8 * d)).toNat % 64 = 0) → (sp.f8 0x88).toNat % 64 = 0 →
        (mapOfBytes (blk.take 136)).setOk 64 = true → (sp.dva t 0).isSome → exec (.wind g src) s = .next (s.inBundle (bound.enqueue (.wind (Fin.ofNat 16 n)) sig)))) ∧
    -- copy
    (let f := f 320
     let sk := x / 2 ^ 16 % 4
     let dk := x / 2 ^ 18 % 4
     let nd := f 0x10 4
     let cnt := (List.range nd).map fun d => f (0x18 + 4 * d) 4
     let sd : Nat → List Int := fun i => (List.range (nd - 1)).map fun d => (BitVec.ofNat 64 (f (i + 8 * d) 8)).toInt
     let side : Nat → Nat → List Int → Bool → Option Word := fun kind base st wr =>
        if kind = 0 then t.winSpan (adr base) (cnt.tail.zip st) (cnt.headD 0) (!wr) wr
        else if localSpan (adr base).toNat (cnt.tail.zip st) (cnt.headD 0) (if kind = 1 then S else 0x800000) then some (adr base) else none
     o + 320 ≤ S → sk < 3 → dk < 3 → 1 ≤ nd → nd ≤ 14 →
      (cnt.foldl (· * ·) 1 = 0 → exec (.copy g src) s = .next (put 320 (0, 0) (.copy sk dk (adr (f 0 8)) (adr (f 8 8)) cnt (sd 0x50) (sd 0xB8)))) ∧
      (∀ p q, cnt.foldl (· * ·) 1 ≠ 0 → cnt.foldl (· * ·) 1 < 2 ^ 40 → side sk (f 0 8) (sd 0x50) false = some p → side dk (f 8 8) (sd 0xB8) true = some q →
        exec (.copy g src) s = .next (put 320 (0, 0) (.copy sk dk p q cnt (sd 0x50) (sd 0xB8))))) ∧
    -- gath, scat
    (∀ (dva : Nat → Word) (wr : Bool),
      let f := f 64
      let n := f 0x14 4
      let len := f 0x20 4
      let ix : Nat → Nat := fun r => Mem.num t.spad (f 0x10 4 + 4 * r) 4
      let list := (f 0x10 4, 4 * n)
      let row : Nat → Option Word := fun r => if ix r = 0xFFFFFFFF then none else some (dva r)
      o + 64 ≤ S → 1 ≤ n → n ≤ 4096 → 4 ≤ len → len ≤ 65536 → len % 4 = 0 → f 0x10 4 % 4 = 0 → f 0x10 4 + 4 * n ≤ S →
      (∀ r < n, ix r ≠ 0xFFFFFFFF → f 0x18 4 + r * f 0x1C 4 + len ≤ S ∧ t.win? (adr (f 0 8 + ix r * f 8 8)) len (!wr) wr = some (dva r)) →
      (wr = true → exec (.scat g src) s = .next (put 64 list (.scat ((List.range n).map row) (f 0x18 4) (f 0x1C 4) len))) ∧
      (wr = false → f 0x24 4 = 0xFFFFFFFF → exec (.gath g src) s = .next (put 64 list (.gath ((List.range n).map fun r => (row r, ix r)) (f 0x18 4) (f 0x1C 4) len none))) ∧
      (wr = false → f 0x24 4 ≠ 0xFFFFFFFF → f 0x24 4 % 16 = 0 → f 0x24 4 + 16 * n ≤ S →
        exec (.gath g src) s = .next (put 64 list (.gath ((List.range n).map fun r => (row r, ix r)) (f 0x18 4) (f 0x1C 4) len (some (f 0x24 4)))))) ∧
    -- kvg
    (∀ (dva : Word) (row : Nat → Option Word × Nat),
      let f := f 64
      let n := f 0x24 4
      let t0 := f 0x20 4
      let len := f 0x1C 4
      let nb := (t0 + n - 1) / 16 + 1 - t0 / 16
      let r := c.now.mapEntries t.time dva nb
      o + 64 ≤ S → 1 ≤ n → n ≤ 4096 → 16 ≤ len → len ≤ 8192 → len % 16 = 0 → t.win? (adr (f 0 8 + 4 * (t0 / 16))) (4 * nb) true false = some dva →
      ((∃ p : Option Word, EntryR.wait p ∈ r.1) → (∀ p : Option Word, EntryR.wait p ∈ r.1 → p = none) →
        (f 0x30 4 = 0xFFFFFFFF ∨ f 0x30 4 % 16 = 0 ∧ f 0x30 4 + 16 * n ≤ S) → exec (.kvg g src) s = .next (s.inBundle
          (({ c with now := c.now.probeSpad (unitsOf o 64 16) } : Issue).kvgLate (Mem.readN t.spad o 64) dva nb sig))) ∧
      ((∀ p : Option Word, EntryR.wait p ∉ r.1) →
      (∀ i < n, s.m.tokenRow (Mem.readN t.spad o 64) r.1 t0 i = .ok (row i)) →
      let q : Option Nat → State := fun ro => s.inBundle (({ c with now := r.2.probeSpad (unitsOf o 64 16) } : Issue).enqueue
        (.kvg ((List.range n).map row) (f 0x28 4) (f 0x2C 4) len ro) sig)
      (f 0x30 4 = 0xFFFFFFFF → exec (.kvg g src) s = .next (q none)) ∧
      (f 0x30 4 ≠ 0xFFFFFFFF → f 0x30 4 % 16 = 0 → f 0x30 4 + 16 * n ≤ S → exec (.kvg g src) s = .next (q (some (f 0x30 4)))))) ∧
    -- cmpx
    (let f := f 16
     let n := f 8 4
     let d := x / 2 ^ 17 % 8
     o + 16 ≤ S → f 0 4 % 256 = 0 → f 4 4 % 32 = 0 → 1 ≤ n → n ≤ 4096 → d ≠ 7 → f 0 4 + 256 * n ≤ S → f 4 4 + n * (64 + 32 * d) ≤ 0x800000 →
      exec (.cmpx g src) s = .next (put 16 (0, 0) (.cmpx (w.getLsbD 16) (f 0 4) (f 4 4) n (64 + 32 * d)))) ∧
    -- xchg
    (∀ dva : Nat → Word,
      let f := f 64
      let n := f 0x14 4
      let ne := f 0x18 4
      let ent := if w.getLsbD 17 then 8 else 4
      let bytes := ne / 128 * 132
      o + 64 ≤ S → 1 ≤ n → n ≤ 4096 → 128 ≤ ne → ne ≤ 16384 → ne % 128 = 0 → f 0x20 4 % 64 < 36 → f 0x28 4 % 4 = 0 → bytes ≤ f 0x28 4 →
      f 0x10 4 + ent * n ≤ S → f 0x24 4 + (n - 1) * f 0x28 4 + bytes ≤ 0x800000 →
      (∀ r < n, t.win? (adr (f 0 8 + Mem.num t.spad (f 0x10 4 + ent * r + (if w.getLsbD 17 then 4 else 0)) 4 * f 8 8)) (ne * (if w.getLsbD 16 then 2 else 4)) true false =
        some (dva r)) →
      exec (.xchg g src) s = .next (put 64 (f 0x10 4, ent * n) (.xchg (w.getLsbD 16) ((List.range n).map dva) ne (f 0x1C 4) (f 0x20 4 % 64) (f 0x24 4) (f 0x28 4) (adr (f 0x30 8))))) ∧
    -- coll
    (∀ skn sb rb : Word,
      let f := f 64
      let op := x / 2 ^ 16 % 4
      let red := x / 2 ^ 18 % 4
      let dt := x / 2 ^ 20 % 4
      let nb := f 0x18 8
      let p := match s.m.xlate t.asid skn false t.priv with | .ok pa _ _ => max 1 (s.m.dev.num pa 4) | _ => 1
      o + 64 ≤ S → t.win? (adr (f 0 8)) 64 true false = some skn → (t.memberAt skn).isSome → nb ≠ 0 → nb % 4 = 0 → red ≠ 3 → dt ≠ 3 →
      t.win? (adr (f 8 8)) ((if 2 ≤ op then p else 1) * nb) true false = some sb → t.win? (adr (f 0x10 8)) ((if op = 1 ∨ op = 3 then p else 1) * nb) false true = some rb →
      exec (.coll g src) s = .next (put 64 (0, 0) (.coll op red dt skn sb rb nb)))

/-- The engine commands without a block: when the place's queue has room and the milestone is one, `drain` and `fence` enter the thread's outbound order with their scope and
signals, `prefh`, `migr` and `enq` the engine queue; `spadv` of a bound spool, with NWAIT slots there, moves its position by NADV; the unbinding of a spool takes its
binding away at the boundary and enters the queue (R162, R271–R273, R276, R277, R289–R291). -/
def Parts.PlainCommandsEnterTheQueue : Prop :=
  ∀ (s : State) (b : Issue) (g : Grd) (src : Src) (mask : BitVec 64) (v : Val) (ms : Option Word), Fires s b g src mask v →
    let c := b.latched src .en 3 v
    let w := v.word
    let x := w.toNat
    let arv := w.getLsbD 6 && w.getLsbD 7
    let flag : Option (Fin 32) := if w.getLsbD 5 then some (Fin.ofNat 32 (x % 32)) else none
    let sig : Sig := ⟨ms, arv, flag⟩
    let order := ms.map fun a => (a, arv)
    let n : Fin 16 := Fin.ofNat 16 (x / 2 ^ 16)
    s.m.queueFull = false →
    (let sp := nth s.m.t.spools n.val
     let nwait := x / 2 ^ 21 % 2 ^ 12
     let nadv := x / 2 ^ 33 % 2 ^ 12
     let k := BitVec.ofNat 32 nadv
     sp.bound = true → nadv ≤ nwait → nwait ≤ (if w.getLsbD 20 then sp.nslot - sp.filled else sp.filled) → exec (.spadv g src) s = .next (s.inBundle (c.modT fun t =>
      let y := nth t.spools n.val
      { t with spools := setNth t.spools n.val (if w.getLsbD 20 then
          { y with wpos := y.wpos + k, skip := y.skip ++ (if y.dir && !y.handle then (List.range nadv).map fun i => y.wpos.toNat + i else []) }
        else { y with rpos := y.rpos + k }) }))) ∧
    (s.m.cmdMs w (b.sl .en 1) = .ok ms →
      (let sc := s.m.effScope (x / 2 ^ 16 % 8)
       exec (.drain g src) s = .next (s.inBundle (c.hop 0 (.drain sc flag order))) ∧
       (x / 2 ^ 19 % 4 < 2 → exec (.fence g src) s = .next (s.inBundle (c.hop 0 (.fence (x / 2 ^ 19 % 4 = 1) sc flag order))))) ∧
      (∀ dva, let k := x / 2 ^ 16 % 2 ^ 24
       (b.sl .en 0).toNat % 0x10000 = 0 → k ≠ 0 → s.m.t.win? (b.sl .en 0) (k * 0x10000) true false = some dva →
        exec (.prefh g src) s = .next (s.inBundle (c.enqueue (.prefh dva k (w.getLsbD 40)) sig)) ∧
        exec (.migr g src) s = .next (s.inBundle (c.enqueue (.migr dva k (w.getLsbD 40)) sig))) ∧
      exec (.enq g src) s = .next (s.inBundle (c.enqueue .enq sig)) ∧
      (let y := nth c.now.t.spools n.val
       (y.bound = true → y.dir = true → y.handle = false → y.filled ≠ 0 → exec (.unwindSpool g src) s = .next (s.inBundle
        ((c.modT fun t => { t with spools := setNth t.spools n.val Spool.zero }).enqueue (.unwindSp n y) sig))) ∧
       (y.bound = false → exec (.unwindSpool g src) s = .next (s.inBundle
        ((c.modT fun t => { t with spools := setNth t.spools n.val Spool.zero }).enqueue (.unwindSp n Spool.zero) sig))) ∧
       (y.bound = true → (y.dir = false ∨ y.handle = true) → exec (.unwindSpool g src) s = .next (s.inBundle
        (((c.modD fun d => { d with cmds := d.cmds.filter fun k => !(k.own = c.now.t.ref && k.kind = .wind n && k.seq = y.pos) }).modT
          fun t => { t with spools := setNth t.spools n.val Spool.zero }).enqueue (.unwindSp n Spool.zero) sig))) ∧
       (y.bound = true → y.dir = true → y.handle = false → y.filled = 0 → exec (.unwindSpool g src) s = .next (s.inBundle
        (((c.modD fun d => { d with cmds := d.cmds.filter fun k => !(k.own = c.now.t.ref && k.kind = .wind n && k.seq = y.pos) }).modT
          fun t => { t with spools := setNth t.spools n.val Spool.zero }).enqueue (.unwindSp n y) sig)))))

/-- The commands of `en` enter the engine queue or the outbound order as their word and block say. (R162, R271, R272, R273, R274, R276, R277, R278,
R280, R282, R284, R286) -/
def Obligations.EngineCommandsEnterTheQueue : Prop :=
  Parts.BlockCommandsEnterTheQueue ∧ Parts.PlainCommandsEnterTheQueue

/-! ### Power, reset and the clock (R17, R19, R21, R22, R390, R391, R397, R398, R401) -/

/-- Removing the supply loses all state but fuses and flash, also when a die has stood above its thermal trip for 100 ms, and with the supply off a
step does nothing but wait for package reset (R22, R391). That a step without supply stops with `supplyOff` is the model's own convention (log entry
11). -/
def Parts.SupplyIsLost : Prop :=
  ∀ s : State,
    (∃ m : Mach, exec .supplyLoss s = .next (s.on m) ∧ m.dev.powered = false ∧ m.dev.mem = [] ∧ m.dev.milepost = 0 ∧ m.dev.launches = [] ∧
      m.dev.saved = [] ∧ m.dev.cmds = [] ∧ m.thr0 = Thr.zero ∧ m.thr1 = Thr.zero ∧ m.core.l1 = [] ∧
      m.dev.boot.slotA = s.m.dev.boot.slotA ∧ m.dev.boot.slotB = s.m.dev.boot.slotB ∧ m.dev.boot.fusedSvn = s.m.dev.boot.fusedSvn ∧
      m.dev.boot.rootHash = s.m.dev.boot.rootHash) ∧
    (∀ (die t : Nat), die < 4 → (nth s.m.dev.pwr die).tripped = some t →
      exec (.thermalShutdown die) s = (if t + 400000000 ≤ s.m.dev.milepost then exec .supplyLoss s else .next s)) ∧
    (s.m.dev.powered = false → (s.inputs = [] → step s = .fault .supplyOff) ∧
      ∀ (i : Instr) (is : List Instr), s.inputs = i :: is → i ≠ .packageReset → step s = .next { s with inputs := is })

/-- What limits a die's clock (R21, R390, R391, R402): a cap or a current limit lowers it, a trip stops it and leaves all else as it is, a release
starts it with the cap that was written meanwhile; a cap is clamped to 100–520 W. How far a limit lowers the clock is open (log entry 9); that ACLK of a
stopped die reads 0 is the model's choice (log entry 17). -/
def Parts.ClocksAndCaps : Prop :=
  ∀ (s : State) (die : Nat) (v : BitVec 32), die < 4 →
    let q := nth s.m.dev.pwr die
    let w := BitVec.ofNat 32 (max 100 (min 520 v.toNat))
    (q.tripped = none → ∀ i ∈ [Instr.powerCapThrottle die, .currentLimit die],
      ∃ p : Pwr, exec i s = .next (s.on (s.m.modD fun d => { d with pwr := setNth d.pwr die p, free := d.free + 1 })) ∧
        (1 < q.aclk.toNat → p.aclk.toNat < q.aclk.toNat) ∧ p.pcap = q.pcap ∧ p.tripped = none) ∧
    (q.tripped.isSome → ∀ i ∈ [Instr.powerCapThrottle die, .currentLimit die, .thermalTrip die], exec i s = .next s) ∧
    (q.tripped = none → exec (.thermalTrip die) s = .next (s.on (s.m.modD fun d =>
      { d with pwr := setNth d.pwr die { q with tripped := some d.milepost, aclk := 0 } }))) ∧
    (q.tripped = none → exec (.thermalRelease die) s = .next s) ∧
    (q.tripped.isSome → ∃ p : Pwr, exec (.thermalRelease die) s = .next (s.on (s.m.modD fun d => { d with pwr := setNth d.pwr die p })) ∧
      p.tripped = none ∧ p.pcapNext = none ∧ p.pcap = q.pcapNext.getD q.pcap ∧ (q.capped = none → q.overCur = none → p.aclk = 4000)) ∧
    (q.tripped.isSome → exec (.pcapWrite die v) s = .next (s.on (s.m.modD fun d =>
      { d with pwr := setNth d.pwr die { q with pcapNext := some w } }))) ∧
    (q.tripped = none → ∃ p : Pwr, exec (.pcapWrite die v) s = .next (s.on (s.m.modD fun d => { d with pwr := setNth d.pwr die p })) ∧
      p.pcap = w ∧ p.tripped = none ∧ (q.capped = none → q.overCur = none → p.aclk = 4000))

/-- The time service (R19): a device that is ahead of its domain holds its milepost counter in the next A-cycle, one that is behind counts two there, and neither
happens again within 4,096 A-cycles. The counter runs on by one in every other A-cycle of a die at full clock. That an adjustment falls in the next A-cycle is the model's
choice (log entry 18). -/
def Parts.MilepostAdjustment : Prop :=
  (∀ (s : State) (ahead : Bool),
    (s.m.dev.mpNext ≤ s.m.dev.acyc → exec (.timeServiceAdjust ahead) s = .next (s.on (s.m.modD fun d =>
      { d with mpNext := d.acyc + 4096, mpHold := ahead, mpMore := !ahead }))) ∧
    (s.m.dev.acyc < s.m.dev.mpNext → exec (.timeServiceAdjust ahead) s = .next s)) ∧
  ∀ (d : Dev) (die : Nat), (nth d.pwr die).aclk = 4000 → d.mpFrac = 0 →
    (d.clock die).acyc = d.acyc + 1 ∧ (d.clock die).mpHold = false ∧ (d.clock die).mpMore = false ∧ (d.clock die).mpNext = d.mpNext ∧
    (d.mpHold = false → d.mpMore = false → (d.clock die).milepost = d.milepost + 1) ∧
    (d.mpHold = true → d.mpMore = false → (d.clock die).milepost = d.milepost) ∧
    (d.mpHold = false → d.mpMore = true → (d.clock die).milepost = d.milepost + 2)

/-- Caps, current limit, thermal trip and release, and the time service. How far a limit lowers the clock is open (log entry 9). (R19, R21, R390,
R391, R402) -/
def Obligations.ClocksCapsAndTime : Prop :=
  Parts.ClocksAndCaps ∧ Parts.MilepostAdjustment

/-- Package reset and bring-up (R397, R399, R401). The release of reset shows stage 1: slot A is checked, then slot B; the first that passes runs, its keys derived and the
payload measured; when both fail the device stays there. Memories are clear and no thread is placed; a raise of the security version takes effect. Each further stage
needs the one before it: die 0 for stage 2, a die for stage 3, whose dies DIEP shows; stage 5 sets the address-space table and LNRDY. How the stages follow one another as acts
of firmware, and that a payload is filled with zeros to its length, are the model's choices (log entries 13 and 15). -/
def Parts.PackageReset : Prop :=
  ∀ s : State,
    let b := s.m.dev.boot
    let svn := max b.fusedSvn b.nextSvn
    let a := { b with fusedSvn := svn }.check b.slotA
    let c := { b with fusedSvn := svn }.check b.slotB
    let ran := fun (m : Mach) (i : FwImage) =>
      let meas := Config.sha256 (i.payload.take i.len.toNat ++ List.replicate (i.len.toNat - i.payload.length) 0)
      m.dev.boot.udsLocked = true ∧ nth m.dev.meas 0 = meas ∧ nth m.dev.meas 1 = 0 ∧ nth m.dev.meas 2 = 0 ∧
        m.dev.boot.aliasSeed = Config.hkdf48 b.uds ([0x47, 0x58, 0x39, 0x36, 0x30, 0x20, 0x41, 0x4C] ++ leBytes 32 meas.toNat)
    (∃ m : Mach, exec .packageReset s = .next (s.on m) ∧ m.dev.powered = true ∧ m.dev.boot.fusedSvn = svn ∧ m.dev.mem = [] ∧ m.dev.milepost = 0 ∧
      m.dev.launches = [] ∧ m.thr0 = Thr.zero ∧ m.thr1 = Thr.zero ∧ m.dev.stageNo = 1 ∧ m.dev.lnrdy = false ∧
      (a = 0 → m.dev.slotB = false ∧ m.dev.berr = 0 ∧ m.dev.berra = 0 ∧ ran m b.slotA) ∧
      (a ≠ 0 → m.dev.berra = a.setWidth 4 ∧ m.dev.berr = c) ∧
      (a ≠ 0 → c = 0 → m.dev.slotB = true ∧ ran m b.slotB) ∧
      (a ≠ 0 → c ≠ 0 → m.dev.boot.udsLocked = false)) ∧
    ∀ (off : BitVec 32) (size : Nat) (auth : Bool),
    let go := fun b => exec (.mgmtRegisterWrite off size (.bringUp b) auth) s
    (∀ dies : BitVec 4,
      let up := s.m.dev.stageNo = 1 ∧ b.udsLocked = true ∧ dies.getLsbD 0 = true
      (up → ∃ m : Mach, go (.firmware dies) = .next (s.on m) ∧ m.dev.stageNo = 2 ∧ m.dev.dies = dies ∧ m.dev.boot = b) ∧
      (¬up → go (.firmware dies) = .next s)) ∧
    (∀ dies : BitVec 4,
      let up := s.m.dev.stageNo = 2 ∧ s.m.dev.dies &&& dies ≠ 0
      (up → ∃ m : Mach, go (.memory dies) = .next (s.on m) ∧ m.dev.stageNo = 3 ∧ m.dev.dies = s.m.dev.dies &&& dies ∧
        m.dev.diep = s.m.dev.dies &&& dies) ∧
      (¬up → go (.memory dies) = .next s)) ∧
    (∀ (lanes : List (Nat × Nat)) (cxl : BitVec 8) (sizes : List Nat),
      (s.m.dev.stageNo = 3 → ∃ d : Dev, go (.links lanes cxl sizes) = .next (s.on { s.m with dev := d }) ∧ d.stageNo = 4 ∧ d.dies = s.m.dev.dies ∧
        ∀ i < 8, nth d.cxlSize i = min (sizes.getD i 0) 67108864 ∧
          (d.cxl.getLsbD i = true ↔ cxl.getLsbD i = true ∧ sizes.getD i 0 ≠ 0 ∧ s.m.dev.dies.getLsbD (i / 2) = true)) ∧
      (s.m.dev.stageNo ≠ 3 → go (.links lanes cxl sizes) = .next s)) ∧
    ∀ (base len : Word) (lanes : List (Nat × Word × Word)),
      (s.m.dev.stageNo = 4 → ∃ d : Dev, go (.configure base len lanes) = .next (s.on { s.m with dev := d }) ∧ d.stageNo = 5 ∧ d.lnrdy = true ∧
        d.astbase = base &&& 0x0000FFFFFFFFF000 ∧ d.astlen = BitVec.ofNat 64 (max 1 (min 65536 len.toNat)) ∧
        ∀ n lbase lcfg, lanes = [(n, lbase, lcfg)] → n < 65536 →
          (d.lane n).lbase = lbase &&& 0xFFFFFFFFFFFFFF80 ∧ (d.lane n).lcfg = lcfg &&& 0xFFFF0000001F0303) ∧
      (s.m.dev.stageNo ≠ 4 → go (.configure base len lanes) = .next s)

/-- What the loss of the supply leaves, and what package reset makes of it. The stop of a step without supply is the model's convention (log entry
11), and what survives a reset in part its reading (log entry 12). (R17, R22, R391, R397, R398, R401) -/
def Obligations.SupplyAndReset : Prop :=
  Parts.SupplyIsLost ∧ Parts.PackageReset

/-- Firmware updates, security versions and attestation requests (R398, R400): an update goes to the slot that did not boot and the running image stays;
the next version never falls; a request stands in the mailbox, and from stage 5 on the report of Table 22-7 is written at its address, nowhere else, and 2 put to byte 32
(bytes that a live object protects are not written). That the version stops at 63, that firmware takes an update from
stage 2 on, the byte order of measurements and keys, and the cutting or filling to 7,856 bytes are the model's choices (log entries 14, 15, 16, 10). -/
def Obligations.FirmwareAndAttestation : Prop :=
  ∀ s : State,
    (∀ img : FwImage, 2 ≤ s.m.dev.stageNo → exec (.firmwareUpdate img) s = .next (s.on (s.m.modD fun d =>
      { d with boot := if d.slotB then { d.boot with slotA := img } else { d.boot with slotB := img } }))) ∧
    (∀ v : Nat, exec (.svnRaise v) s = .next (s.on (s.m.modD fun d =>
      { d with boot := { d.boot with nextSvn := max d.boot.nextSvn (min v 63) } }))) ∧
    (∀ (nonce : BitVec 256) (pa : Word), ∃ mb : Vector Byte 64,
      exec (.attestationRequest nonce pa) s = .next (s.on (s.m.modD fun d => { d with attmb := mb })) ∧
      (∀ i : Nat, i < 32 → nth mb i = BitVec.ofNat 8 (nonce.toNat / 256 ^ i)) ∧ nth mb 32 = 1 ∧
      (∀ i : Nat, i < 8 → nth mb (40 + i) = BitVec.ofNat 8 (pa.toNat / 256 ^ i))) ∧
    (¬(nth s.m.dev.attmb 32 = 1 ∧ s.m.dev.stageNo = 5) → exec .attestationReport s = .next s) ∧
    (nth s.m.dev.attmb 32 = 1 → s.m.dev.stageNo = 5 →
      let b := s.m.dev.boot
      let pa := leNat ((s.m.dev.attmb.toList.drop 40).take 8)
      let sized : List Byte → List Byte := fun bs => bs.take 7856 ++ List.replicate (7856 - bs.length) 0
      let body := leBytes 8 s.m.dev.devid.toNat ++ leBytes 8 (2 ^ b.fusedSvn - 1) ++ s.m.dev.meas.toList.flatMap (fun x => leBytes 32 x.toNat) ++
        s.m.dev.attmb.toList.take 32 ++ leBytes 8 s.m.dev.milepost ++ leBytes 32 b.aliasPub.toNat ++ sized b.idSig
      let report := body ++ sized (Config.slhSign b.aliasSeed body)
      ∃ d : Dev, exec .attestationReport s = .next (s.on { s.m with dev := d }) ∧ nth d.attmb 32 = 2 ∧ (∀ i < 64, i ≠ 32 → nth d.attmb i = nth s.m.dev.attmb i) ∧
        d.meas = s.m.dev.meas ∧ d.milepost = s.m.dev.milepost ∧ body.length = 0x1F68 ∧ report.length = 0x3E18 ∧
        (s.m.dev.mem.wf = true →
          (∀ x : Nat, x < pa ∨ pa + 0x3E18 ≤ x → d.byte x = s.m.dev.byte x) ∧
          ((∀ u ∈ unitsOf pa 0x3E18 0x1000, s.m.dev.paOk (max pa (0x1000 * u)) = true ∧ inMgmt (0x1000 * u) = false) →
            ∀ i < 0x3E18, s.m.dev.isProtected (pa + i) = false → d.byte (pa + i) = report.getD i 0)))

/-! ### Lanes and launches (R307–R314, R362, R364, R365, R392, R394) -/

/-- Lane registers and the counters (R308, R309, R364, R365, R392, R394, R402): a write of WIDX, which stops a lane that it laps and records the entries that are
lost; a reset, which skips to WIDX; before LNRDY both are dropped and counted. A management access that is not an aligned one of 4 or 8 bytes is dropped; of an
agent without authority all but WIDX and LSTAT.RST, aligned or not, is dropped and counted. That such writes are counted at die 0 is the model's reading (log entry 71). Any write clears a counter, but for events of the write's own H-cycle. -/
def Parts.LaneAndCounterWrites : Prop :=
  ∀ (s : State) (lane : Nat), lane < 65536 →
    let l := s.m.dev.lane lane
    (s.m.dev.lnrdy = true →
      (∀ v : BitVec 32, (Lane_.lapped { l with widx := v } = false → exec (.widxWrite lane v) s =
          .next (s.on (s.m.modD fun d => d.setLane lane { l with widx := v }))) ∧
        (Lane_.lapped { l with widx := v } = true →
          let x := { l with widx := v, overrun := true, lostlo := l.ridx, losthi := v - 1 }
          exec (.widxWrite lane v) s = .next (s.on (s.m.modD fun d => (d.setLane lane x).laneRecord lane 0x44 x)))) ∧
      exec (.laneReset lane) s = .next (s.on (s.m.modD fun d => d.setLane lane { l with ridx := l.widx, seqerr := false, overrun := false }))) ∧
    (s.m.dev.lnrdy = false → ∀ v : BitVec 32, ∀ i ∈ [Instr.widxWrite lane v, .laneReset lane], exec i s = .next (s.on (s.m.modD fun d => d.count 0 11))) ∧
    (∀ (off : BitVec 32) (size : Nat) (v : Word) (auth : Bool),
      (¬((size = 4 ∨ size = 8) ∧ off.toNat % size = 0) → exec (.mgmtRegisterWrite off size (.write v) auth) s =
        .next (if auth then s else s.on (s.m.modD fun d => d.count 0 11))) ∧
      ((size = 4 ∨ size = 8) → off.toNat % size = 0 → auth = false → off.toNat < 0x01000000 ∨ 0x01400000 ≤ off.toNat → exec (.mgmtRegisterWrite off size (.write v) auth) s =
        .next (s.on (s.m.modD fun d => d.count 0 11))) ∧
      (off.toNat = 0x01000000 + 64 * lane + 0x10 → exec (.mgmtRegisterWrite off 4 (.write v) auth) s = exec (.widxWrite lane (v.setWidth 32)) s) ∧
      (off.toNat = 0x01000000 + 64 * lane + 0x18 → v.getLsbD 0 = true → exec (.mgmtRegisterWrite off 4 (.write v) auth) s = exec (.laneReset lane) s) ∧
      (auth = true → off = 0x20 → exec (.mgmtRegisterWrite off 8 (.write v) auth) s =
        .next (s.on (s.m.modD fun d => { d with astbase := v &&& 0x0000FFFFFFFFF000 })))) ∧
    ∀ die k : Nat, die < 4 → k < 13 →
      let e := nth (nth s.m.dev.cntNow die) k
      exec (.counterClear die k) s = .next (s.on (s.m.modD fun d =>
        { d with cnt := setNth d.cnt die (setNth (nth d.cnt die) k (if e.1 = d.milepost / 2 then BitVec.ofNat 32 (min e.2 0xFFFFFFFF) else 0)) }))

/-- What firmware does on the management controllers, and reads over Twine (R319, R374, R390, R392, R399, Table 13-7): the values of the scheduling policy are
clamped; a change of policy extends MEAS1; a context is marked measured or not; the oldest record of a die is removed; another safe tier makes the next checkpoint full (R388); an
unauthorised read answers all ones. The answer leaves by a port, or behind others that wait for room in a replay buffer (R384). These acts, and what a read packet says, are the
model's choice (log entries 91 and 106). -/
def Parts.ManagementActs : Prop :=
  ∀ (s : State) (off : BitVec 32) (size : Nat) (auth : Bool),
    let go := fun a => exec (.mgmtRegisterWrite off size a auth) s
    (∀ n : Nat, go (.slice n) = .next (s.on (s.m.modD fun d => { d with slice := max 1 (min 1024 n) }))) ∧
    (∀ c w : Nat, ∃ l : List (Nat × Nat), go (.share c w) = .next (s.on (s.m.modD fun d => { d with share := l })) ∧
      (c, max 1 (min 255 w)) ∈ l ∧ (∀ x, (c, x) ∈ l → x = max 1 (min 255 w)) ∧ ∀ e : Nat × Nat, e.1 ≠ c → (e ∈ l ↔ e ∈ s.m.dev.share)) ∧
    (∀ die n : Nat, die < 4 → go (.overflow die n) = .next (s.on (s.m.modD fun d =>
      { d with overCap := setNth d.overCap die (max n 0x10000 / 64) }))) ∧
    (∀ block : List Byte, go (.policy block) = .next (s.on (s.m.modD fun d =>
      { d with meas := setNth d.meas 1 (Config.sha256 (leBytes 32 (nth d.meas 1).toNat ++ leBytes 32 (Config.sha256 block).toNat)) }))) ∧
    (∀ (c : Nat) (on : Bool), ∃ l : List Nat, go (.measure c on) = .next (s.on (s.m.modD fun d => { d with measured := l })) ∧
      (c ∈ l ↔ on = true) ∧ ∀ x, x ≠ c → (x ∈ l ↔ x ∈ s.m.dev.measured)) ∧
    (∀ die : Nat, die < 4 → go (.takeRecord die) = .next (s.on (s.m.modD fun d =>
      { d with errs := setNth d.errs die { nth d.errs die with recs := (nth d.errs die).recs.tail } }))) ∧
    go .safeTier = .next (s.on (s.m.modD fun d => { d with ckNew := true })) ∧
    ∀ dev : Nat, ∃ (d : Dev) (bs : List Byte),
      let room := s.m.dev.waitOut = [] ∧ ∃ k ∈ s.m.dev.running, (nth s.m.dev.ports k).fits (.reply bs false) = true
      go (.read dev) = .next (s.on { s.m with dev := d }) ∧
      (room → d.outbox = s.m.dev.outbox ++ [⟨dev % 4096, 0, nth s.m.dev.egen 0, s.m.dev.acyc, 0, .reply bs false⟩] ∧ d.waitOut = s.m.dev.waitOut) ∧
      (¬room → d.waitOut = s.m.dev.waitOut ++ [(0, dev % 4096, .reply bs false)] ∧ d.outbox = s.m.dev.outbox) ∧ d.mem = s.m.dev.mem ∧ d.lanes = s.m.dev.lanes ∧
      (auth = false → bs = List.replicate size 0xFF) ∧
      (auth = true → (size = 4 ∨ size = 8) → off.toNat % size = 0 →
        bs = ((leBytes 8 (s.m.dev.mgmtWord (off.toNat / 8 * 8)).toNat).drop (off.toNat % 8)).take size)

/-- What a write of a lane block or a counter does, and what firmware and agents over Twine do with the controllers. That a port answers a read with
the endpoint of die 0 is the model's choice (log entry 94). (R308, R309, R319, R364, R365, R374, R390, R392, R394, R399, R402) -/
def Obligations.LaneRegisters : Prop :=
  Parts.LaneAndCounterWrites ∧ Parts.ManagementActs

/-- Reading a lane's entries (R309, R311, R364): a lap stops the lane; an entry whose SEQ is not RIDX stops it with SEQERR; else the entry is taken and RIDX
advances. A lane that is off, stopped or without entries reads nothing; a read waits for its page, and for a die that is stopped (R391). -/
def Parts.LaneEntriesAreRead : Prop :=
  ∀ (s : State) (lane : Nat),
    let l := s.m.dev.lane lane
    let stop := fun (x : Lane_) (code : Nat) => s.on (s.m.modD fun d => (d.setLane lane x).laneRecord lane code x)
    let at_ := l.lbase + BitVec.ofNat 64 (l.ridx.toNat % l.rsize * 128)
    (l.en = false ∨ l.stopped = true ∨ l.widx = l.ridx ∨ s.m.dev.readsStop l.asid [(at_, 128)] = true → exec (.laneEntryRead lane) s = .next s) ∧
    (l.en = true → l.stopped = false → l.widx ≠ l.ridx → s.m.dev.readsStop l.asid [(at_, 128)] = false →
      (l.lapped = true → exec (.laneEntryRead lane) s = .next (stop { l with overrun := true, lostlo := l.ridx, losthi := l.widx - 1 } 0x44)) ∧
      (l.lapped = false → ∀ p : Word, s.m.dev.imgAt l.asid at_ 128 = .error (some p) →
        exec (.laneEntryRead lane) s = .next (s.on (s.m.modD fun d => d.waitPage l.asid p))) ∧
      (l.lapped = false → s.m.dev.imgAt l.asid at_ 128 = .error none → exec (.laneEntryRead lane) s = .next s) ∧
      (l.lapped = false → ∀ b : Img, s.m.dev.imgAt l.asid at_ 128 = .ok b →
        (b.num 0 4 ≠ l.ridx.toNat → exec (.laneEntryRead lane) s = .next (stop { l with seqerr := true, lostlo := l.ridx, losthi := l.ridx } 0x45)) ∧
        (b.num 0 4 = l.ridx.toNat → ∃ e : LEntry, e.k = l.ridx ∧ e.bytes = b.toList ∧ e.poison = s.m.dev.rangePoisoned l.asid at_ 128 ∧
          exec (.laneEntryRead lane) s = .next (s.on ((s.m.probeRange l.asid at_ 128).modD fun d => d.setLane lane { l with ridx := l.ridx + 1, entries := l.entries ++ [e] })))))

/-- The dependences of a lane's next entry are read again where they hold no binding: one that is complete is seen, with its poison, and nothing that was seen is
forgotten; one whose home is stopped waits (R312, R391). -/
def Parts.DependencesArePolled : Prop :=
  ∀ (s : State) (lane : Nat) (e : LEntry) (rest : List LEntry), (s.m.dev.lane lane).entries = e :: rest →
    let l := s.m.dev.lane lane
    let at_ : Nat → Option Nat := fun i => match s.m.dev.xlate l.asid (BitVec.ofNat 64 (bf e.bytes (8 + 8 * i) 8)) false with | .ok pa _ _ => some pa | _ => none
    let polls := (List.range e.ndep).filter fun i => decide (∀ x ∈ e.seen, x.1 ≠ i) && decide (∀ x ∈ e.binds, x.1 ≠ i) && !(at_ i).any fun pa => s.m.dev.stops pa 16
    let q := (polls.filterMap at_).foldl (fun (m : Mach) pa => m.probeHome (pa + 8) 8) s.m
    ∃ f : LEntry, f.k = e.k ∧ f.bytes = e.bytes ∧ (∀ x ∈ e.seen, x ∈ f.seen) ∧
      exec (.dependencePoll lane) s = .next (s.on (q.modD fun d => d.setLane lane { l with entries := f :: rest })) ∧
      ∀ i < e.ndep, (∀ x ∈ e.seen, x.1 ≠ i) → (∀ x ∈ e.binds, x.1 ≠ i) → ∀ pa : Nat, at_ i = some pa →
        (s.m.dev.stops pa 16 = true → ∀ x ∈ f.seen, x.1 ≠ i) ∧
        (s.m.dev.stops pa 16 = false → (s.m.dev.num (pa + 8) 8).testBit 5 = true → (i, (s.m.dev.num (pa + 8) 8).testBit 6) ∈ f.seen)

/-- A launch is checked before any of its threads is runnable (R362): one that passes joins the launches with none of its threads placed; one that fails starts none
and reports the first reason of Table 20-4 in a record, STATUS 1 at CREC and TRAP at CMS; one whose page must first come waits for it, and all waits while a stopped die
holds what is read (R391). A launch of a measured context extends MEAS2 (R399). -/
def Parts.LaunchesAreChecked : Prop :=
  ∀ (q : Mach) (p : Packet),
    let reads := q.dev.launchReads p
    let m := q.probeAll p.asid reads
    (q.dev.readsStop p.asid reads = true → q.startLaunch p = .error none) ∧
    (q.dev.readsStop p.asid reads = false →
    (∀ c : Checked, m.dev.checkLaunch p = .ok c → ∃ (n : Mach) (x : Launch), q.startLaunch p = .ok (n, some m.dev.launchNext) ∧
      (m.dev.measured.contains p.asid.toNat = false → n.dev.meas = m.dev.meas) ∧
      (m.dev.measured.contains p.asid.toNat = true → n.dev.meas =
        setNth m.dev.meas 2 (Config.sha256 (leBytes 32 (nth m.dev.meas 2).toNat ++ leBytes 32 (Config.sha256 c.bytes).toNat))) ∧
      n.dev.launches = m.dev.launches ++ [x] ∧ x.id = m.dev.launchNext ∧ x.pkt = p ∧ x.kern = c.kern ∧ x.nthr = p.nthr ∧ x.nextTid = 0 ∧ x.ended = 0 ∧
      n.thr0 = m.thr0 ∧ n.thr1 = m.thr1 ∧ n.core = m.core ∧ n.dev.mem = m.dev.mem) ∧
    (∀ a : Word, m.dev.checkLaunch p = .error (.page a) → q.startLaunch p = .error (some a)) ∧
    (∀ r : Nat, m.dev.checkLaunch p = .error (.reason r) → q.startLaunch p = .ok
      ((m.noLaunch p 1).modD fun d => d.record p.die { Rec0.plain 1 0x43 with detail := BitVec.ofNat 64 r, asid := p.asid.toNat }, none))) ∧
    (p.reserved = true → m.dev.checkLaunch p = .error (.reason 1)) ∧
    (p.reserved = false → p.num 0x38 8 = 0 → fld p.aff 31 18 = 0 → fld p.aff 15 14 = 0 →
      (p.nthr = 0 ∨ 2 ^ 24 < p.nthr ∨ p.tgstr.toNat % 64 ≠ 0) → m.dev.checkLaunch p = .error (.reason 2))

/-- Starting a lane's next entry (R311, R312): it starts when every dependence has been seen and, with BARRIER, no earlier launch of the lane is live; a MARK then
completes, an entry with a poisoned dependence starts no launch and reports STATUS 2, any other makes its launch at the lane's priority and in its space. -/
def Parts.LaneEntriesStart : Prop :=
  ∀ (s : State) (lane : Nat) (e : LEntry) (rest : List LEntry), (s.m.dev.lane lane).entries = e :: rest →
    let l := s.m.dev.lane lane
    let waits := (∃ i < e.ndep, ∀ x ∈ e.seen, x.1 ≠ i) ∨ (e.eflags.testBit 1 = true ∧ l.live ≠ [])
    ∃ p : Packet, p.bytes = e.bytes.drop 64 ∧ p.asid = l.asid ∧ p.prio = fld l.lcfg 9 8 ∧ p.firmware = l.lcfg.getLsbD 1 ∧ p.lane = some (lane, e.k) ∧
      p.parent = none ∧ p.poison = e.poison ∧
      (waits → exec (.laneEntryStart lane) s = .next s) ∧
      (¬waits → e.eflags.testBit 0 = true → exec (.laneEntryStart lane) s = .next (s.on (s.m.modD fun d => d.setLane lane { l with entries := rest }))) ∧
      (¬waits → e.eflags.testBit 0 = false → (∃ x ∈ e.seen, x.2 = true) → ∃ m : Mach, exec (.laneEntryStart lane) s = .next (s.on m) ∧
        m = (s.m.noLaunch p 2).modD fun d => d.setLane lane { d.lane lane with entries := (d.lane lane).entries.tail }) ∧
      (¬waits → e.eflags.testBit 0 = false → (∀ x ∈ e.seen, x.2 = false) → ∀ a : Option Word, s.m.startLaunch p = .error a →
        exec (.laneEntryStart lane) s = .next (s.on (s.m.modD fun d => d.waitFor l.asid a))) ∧
      (¬waits → e.eflags.testBit 0 = false → (∀ x ∈ e.seen, x.2 = false) → ∀ (n : Mach) (id : Option Nat), s.m.startLaunch p = .ok (n, id) →
        exec (.laneEntryStart lane) s = .next (s.on (n.modD fun d =>
          d.setLane lane { d.lane lane with entries := (d.lane lane).entries.tail, live := (d.lane lane).live ++ id.toList })))

/-- From a lane's ring to a launch. Which die a lane's records go to is the model's reading (log entry 71). (R309, R311, R312, R364) -/
def Obligations.LaneEntries : Prop :=
  Parts.LaneEntriesAreRead ∧ Parts.DependencesArePolled ∧ Parts.LaneEntriesStart

/-- The launch queue of a die (R314, R362): packets move from the overflow list in order while the queue has room, and the oldest packet of the queue is
checked as it leaves. -/
def Parts.LaunchQueues : Prop :=
  ∀ (s : State) (die : Nat) (p : Packet) (rest : List Packet),
    (nth s.m.dev.lover die = p :: rest → (nth s.m.dev.lqueue die).length < 256 → exec (.launchQueueAdmit die) s = .next (s.on (s.m.modD fun d =>
      { d with lover := setNth d.lover die rest, lqueue := setNth d.lqueue die (nth d.lqueue die ++ [p]) }))) ∧
    (256 ≤ (nth s.m.dev.lqueue die).length → exec (.launchQueueAdmit die) s = .next s) ∧
    (nth s.m.dev.lqueue die = p :: rest → ∀ a : Option Word, s.m.startLaunch p = .error a → exec (.launchQueueDeparture die) s =
      .next (s.on (s.m.modD fun d => d.waitFor p.asid a))) ∧
    (nth s.m.dev.lqueue die = p :: rest → ∀ (n : Mach) (id : Option Nat), s.m.startLaunch p = .ok (n, id) → exec (.launchQueueDeparture die) s =
      .next (s.on (n.modD fun d => { d with lqueue := setNth d.lqueue die rest })))

/-- A launch whose threads have all ended completes (R313): its record holds the status, the exit codes, the number of halts and the milepost, one arrival is
counted at CMS, and a device launch's parent gets its flag; the launch is over. -/
def Parts.LaunchesComplete : Prop :=
  ∀ (s : State) (l : Nat) (x : Launch), s.m.dev.launch? l = some x → 
    (x.ended < x.nthr → exec (.launchCompletion l) s = .next s) ∧
    (x.nthr ≤ x.ended →
      let m := s.m.modD fun d => { d with launches := d.launches.filter fun y => y.id ≠ l
                                          lanes := d.lanes.map fun e => (e.1, { e.2 with live := e.2.live.filter (· ≠ l) }) }
      let m := if x.pkt.crec = 0 then m else m.putRecord (launchOwner l) x.pkt.asid x.pkt.crec
        ([if x.fault then 3 else 0, x.exit0, x.exitor, 0] ++ leBytes 4 x.nhalt ++ leBytes 8 m.dev.milepost)
      let m := if x.pkt.cms = 0 then m else m.msCountV (launchOwner l) x.pkt.asid x.pkt.cms 0 1
      exec (.launchCompletion l) s = .next (s.on (m.toParent (launchOwner l) x.pkt)))

/-- What a launch passes through. The order of the reasons within a row of Table 20-4 is the model's reading (log entry 72). (R312, R313, R314, R362)
-/
def Obligations.LaunchesFromCheckToRecord : Prop :=
  Parts.LaunchesAreChecked ∧ Parts.LaunchQueues ∧ Parts.LaunchesComplete

/-! ### Placement, quanta, saves and ends (R37, R39, R44, R131, R193, R194, R315–R319, R352–R354, R357) -/

/-- Whose turn it is, and placing threads (R315, R317, R318): of the runnable threads that this core may take, none of which waits for a page or a stopped die, the
first thread of a parked parent's child comes first; then one of the highest level, which needs no change of the core if there is such a one, in round-robin over the level's
kernels from the one that it served last and then by id. A launch's thread is placed with the privilege, space, priority, save area and id that its launch gives, a saved one
restored; where the boundaries differ the free core begins to change them. Which threads count as one kernel's is the model's reading (log entry 73). -/
def Parts.ThreadsArePlaced : Prop :=
  (∀ s : State, (∀ c ∈ s.m.claims, s.m.dev.claimHeld c = false) →
    let d := s.m.dev
    let fits : Claim → Prop := fun c => (s.m.placeFor (c.want d)).isSome
    let kid : Claim → Prop := fun c => (c.want d).child.isSome ∧ fits c
    (s.m.claims = [] → exec .threadPlacement s = .next s) ∧
    (s.m.claims ≠ [] → ∃ c ∈ s.m.claims,
      ((∃ x ∈ s.m.claims, kid x) → kid c) ∧
      (∀ x ∈ s.m.claims, (kid x ↔ kid c) → (x.want d).prio ≤ (c.want d).prio ∧ ((x.want d).prio = (c.want d).prio →
        (fits x → fits c) ∧ ((fits x ↔ fits c) → x.before (nth d.rr (c.want d).prio) c = false))) ∧
      (∀ l : Launch, c = .launch l →
        (∀ pl, s.m.placeFor (d.wantOf l) = some pl → exec .threadPlacement s = .next (s.on (s.m.placeNext l pl))) ∧
        (s.m.placeFor (d.wantOf l) = none → exec .threadPlacement s = .next (s.on (s.m.modC fun k => { k with reconf := some (d.acyc + 16384, l.kern.pool) })))) ∧
      (∀ (k : Nat) (x : Saved), c = .saved k x → exec .threadPlacement s = .next s ∧
        (∀ pl, s.m.placeFor (d.wantSaved x) = some pl → exec (.contextRestore k) s = .next (s.on (s.m.restoreAt k x pl))) ∧
        (s.m.placeFor (d.wantSaved x) = none →
          exec (.contextRestore k) s = .next (s.on (s.m.modC fun c => { c with reconf := some (d.acyc + 16384, x.kern.pool) })))))) ∧
  (∀ (q : Mach) (l : Launch) (pl : Place),
    let m := q.probeAll l.pkt.asid (q.dev.ctxtReads l.pkt.asid l.pkt.cimg)
    let n := q.placeNext l pl
    let t := (n.at_ pl).t
    t.ref = ⟨l.id, BitVec.ofNat 32 l.nextTid, none⟩ ∧ t.asid = l.pkt.asid ∧ t.prio = l.prio ∧ t.kern = l.kern ∧
    t.save = l.pkt.save + BitVec.ofNat 64 (l.nextTid * l.pkt.sastr) ∧ t.preq = false ∧ n.dev.rr = (if (q.dev.wantOf l).child.isSome then q.dev.rr else setNth q.dev.rr l.prio l.id) ∧
    n.dev.launches = q.dev.launches.map (fun x => if x.id = l.id then { x with nextTid := x.nextTid + 1 } else x) ∧
    n.core.poolb = q.core.poolb ∧ n.core.lastAsid = some l.pkt.asid ∧
    (∀ c : Ctxt, m.dev.ctxt l.pkt.asid l.pkt.cimg = .ok c → t.status = .running ∧ t.halted = none ∧ t.priv = (c.flags.getLsbD 7 && l.pkt.firmware)) ∧
    (∀ e, m.dev.ctxt l.pkt.asid l.pkt.cimg = .error e → if m.dev.dbg.attached.contains l.id then t.halted = some (.fault 0x47 0)
      else ∃ f : Fatal, t.status = .ending 0xFE (some f) ∧ f.cls = 1 ∧ f.code = 0x47))

/-- A pool change that is due on a core without threads sets the boundaries and leaves the region and L1 empty (R131), dirty lines written back first; before 16,384 A-cycles
have passed, or while a stopped die holds such a line, it does nothing. That dirty lines are written back is the model's reading (log entry 79). -/
def Parts.PoolChanges : Prop :=
  ∀ (s : State) (t : Nat) (pool : Vector (BitVec 32) 3), s.m.core.reconf = some (t, pool) →
    let held := s.m.dev.acyc < t ∨ s.m.thr0.live = true ∨ s.m.thr1.live = true ∨ ∃ l ∈ s.m.core.l1, l.dirty = true ∧ s.m.dev.stops (128 * l.line) 128 = true
    (held → exec .poolReconfigureDone s = .next s) ∧
    (¬held → exec .poolReconfigureDone s = .next (s.on { s.m with
      core := { s.m.core with poolb := pool, reconf := none, l1 := [], left := [], leftFe := [], leftPoison := [], regPoison := [] }
      dev := (s.m.core.l1.filter fun l => l.dirty).foldl (fun d l => d.flushLine l) s.m.dev }))

/-- `yield` (R193): a waypoint of the primary stream, and the thread asks for its own pre-emption when a thread of no lower priority waits for these pool boundaries;
in a secondary stream it does nothing. That a thread waits for this core only when R317 lets it use the core is the model's choice (log entry 104). -/
def Parts.YieldIsAWaypoint : Prop :=
  ∀ (s : State) (b : Issue) (g : Grd) (src : Src) (mask : BitVec 64) (v : Val), Fires s b g src mask v →
    let c := b.latched src .seq 0 v
    let rival := ∃ w ∈ s.m.dev.waiting s.m.core.die (s.m.core.cluster % 9), s.m.t.prio ≤ w.1 ∧ w.2.pool = s.m.t.kern.pool
    (s.m.isSec = true → exec (.yield g src) s = .next (s.inBundle c)) ∧
    (s.m.isSec = false → ¬rival → exec (.yield g src) s = .next (s.inBundle { c with wayp := true })) ∧
    (s.m.isSec = false → rival → exec (.yield g src) s =
      .next (s.inBundle ({ c.modT (fun t => { t with preq := true }) with wayp := true })))

/-- The operations of `seq` and `sys` that change the stream, FLAGS or FMT, or deliver a register. That `rdsr` of ids outside 0xC0 to 0xFF traps with
OPERAND is the model's choice (log entry 29). (R78, R187, R193, R194, R195, R196, R197, R204, R211) -/
def Obligations.SequencerAndSystemOperations : Prop :=
  Parts.FlagOperations ∧ Parts.TrapTraps ∧ Parts.SequencerOperations ∧ Parts.RdsrDelivers ∧ Parts.YieldIsAWaypoint

/-- Quanta and ageing (R44, R319): at a quantum boundary with a thread that waits, the placed thread of lowest priority below the highest that waits is asked for its save, of
equals the one placed longest; without one, of those of the same priority that have held their place for SLICE quanta the one placed longest; else nobody is. A thread that
has waited another 2^24 A-cycles rises a level, up to 3. -/
def Parts.QuantaAndAgeing : Prop :=
  (∀ s : State, s.m.dev.quantum < s.m.dev.acyc / 65536 →
    let ws := (List.range 9).flatMap fun c => s.m.dev.waiting s.m.core.die c
    let m := s.m.modD fun d => { d with quantum := d.acyc / 65536 }
    let asks : Thr → Prop := fun u => exec .quantumBoundary s = .next (s.on (m.modRef u.ref fun x => { x with preq := true }))
    (ws = [] → exec .quantumBoundary s = .next (s.on m)) ∧
    ∀ w ∈ ws, (∀ v ∈ ws, v.1 ≤ w.1) →
      let old : Thr → Prop := fun t => t.prio = w.1 ∧ t.placedAt + s.m.dev.slice * 65536 ≤ s.m.dev.acyc
      (∀ t : Thr, t ∈ s.m.placedThr → t.prio < w.1 → ∃ u ∈ s.m.placedThr, asks u ∧ (u.prio < t.prio ∨ u.prio = t.prio ∧ u.placedAt ≤ t.placedAt)) ∧
      ((∀ t ∈ s.m.placedThr, w.1 ≤ t.prio) → ∀ t ∈ s.m.placedThr, old t → ∃ u ∈ s.m.placedThr, asks u ∧ old u ∧ u.placedAt ≤ t.placedAt) ∧
      ((∀ t ∈ s.m.placedThr, w.1 ≤ t.prio ∧ ¬old t) → exec .quantumBoundary s = .next (s.on m))) ∧
  (∀ s : State, s.m.dev.acyc / 65536 ≤ s.m.dev.quantum → exec .quantumBoundary s = .next s) ∧
  (∀ (s : State) (k : Nat) (x : Saved), s.m.dev.saved[k]? = some x →
    let rises := x.auto = true ∧ x.kids = 0 ∧ x.since + 2 ^ 24 * (x.boost + 1) ≤ s.m.dev.acyc ∧ x.level < 3
    (rises → exec (.ageingPromotion k) s = .next (s.on (s.m.modD fun d => { d with saved := d.saved.set k { x with boost := x.boost + 1 } }))) ∧
    (¬rises → exec (.ageingPromotion k) s = .next s)) ∧
  (∀ (s : State) (k : Nat) (l : Launch), s.m.dev.launches[k]? = some l →
    let rises := l.nextTid < l.nthr ∧ l.since + 2 ^ 24 * (l.boost + 1) ≤ s.m.dev.acyc ∧ l.prio < 3
    (rises → exec (.ageingPromotion (s.m.dev.saved.length + k)) s =
      .next (s.on (s.m.modD fun d => { d with launches := d.launches.set k { l with boost := l.boost + 1 } }))) ∧
    (¬rises → exec (.ageingPromotion (s.m.dev.saved.length + k)) s = .next s))

/-- Which thread comes to a place, and which is asked to leave it. That quanta and ageing are counted in A-cycles of the core's die is the model's
reading (log entry 80), and the turn among launches and saved threads too (log entry 74). (R44, R131, R315, R316, R317, R318, R319) -/
def Obligations.PlacementAndPreemption : Prop :=
  Parts.ThreadsArePlaced ∧ Parts.PoolChanges ∧ Parts.QuantaAndAgeing

/-- A thread that has stopped at a waypoint and has nothing on its way is saved, within 2^26 A-cycles: its places are released and its save area is known to the scheduler;
on restore it runs under its old name and space at the level it has risen to. An area that is no saved context, holds poison or cannot be read ends the thread with
RESTFAIL (R37, R39, R357). That a stopped die holds a save back is R391's wait; that T above 4 makes an area no saved context, and the level of a restored thread, are the
model's readings (log entries 76 and 74). -/
def Obligations.SavesAndRestores : Prop :=
  (∀ (s : State) (pl : Place) (ps : List (Nat × Nat)),
    let a := s.m.at_ pl
    (pl = .p0 ∨ s.m.thr0.paired = false) → a.t.saveReady = true → a.dev.milepost < a.t.saveFrom + 2 ^ 26 →
    a.dev.engRange a.t.asid a.t.save a.areaSize true = .ok ps → (∀ p ∈ ps, a.dev.stops p.1 p.2 = false) →
    ∃ (m : Mach) (x : Saved), exec (.contextSave pl) s = .next (s.on m) ∧ (m.at_ pl).t = Thr.zero ∧ m.dev.saved = a.quiesce.dev.saved ++ [x] ∧
      x.ref = a.quiesce.t.ref ∧ x.asid = a.quiesce.t.asid ∧ x.area = a.quiesce.t.save ∧ x.kids = a.quiesce.t.kids ∧ x.boost = 0 ∧ x.since = a.dev.acyc) ∧
  (∀ (s : State) (pl : Place), (s.m.at_ pl).t.saveReady = false → exec (.contextSave pl) s = .next s) ∧
  (∀ (m : Mach) (k : Nat) (x : Saved) (pl : Place),
    let T := (m.dev.wantSaved x).T
    let S := x.spad
    let n := m.probeAll x.asid [(x.area, ctxSize T), (x.area + BitVec.ofNat 64 (spOff T), S + S / 128)]
    let out := m.restoreAt k x pl
    let t := (out.at_ pl).t
    t.ref = x.ref ∧ t.asid = x.asid ∧ out.dev.saved = m.dev.saved.eraseIdx k ∧
    let bad := (∃ e, n.dev.ctxt x.asid x.area = .error e) ∨ (∃ c : Ctxt, n.dev.ctxt x.asid x.area = .ok c ∧
      (c.hdr.num 0 4 ≠ 0x46580001 ∨ c.flags.getLsbD 0 = false ∨ 4 < c.T ∨ n.dev.rangePoisoned x.asid x.area (spOff T + S + S / 128) = true ∨
        ∃ e, n.dev.areaSpad x c.T S = .error e))
    (bad → if m.dev.dbg.attached.contains x.ref.launch then t.halted = some (.fault 0x47 0)
      else ∃ f : Fatal, t.status = .ending 0xFE (some f) ∧ f.cls = 1 ∧ f.code = 0x47) ∧
    (¬bad → ∀ (c : Ctxt) (sp : Mem × List Nat), n.dev.ctxt x.asid x.area = .ok c → n.dev.areaSpad x c.T S = .ok sp →
      t.status = .running ∧ t.halted = none ∧ t.prio = x.level ∧ t.save = x.area ∧ t.kern = x.kern ∧ t.spad = sp.1 ∧ t.fe = sp.2 ∧
      t.priv = (c.flags.getLsbD 7 && x.firmware)))

/-- Fatal ends (R352, R353, R354, R357): a thread that misses the waypoint bound, in a debug halt too, and one whose save fails or is not done in 2^26 cycles, end with
exit code 0xFE, or halt first when a debugger is attached. -/
def Parts.FatalEnds : Prop :=
  ∀ (s : State) (pl : Place),
    let a := s.m.at_ pl
    let t := a.t
    let missed := t.status = .running ∧ (∀ c v, t.halted ≠ some (.fault c v)) ∧ ((t.preq = true ∧ 2 ^ 22 ≤ t.wayp) ∨ 2 ^ 24 ≤ t.wayp)
    (missed → exec (.nowaypoint pl) s =
      .next (s.on ((a.modT fun t => if a.dev.dbg.attached.contains t.ref.launch then { t with halted := some (.fault 0x40 0) }
        else t.startEnd 0xFE (some ⟨1, 0x40, 0, 0, t.prim.pc, t.sec.pc⟩)).at_ s.m.cur))) ∧
    (¬missed → exec (.nowaypoint pl) s = .next s) ∧
    ∀ err : Bool,
    let fails := t.status = .saving ∧ t.halted = none ∧
      ((∃ p, a.dev.engRange t.asid t.save a.areaSize true = .fault p) ∨ err = true ∨ t.saveFrom + 2 ^ 26 ≤ a.dev.milepost)
    (¬fails → exec (.savefail ⟨pl, err⟩) s = .next s) ∧
    (fails → ∃ m : Mach, exec (.savefail ⟨pl, err⟩) s = .next (s.on m) ∧
        let u := (m.at_ pl).t
        u.land = [] ∧ u.preq = false ∧ if a.dev.dbg.attached.contains t.ref.launch then u.halted = some (.fault 0x46 0)
          else u.status = .ending 0xFE (some ⟨1, 0x46, 0, 0, t.prim.pc, t.sec.pc⟩))

/-- A thread whose own work is done ends (R194, R354): its places are released, its monitors freed, and its exit code is counted in its launch; a fatal end counts as no halt.
It leaves its skeins: of no skein object that one of its skein ids leads to is it a member afterwards; an object whose page is not in place, or whose die is stopped, it leaves once
that is over (R153, R391). -/
def Parts.ThreadsEnd : Prop :=
  ∀ (s : State) (pl : Place) (exit : BitVec 8) (fatal : Option Fatal),
    let a := s.m.at_ pl
    let r := a.t.ref
    a.t.status = .ending exit fatal →
    (a.endReady = false → exec (.threadEnd pl) s = .next s) ∧
    (pl = .p0 ∨ s.m.thr0.paired = false → a.endReady = true → ∃ m : Mach, exec (.threadEnd pl) s = .next (s.on m) ∧ (m.at_ pl).t = Thr.zero ∧ (∀ k ∈ m.dev.mons, k.own ≠ r) ∧
      (∀ k ∈ m.dev.binds, k.own ≠ r) ∧
      (∀ (before after : List Word) (o : Word), a.t.skeins.toList.filterMap (fun k => k.map fun k => k.obj) = before ++ o :: after →
        let q := before.foldl (fun (m : Mach) o => m.leaveAt none r a.t.asid o) (a.ordered (.drain 1 none none))
        ∀ (pa bits : Nat) (pte : Word), q.dev.xlate a.t.asid o true = .ok pa pte bits → q.dev.stops pa 1 = false →
          ∀ k : SkObj, m.dev.skein? pa = some k → r ∉ k.members) ∧
      m.dev.launches = s.m.dev.launches.map fun l => if l.id = r.launch then
        { l with ended := l.ended + 1, exit0 := if r.tid = 0 then exit else l.exit0, exitor := l.exitor ||| exit
                 nhalt := if fatal.isSome then l.nhalt else l.nhalt + 1, fault := l.fault || fatal.isSome } else l)

/-- How threads end, by their own work or fatally. (R194, R352, R353, R354, R357) -/
def Obligations.ThreadsEndAndFatalEnds : Prop :=
  Parts.FatalEnds ∧ Parts.ThreadsEnd

/-! ### What reaches a core, and home slices (R87, R139, R146, R190, R192, R207, R208, R244, R294, R306, R405) -/

/-- Results stand on their ports (R87): a scalar port shows, of the stream's results that are due by τ, the one with the greatest due time, of equals the one issued
last; a port that none is due for keeps its value; and results not due yet stay on their way. τ is the thread time, or the time from which only a result interlock
holds the bundle. -/
def Parts.ResultsAreDelivered : Prop :=
  ∀ (s : State) (pl : Place), (s.m.at_ pl).t.live = true →
    let a := s.m.at_ pl
    let tau := a.st.tau.getD a.t.time
    ∃ m : Mach, exec (.resultDelivery pl) s = .next (s.on m) ∧ (m.at_ pl).st.pend = a.st.pend.filter (fun q => tau < q.due) ∧
      (∀ p : SPort, (∀ q ∈ a.st.pend, q.port = .inl p → tau < q.due) → nth (m.at_ pl).st.sport p.num = nth a.st.sport p.num) ∧
      ∀ (xs ys : List Pend) (q : Pend) (p : SPort), a.st.pend = xs ++ q :: ys → q.port = .inl p → q.due ≤ tau →
        (∀ r ∈ xs, r.port = .inl p → r.due ≤ tau → r.due ≤ q.due) → (∀ r ∈ ys, r.port = .inl p → r.due ≤ tau → r.due < q.due) →
        nth (m.at_ pl).st.sport p.num = ⟨q.word, q.prod⟩

/-- Held bundles (R87, R190, R244): one whose stall has ended issues in the core's A-cycle, a wait bundle when an evaluation finds it ready; else nothing happens. The A-cycle
is that of a step. -/
def Parts.HeldBundlesIssue : Prop :=
  ∀ (s : State) (pl : Place),
    let n := s.m.due.at_ pl
    (n.st.hold ≠ .none → (∀ l, n.st.hold ≠ .waiting l) →
      exec (.stalledBundleIssue pl) s = .next (if n.cand.goes then s.on s.m.cycle else s)) ∧
    (∀ l : List Nat, n.st.hold = .waiting l → l ≠ [] → exec (.waitRelease pl) s = .next (if n.cand.goes then s.on s.m.cycle else s)) ∧
    (n.st.hold = .none ∨ n.st.hold = .waiting [] → exec (.waitRelease pl) s = .next s) ∧
    (n.st.hold = .none → exec (.stalledBundleIssue pl) s = .next s)

/-- A tile operation that is due takes effect and its busy interval ends; one that is not waits. In a halted thread every one that was triggered completes (R46, R244).
Shown for `mzer`; other operations are in turn of their due times. -/
def Parts.TileOperationsComplete : Prop :=
  ∀ (s : State) (pl : Place) (due : Nat) (n : Fin 8),
    let a := s.m.at_ pl
    let zero := fun (t : Thr) => t.setA n { ATile.zero with map := (nth t.ct n.val).map }
    a.t.live = true → (∀ e ∈ s.m.dev.dbg.tileWrites, e.1 ≠ pl) → a.t.tops = [⟨due, .zeroA n⟩] →
    (a.t.halted = none → a.t.time < due → exec (.tileOperationComplete pl) s = .next (s.on ((a.modT fun t =>
      { t with busy := t.busy.filter fun b => t.time < b.till + 6 }).at_ s.m.cur))) ∧
    (a.t.halted = none → due ≤ a.t.time → exec (.tileOperationComplete pl) s = .next (s.on ((a.modT fun t =>
      zero { t with tops := [], busy := t.busy.filter fun b => t.time < b.till + 6 }).at_ s.m.cur))) ∧
    (a.t.halted ≠ none → due ≤ a.t.time + 2 ^ 40 → exec (.tileOperationComplete pl) s = .next (s.on ((a.modT fun t =>
      { zero { t with tops := [] } with busy := [] }).at_ s.m.cur)))

/-- What comes due in a core. The steps stand alone here and within every A-cycle. (R87, R190, R244) -/
def Obligations.ResultsAndHeldBundles : Prop :=
  Parts.ResultsAreDelivered ∧ Parts.HeldBundlesIssue ∧ Parts.TileOperationsComplete

/-- Landings (R139, R210, R237): data that may be read waits in the landing buffer with its poison; a scalar read of memory that no replica holds gives the bytes at home,
zero- or sign-extended, a cluster read the cluster's bytes; poison comes with the address of its first unit. A landing that is due is written to its register: a scalar one, a
next-tile register, whose reserved bits stay zero, or in a vector register the guard's lanes with their tangents, its map by R119; one whose data is not there freezes the core. -/
def Parts.LandingsLand : Prop :=
  ∀ (s : State) (pl : Place),
    let a := s.m.at_ pl
    let got := fun (k : Nat) (l : Landing) (v : VVal) (p : Option Word) => { a.t with land := a.t.land.set k { l with data := some v, poison := p } }
    (∀ (k : Nat) (l : Landing), a.t.land[k]? = some l → l.data.isSome ∨ a.mayBind l = false → exec (.landingDataArrival pl k) s = .next s) ∧
    (∀ (k : Nat) (l : Landing), a.t.land[k]? = some l → l.data = none → a.mayBind l = true → a.core.armed = none →
      (∀ (dva : Word) (size pa : Nat) (sgn : Bool), l.src = .scalar dva size sgn → a.dev.repl = [] → a.coreRange dva size false = .ok [(pa, size)] →
        0 < size → pa % 128 + size ≤ 128 → inMgmt pa = false →
        ∃ (m : Mach) (p : Option Word), exec (.landingDataArrival pl k) s = .next (s.on m) ∧ m.dev.mem = s.m.dev.mem ∧
          (m.at_ pl).t = got k l (vvalOfScalar (extend size sgn (a.dev.bytes pa size))) p ∧ (a.dev.poisoned pa size = false → p = l.poison) ∧
          (l.poison = none → a.dev.poisoned pa size = true → ∃ u ∈ unitsOf pa size 64, u ∈ a.dev.poison ∧ p = some (BitVec.ofNat 64 (64 * u)))) ∧
      (∀ off : Nat, l.src = .cluster off [] → exec (.landingDataArrival pl k) s = .next (s.on ((a.setT
        (got k l ⟨lanesOf (Mem.readN (nth a.dev.csram a.core.cluster) off 256), MapD.none, [], false⟩ (a.dev.firstCsBad a.core.cluster [off]))).at_ s.m.cur)))) ∧
    (a.t.runs = true → a.lateOn pl = true → exec (.landingDue pl) s = .next (s.on (s.m.modC fun c => { c with frozen := true }))) ∧
    (a.t.runs = true → a.lateOn pl = false → ∀ (l : Landing) (v : VVal),
      a.t.land.filter (fun l => l.due ≤ a.t.time && l.data.isSome && l.dst ≠ .lsr && l.poison.isNone) = [l] → l.data = some v →
      let lands := fun f => exec (.landingDue pl) s = .next (s.on ((a.modT f).at_ s.m.cur))
      let mixed : VVal → VVal → Prop := fun old r => r.fromS = false ∧
        (∀ i < 64, r.lanes.lane i = if l.mask.getLsbD i then v.lanes.lane i else old.lanes.lane i) ∧
        (∀ k, ∀ i < 64, r.tgl k i = if l.mask.getLsbD i then v.tgl k i else old.tgl k i) ∧
        r.map = if l.mask = allLanes ∨ v.map.same old.map = true then v.map else MapD.opaque_
      let lost : VVal → Bool := fun old => l.mask ≠ allLanes && !v.map.same old.map
      (∀ n : Fin 64, l.dst = .s n → lands fun t => { t with s := setNth t.s n.val v.scalar }) ∧
      (∀ n : Fin 4, l.dst = .w n → lands fun t => { t with w := setNth t.w n.val (if v.scalar.getLsbD 63 then 0x8000000000000000 else v.scalar &&& 0x0000FFFFFFFFFFFF) }) ∧
      (∀ n : Fin 32, l.dst = .v .a n → ∃ r, mixed (nth a.t.va n.val) r ∧
        lands fun t => ({ t with va := setNth t.va n.val r } : Thr).orStatNow false false (lost (nth t.va n.val)) false) ∧
      (∀ n : Fin 32, l.dst = .v .b n → ∃ r, mixed (nth a.t.vb n.val) r ∧
        lands fun t => ({ t with vb := setNth t.vb n.val r } : Thr).orStatNow false false (lost (nth t.vb n.val)) false)) ∧
    (a.t.runs = false → exec (.landingDue pl) s = .next s)

/-- The L1 side (R207, R208): the fill of a line, which waits for what was before the access that allocated it, lands, and bytes that stores have written stay; of loads that
wait nothing changes but what they are to find at bytes that stores passed over (R166); the occupancy of `ls` ends when its cycles are over. -/
def Parts.LineFillsLand : Prop :=
  ∀ s : State,
    (∀ (n : Nat) (l : L1Line), s.m.core.line n = some l → l.filling = true → s.m.fillHeld l = false →
      ∃ (m : Mach) (x : L1Line), exec (.lineFillComplete n) s = .next (s.on m) ∧ m.core.line n = some x ∧ x.filling = false ∧ x.dirty = l.dirty ∧
        (∀ q : Thr × Thr, (q = (s.m.thr0, m.thr0) ∨ q = (s.m.thr1, m.thr1)) → { q.2 with land := q.1.land } = q.1 ∧ q.2.land.length = q.1.land.length ∧
          ∀ (j : Nat) (y z : Landing), q.1.land[j]? = some y → q.2.land[j]? = some z → { z with seen := y.seen } = y ∧ ∀ e ∈ y.seen, e.2.isSome = true → e ∈ z.seen) ∧
        ∀ i : Fin 128, l.have_.getLsbD i.val = true → x.data[i] = l.data[i]) ∧
    (∀ n : Nat, s.m.core.line n = none → exec (.lineFillComplete n) s = .next s) ∧
    (s.m.core.lsFree ≤ s.m.core.cyc → exec .lsOccupancyEnd s = .next (s.on (s.m.modC fun c => { c with lsFree := 0 }))) ∧
    (s.m.core.cyc < s.m.core.lsFree → exec .lsOccupancyEnd s = .next s)

/-- Data that arrives from memory and cluster SRAM. (R139, R207, R208, R210, R237) -/
def Obligations.LandingsAndLineFills : Prop :=
  Parts.LandingsLand ∧ Parts.LineFillsLand

/-- A home operation performs when the order allows it (R162, R294); an atomic whose word is neither poisoned nor of the management range replaces it by Table 12-10 and
answers with its old value; one whose page is not in place waits, and one that faults makes no landing and leaves its fault to be reported. Sizes are 4 and 8 bytes; BF16 pairs and FP32 sums are those of R405. -/
def Parts.HomeOperationsPerform : Prop :=
  (∀ (s : State) (pl : Place),
    let a := s.m.at_ pl
    (a.t.hops.filter a.hopReady = [] → exec (.homeOperationPerform pl) s = .next s) ∧
    (∀ h : Hop, a.t.hops.filter a.hopReady = [h] → exec (.homeOperationPerform pl) s =
      .next (s.on (((a.modD fun d => { d with free := d.free + 1 }).performHop h).at_ s.m.cur)))) ∧
  (∀ (m : Mach) (h : Hop) (pa size : Nat) (x cmp : Word) (op : AtomOp) (sgn : Bool) (ord scope : Nat),
    h.op = .atom op size sgn x cmp ord scope → m.hopParts h = .ok [(pa, size)] → inMgmt pa = false → m.core.armed = none →
    m.dev.poisoned pa size = false → (size = 4 ∨ size = 8) → m.dev.mem.wf = true → (∀ q, pa ≤ q → q < pa + size → m.dev.isProtected q = false) →
    ∃ n : Mach,
      n = m.performHop h ∧ n.dev.bytes pa size = leBytes size (atomValue op size (m.dev.num pa size) x.toNat cmp.toNat) ∧
      (∀ q : Nat, (q < pa ∨ pa + size ≤ q) → n.dev.byte q = m.dev.byte q) ∧
      ∀ l ∈ m.t.land, l.src = .home → l.seq = h.seq → l.issued = h.time →
        { l with data := some (vvalOfScalar (extend size sgn (m.dev.bytes pa size))), poison := none } ∈ n.t.land) ∧
  (∀ (m : Mach) (h : Hop),
    (∀ a, m.hopParts h = .absent a → m.performHop h = m.modD fun d => d.waitPage m.t.asid a) ∧
    (∀ a, m.hopParts h = .fault a → ∃ t : Thr, m.performHop h = m.setT t ∧ (∃ x ∈ t.xfaults, x.dva = h.dva) ∧
      (∀ x ∈ t.hops, ¬(x.seq = h.seq ∧ x.time = h.time ∧ x.sec = h.sec)) ∧ ∀ l ∈ t.land, ¬(l.src = .home ∧ l.seq = h.seq ∧ l.issued = h.time))) ∧
  (∀ (size old x cmp : Nat), (size = 4 ∨ size = 8) → old < 2 ^ (8 * size) → x < 2 ^ (8 * size) →
    let sv := fun (v : Nat) => if v < 2 ^ (8 * size - 1) then (v : Int) else (v : Int) - 2 ^ (8 * size)
    atomValue .addI size old x cmp = (old + x) % 2 ^ (8 * size) ∧
    atomValue .minI size old x cmp = (if sv x < sv old then x else old) ∧ atomValue .maxI size old x cmp = (if sv old < sv x then x else old) ∧
    atomValue .minN size old x cmp = min old x ∧ atomValue .maxN size old x cmp = max old x ∧ atomValue .and size old x cmp = old &&& x ∧
    atomValue .or size old x cmp = old ||| x ∧ atomValue .xor size old x cmp = old ^^^ x ∧ atomValue .swp size old x cmp = x ∧
    atomValue .cas size old x cmp = if old = cmp then x else old)

/-- Monitors, bindings and replicas (R146, R192, R306, R363): a monitor whose word has differed, or without a table entry is found to differ, sets its flag in its thread and is
gone; a binding without an entry fires when its milestone is done, with its second flag when that is poisoned; neither is read while its home is stopped (R391); a replica or a block map cache entry that a write left behind is removed. -/
def Parts.MonitorsAndBindings : Prop :=
  ∀ (s : State) (k : Nat),
    (∀ x : Mon, s.m.dev.mons[k]? = some x →
      let gone := s.m.modD fun d => { d with mons := d.mons.erase x }.didRead x.own x.pa x.size none
      (x.hit = true → exec (.monitorFire k) s = .next (s.on (gone.setFlag x.own x.flag))) ∧ (x.hit = false → exec (.monitorFire k) s = .next s) ∧
      let q := s.m.probeHome x.pa x.size
      let gone' := q.modD fun d => { d with mons := d.mons.erase x }.didRead x.own x.pa x.size none
      (x.polled = false ∨ s.m.dev.stops x.pa x.size = true → exec (.monitorPoll k) s = .next s) ∧
      (x.polled = true → s.m.dev.stops x.pa x.size = false → exec (.monitorPoll k) s =
        .next (s.on (if s.m.dev.num x.pa x.size = x.expect.toNat then q else gone'.setFlag x.own x.flag)))) ∧
    (∀ b : Bind, s.m.dev.binds[k]? = some b → b.peer = false →
      let q := s.m.probeHome (b.pa + 8) 8
      let gone := q.modD fun d => { d with binds := d.binds.erase b }
      let w := s.m.dev.num (b.pa + 8) 8
      (b.polled = false ∨ s.m.dev.stops b.pa 16 = true → exec (.bindPoll k) s = .next s) ∧
      (b.polled = true → s.m.dev.stops b.pa 16 = false →
      (w.testBit 5 = true → (w.testBit 6 = false ∨ b.pflag = none) → exec (.bindPoll k) s = .next (s.on (gone.setFlag b.own b.flag))) ∧
      (∀ f : Fin 32, w.testBit 5 = true → w.testBit 6 = true → b.pflag = some f →
        exec (.bindPoll k) s = .next (s.on ((gone.setFlag b.own b.flag).setFlag b.own f))) ∧
      (w.testBit 5 = false → exec (.bindPoll k) s = .next (s.on q)))) ∧
    (∀ e : Repl, s.m.dev.repl[k]? = some e → exec (.replicaInvalidate k) s =
      .next (if e.c.staleAt = none then s else s.on (s.m.modD fun d => { d with repl := d.repl.eraseIdx k }))) ∧
    (∀ e : BmcE, s.m.dev.bmc[k]? = some e → exec (.replicaInvalidate (s.m.dev.repl.length + k)) s =
      .next (if e.c.staleAt = none then s else s.on (s.m.modD fun d => { d with bmc := d.bmc.eraseIdx k }))) ∧
    (∀ (m : Mach) (f : Fin 32), m.thr0.live = true → (∀ e g, m.thr0.status ≠ .ending e g) → (m.setFlag m.thr0.ref f).thr0.flags =
      m.thr0.flags ||| BitVec.ofNat 32 (2 ^ f.val))

/-- What home slices do with queued operations and with what waits on memory. (R146, R162, R192, R294, R306, R363, R405) -/
def Obligations.HomeSlices : Prop :=
  Parts.HomeOperationsPerform ∧ Parts.MonitorsAndBindings

/-! ### Engines (R138, R153, R162, R272–R291, R359, R370, R379, R386) -/

/-- Engine commands start in queue order once what stands before them has performed or been bound (R162, R272), among it write-backs of the thread's lines in the other place's
order and the command's own read of a block table; an exchange waits while the lay-by queue is full (R285). A command that moves no byte signals at once. None starts while the die's clocks are stopped (R391). From its
start the command reads no copy that a performed write has left behind (R167). Signals are the arrival, then the flag (R273). -/
def Parts.EngineCommandsStart : Prop :=
  ∀ (s : State) (pl : Place) (c : Cmd), s.m.dev.cmds.find? (fun c => c.pl = pl && !c.started) = some c →
    let held := ∃ t, s.m.thrOf c.own = some t ∧
      ((∃ h ∈ t.hops, h.time ≤ c.time) ∨ (∃ l ∈ t.land, l.issued < c.time ∧ l.data = none) ∨ (∃ l ∈ t.land, l.dst = .table c.id) ∨ s.m.strayed c.own s.m.core.cyc = true)
    let backed := 256 ≤ s.m.core.layby.length ∧ ∃ a b d e f g h i, c.kind = .xchg a b d e f g h i
    let c' := { c with started := true, sentAt := s.m.dev.acyc }
    let m := s.m.modD fun d => ({ d with cmds := d.cmds.map fun x => if x.id = c.id then c' else x } : Dev).shun c.own s.m.core.die
    let stopped := (nth s.m.dev.pwr s.m.core.die).tripped.isSome
    let empty := (∃ sp x, c.kind = .unwindSp sp x ∧ x.filled = 0) ∨ (∃ a b d e f g h, c.kind = .copy a b d e f g h ∧ c.kind.segs = 0)
    (stopped = true ∨ held ∨ backed → exec (.engineCommandStart pl) s = .next s) ∧
    (stopped = false → ¬held → ¬backed → ¬empty → exec (.engineCommandStart pl) s = .next (s.on m)) ∧
    (stopped = false → ¬held → empty → exec (.engineCommandStart pl) s = .next (s.on (m.signal c'))) ∧
    ∀ (n : Mach) (k : Cmd),
      let e := n.modD fun d => { d with cmds := d.cmds.filter fun x => x.id ≠ k.id, retryAt := d.retryAt.filter fun x => x.1 ≠ k.id }
      let e := match k.sig.ms with | some a => if k.sig.arv then e.msCountV k.owner k.asid a 0 1 else e | none => e
      n.signal k = match k.sig.flag with | some f => e.flagAfter k.owner k.asid k.own f | none => e

/-- Segments (R153, R165, R273, R280–R283, R290, R291, R359, R379): one whose pages are in place moves the bytes of it that are left, some of its granules before the others
where the device has it so, and counts them at the milestone; a translation fault moves and counts nothing; a page that is not resident is tried again; a copy whose checksum
fails is noted, resent once, and on a second failure loses its data; `prefh` and `migr` count a page that is in place, a `migr` not before an earlier `migr` of the page; a
block that fits is compressed and one expands, whole or granule by granule, one that does not fit takes an overflow entry or waits for one, and its marker expands to the entry; an
`enq` signals after the commands before it. -/
def Parts.EngineSegments : Prop :=
  ∀ (s : State) (id seg : Nat) (c : Cmd) (ok : Bool), s.m.dev.cmd? id = some c → c.id = id → (nth s.m.dev.pwr s.m.core.die).tripped = none →
    let mv := c.kind.moves seg
    let l := s.m.learnMoves c mv
    let settled := fun (m : Mach) (n : Nat) => m.segOver id seg n
    let moved := fun (m : Mach) => settled (m.land { c with done := insertNat seg c.done } (c.left seg)) (c.kind.counted seg)
    let isCopy := ∃ a b d e f g h, c.kind = .copy a b d e f g h
    let isRow := (∃ a b d e f, c.kind = .gath a b d e f) ∨ (∃ a b d e, c.kind = .scat a b d e) ∨ (∃ a b d e f, c.kind = .kvg a b d e f)
    let run := exec (.engineSegmentComplete id seg (.whole ok)) s
    let waits := s.m.dev.retrying id seg
    let isIn := fun (ps : List (Nat × Nat)) (mv : List (MoveSide × MoveSide × Nat)) => s.m.movesRange c mv = .ok ps ∧ s.m.sidesStop c mv = false
    (c.started = true → seg < c.kind.segs → seg ∉ c.done → seg ∉ c.failed → waits = false →
      (isCopy ∨ isRow → ∀ a, s.m.movesRange c mv = .fault a → run = .next (s.on (settled (s.m.xlatee id a) 0))) ∧
      (isCopy ∨ isRow → ∀ a, s.m.movesRange c mv = .absent a → run = .next (s.on (s.m.retryLater id seg c.asid a))) ∧
      (isCopy ∨ isRow → ∀ ps, s.m.movesRange c mv = .ok ps → s.m.sidesStop c mv = true → run = .next s) ∧
      ((isCopy ∧ ok = true) ∨ isRow → ∀ ps, isIn ps mv → run = .next (s.on (moved l))) ∧
      (isCopy ∨ isRow → ∀ (ps : List (Nat × Nat)) (k : Nat) (x : MoveSide × MoveSide × Nat), isIn ps mv → (grainsOf mv)[k]? = some x → (seg, k) ∉ c.early →
        let c' := { c with early := c.early ++ [(seg, k)] }
        exec (.engineSegmentComplete id seg (.early [k])) s = .next (s.on ((l.modD fun d => d.setCmd c').land c' [x]))) ∧
      (isCopy → ok = false → ∀ ps, isIn ps mv → run = .next (s.on ((l.garble c (c.left seg)).modD fun d =>
        d.setCmd { c with failed := insertNat seg c.failed, early := c.early.filter fun e => e.1 ≠ seg }))) ∧
      (∀ a n l, c.kind = .prefh a n l → ∀ pa pte bits, s.m.dev.walk c.asid (a + BitVec.ofNat 64 (65536 * seg)) false false = .ok pa pte bits →
        run = .next (s.on (if pa < 0x200000000000 then settled s.m 65536 else s.m))) ∧
      (∀ a n t, c.kind = .migr a n t → ∀ pa pte bits, s.m.dev.walk c.asid (a + BitVec.ofNat 64 (65536 * seg)) false false = .ok pa pte bits →
        run = .next (s.on (if decide (0x200000000000 ≤ pa) = t ∧ s.m.dev.migrBefore c (a.toNat + 65536 * seg) = false then settled s.m 65536 else s.m))) ∧
      (∀ a : Word, (∃ n x, c.kind = .prefh a n x ∨ c.kind = .migr a n x) →
        s.m.dev.walk c.asid (a + BitVec.ofNat 64 (65536 * seg)) false false = .fault →
        run = .next (s.on (settled (s.m.xlatee id (a + BitVec.ofNat 64 (65536 * seg))) 0))) ∧
      (∀ ex so co n size, c.kind = .cmpx ex so co n size → ∀ ps, isIn ps mv →
        let z := co + size * seg
        let r := l.readSide c (if ex then .cs z else .spad (so + 256 * seg)) (if ex then size else 256)
        let bad := !r.2.1.isEmpty
        let whole := fun bs => r.2.2.putBlock c seg (bs, bad) (c.left seg)
        let freed := fun bs => (whole bs).freeEntry (Mem.readN (nth l.dev.csram l.core.cluster) z size)
        let early := fun bs => ∀ (k : Nat) (x : MoveSide × MoveSide × Nat), (grainsOf mv)[k]? = some x → (seg, k) ∉ c.early →
          exec (.engineSegmentComplete id seg (.early [k])) s =
            .next (s.on ((r.2.2.modD fun d => d.setCmd { c with early := c.early ++ [(seg, k)] }).putBlock c seg (bs, bad) [x]))
        let marker := r.1.take 32 = List.replicate 32 0xFF
        let entry := (nth r.2.2.dev.ovf r.2.2.core.cluster).find? fun e => e.1 = leNat ((r.1.drop 32).take 4)
        (ex = false → (packed r.1).length ≤ size → early (padTo (packed r.1) size) ∧ run = .next (s.on (settled (whole (padTo (packed r.1) size)) 256))) ∧
        (ex = false → size < (packed r.1).length → run = .next (s.on (match r.2.2.overflow c seg (r.1, bad) with | some m => settled m 256 | none => l))) ∧
        (ex = true → ¬marker → early (unpacked r.1) ∧ run = .next (s.on (settled (freed (unpacked r.1)) 256))) ∧
        (ex = true → marker → ∀ e, entry = some e → early e.2 ∧ run = .next (s.on (settled (freed e.2) 256))) ∧
        (ex = true → marker → entry = none → run = .next (s.on (settled (r.2.2.deadMarker c seg z) 256)))) ∧
      (c.kind = .enq → run = .next (s.on (if s.m.earlierDone c then s.m.signal c else s.m)))) ∧
    (seg ∈ c.done ∨ c.started = false → ∀ how, exec (.engineSegmentComplete id seg how) s = .next s) ∧
    (isCopy → seg ∈ c.failed → seg ∉ c.done → waits = false → ∀ ps, isIn ps mv →
      exec (.segmentResend id seg ok) s = .next (s.on (if ok then moved ((l.modD fun d => d.count l.core.die 6).segRec c seg 2)
        else settled ((l.garble c (c.left seg)).checksum c seg) 0))) ∧
    (seg ∉ c.failed → exec (.segmentResend id seg ok) s = .next s)

/-- What waits for a page is tried again (R153): steps of home operations and engines at each ENGINE_RETRY, a segment once 1,024 H-cycles have passed. -/
def Parts.WaitingStepsAreRetried : Prop :=
  ∀ (s : State) (id seg : Nat),
    let n := s.m.runLater
    (s.m.dev.later = [] → n = s.m) ∧
    (n.dev.cmd? id = none ∨ n.dev.retrying id seg = false → exec (.engineRetry id seg) s = .next (s.on n)) ∧
    ∀ (c : Cmd) (e : Nat × Nat × Word), n.dev.cmd? id = some c → n.dev.retryAt.find? (fun e => e.1 = id && e.2.1 = seg) = some e →
      (nth n.dev.pwr n.core.die).tripped = none → c.id = id →
      (n.dev.acyc < e.2.2.toNat → exec (.engineRetry id seg) s = .next (s.on n)) ∧
      (e.2.2.toNat ≤ n.dev.acyc → exec (.engineRetry id seg) s = .next (s.on ((n.modD fun d =>
        { d with retryAt := d.retryAt.filter fun x => !(x.1 = id && x.2.1 = seg) }).trySeg c seg true (c.failed.contains seg))))

/-- An engine command from its start to its signals. (R153, R162, R165, R272, R273, R280, R283, R290, R291, R359, R379, R391) -/
def Obligations.EngineCommandsRun : Prop :=
  Parts.EngineCommandsStart ∧ Parts.EngineSegments ∧ Parts.WaitingStepsAreRetried

/-- Compression loses nothing (R138, R283): a block that fits its space, padded with zeros, expands to itself. -/
def Obligations.CompressionRoundTrip : Prop :=
  ∀ (bs : List Byte) (size : Nat), bs.length = 256 → (packed bs).length ≤ size → unpacked (padTo (packed bs) size) = bs ∧ (padTo (packed bs) size).length = size ∧
    ((packed bs).take 32 = List.replicate 32 0xFF → 256 < size)

/-- Winders (R275): the winder of a bound read spool fetches its next vector into a free slot, that of a write spool writes its oldest filled slot to the pattern's address; positions
advance by one. A full read ring, an empty write ring, a handle and an unbound spool do nothing. Shown for a spool whose `wind` has signalled
or named no signals, with a translation that the last-level buffer keeps. -/
def Parts.WindersMoveVectors : Prop :=
  ∀ (s : State) (sp : Fin 16) (pa : Nat) (a : Word),
    let t := s.m.thr0
    let x := nth t.spools sp.val
    s.m.cur = .p0 → t.live = true → (nth s.m.dev.pwr s.m.core.die).tripped = none → (∀ c ∈ s.m.dev.cmds, c.own ≠ t.ref) → x.bound = true → x.handle = false →
    s.m.dev.repl = [] → s.m.core.armed = none → inMgmt pa = false → s.m.dev.stops pa 256 = false →
    (tlbHit s.m.dev.tlb t.asid a.toNat).isSome → t.spad.wf = true → s.m.dev.mem.wf = true →
    (x.dir = false → x.next.toNat < x.total → x.filled < x.nslot → x.dva t x.next.toNat = some a → s.m.dev.engRange t.asid a 256 false = .ok [(pa, 256)] →
      ∃ m : Mach, exec (.winderFill .p0 sp) s = .next (s.on m) ∧ nth m.thr0.spools sp.val = { x with next := x.next + 1, wpos := x.wpos + 1 } ∧
        Mem.readN m.thr0.spad (x.slotOff x.next) 256 = s.m.dev.bytes pa 256 ∧ m.dev.mem = s.m.dev.mem) ∧
    (x.dir = true → x.filled ≠ 0 → x.rpos.toNat ∉ x.skip → x.dva t x.rpos.toNat = some a → s.m.dev.engRange t.asid a 256 true = .ok [(pa, 256)] →
      (∀ q, pa ≤ q → q < pa + 256 → s.m.dev.isProtected q = false) →
      ∃ m : Mach, exec (.winderDrain .p0 sp) s = .next (s.on m) ∧ nth m.thr0.spools sp.val = { x with rpos := x.rpos + 1, next := x.rpos + 1, skip := x.skip.filter (· ≠ x.rpos.toNat) } ∧
        m.dev.bytes pa 256 = Mem.readN t.spad (x.slotOff x.rpos) 256 ∧ (∀ q, q < pa ∨ pa + 256 ≤ q → m.dev.byte q = s.m.dev.byte q)) ∧
    (x.dir = false → x.nslot ≤ x.filled → exec (.winderFill .p0 sp) s = .next s) ∧ (x.dir = true → x.filled = 0 → exec (.winderDrain .p0 sp) s = .next s) ∧
    (x.dir = true → exec (.winderFill .p0 sp) s = .next s) ∧ (x.dir = false → exec (.winderDrain .p0 sp) s = .next s)

/-- Exchange rows (R284, R285, R386): a row that the engine may send arrives at its destination on this device and is answered, with retry-later when the receiver has no room or its
milestone's page is not in place; one whose count-down faults moves no byte; one for a stopped die waits (R359, R391). A row for another device leaves over Twine
once a port has room (R384). An acknowledgement counts the row; a retry-later parks it in the lay-by queue of 256 rows for 1,024
H-cycles, as it was quantised; the oldest parked row then leaves. -/
def Parts.ExchangeRows : Prop :=
  ∀ (s : State) (id row : Nat) (c : Cmd), s.m.dev.cmd? id = some c → c.id = id → (nth s.m.dev.pwr s.m.core.die).tripped = none →
    (∀ room : Bool, s.m.maySend c row = true → c.kind.abroad = false → exec (.xchgRowArrival id row room) s = .next (s.on (s.m.rowArrives c row room))) ∧
    (∀ room : Bool, s.m.maySend c row = false ∨ c.kind.abroad = true → exec (.xchgRowArrival id row room) s = .next s) ∧
    (∀ ok : Bool, s.m.maySend c row = true → c.kind.abroad = true → exec (.engineSegmentComplete id row (.whole ok)) s = .next (s.on (s.m.sendAbroad c row))) ∧
    (∀ (b16 room : Bool) (rows : List Word) (ne ddev dcl doff dstr : Nat) (dms : Word) (e : Nat × List Byte × List (Nat × Nat)),
      c.kind = .xchg b16 rows ne ddev dcl doff dstr dms → c.rows.find? (fun e => e.1 = row) = some e →
      (s.m.dev.rowStops dcl c.asid dms = true → s.m.rowArrives c row room = s.m) ∧
      (s.m.dev.rowStops dcl c.asid dms = false →
      (room = true → s.m.dev.dmsFault c.asid dms = true → s.m.rowArrives c row room = s.m.rowFaults c row dms) ∧
      (room = true → s.m.dev.dmsFault c.asid dms = false → s.m.dev.dmsAbsent c.asid dms = true → s.m.rowArrives c row room =
        (s.m.modD fun d => d.waitPage c.asid dms).modD fun d => d.setCmd { c with ans := c.ans ++ [(row, false)] }) ∧
      (room = true → s.m.dev.dmsFault c.asid dms = false → s.m.dev.dmsAbsent c.asid dms = false → s.m.rowArrives c row room = (s.m.modD fun d =>
        d.setCmd { c with ans := c.ans ++ [(row, true)], rows := c.rows.filter fun e => e.1 ≠ row }).landRow dcl (doff + row * dstr) e.2.1 e.2.2 c.asid dms) ∧
      (room = false → s.m.rowArrives c row room = s.m.modD fun d => d.setCmd { c with ans := c.ans ++ [(row, false)] })) ∧
      (s.m.dev.send s.m.core.die (ddev % 4096) (.row dcl (doff + row * dstr) e.2.1 e.2.2 c.asid dms) = none → s.m.sendAbroad c row = s.m) ∧
      (∀ d : Dev, s.m.dev.send s.m.core.die (ddev % 4096) (.row dcl (doff + row * dstr) e.2.1 e.2.2 c.asid dms) = some d →
        s.m.sendAbroad c row = { s.m with dev := d.setCmd { c with failed := insertNat row c.failed, sends := c.sends.filter (fun e => e.1 ≠ row) ++ [(row, d.acyc, false)] } } ∧
        ∃ x : Sent, d.outbox = s.m.dev.outbox ++ [x] ∧ x.dev = ddev % 4096 ∧ x.pkt = .row dcl (doff + row * dstr) e.2.1 e.2.2 c.asid dms)) ∧
    (∀ a : Bool,
      let due := (c.kind.abroad = true ∧ row ∈ c.failed) ∨ (c.kind.abroad = false ∧ (row, a) ∈ c.ans)
      let c' := { c with ans := c.ans.filter (fun e => e.1 ≠ row), failed := c.failed.filter (· ≠ row), rows := c.rows.filter (fun e => e.1 ≠ row), sends := c.sends.filter fun e => e.1 ≠ row }
      let m := s.m.modD fun d => d.setCmd c'
      let run := exec (.xchgAcknowledgement id row a) s
      (¬due → run = .next s) ∧
      (due → a = true → run = .next (s.on (m.segOver id row (c.kind.counted row)))) ∧
      (due → a = false → 256 ≤ s.m.core.layby.length → run = .next s) ∧
      (due → a = false → s.m.core.layby.length < 256 →
        (∀ e, c.rows.find? (fun e => e.1 = row) = some e →
          run = .next (s.on (m.modC fun k => { k with layby := k.layby ++ [⟨id, row, e.2.1, e.2.2, s.m.dev.acyc + 2048⟩] }))) ∧
        (c.rows.find? (fun e => e.1 = row) = none → run = .next (s.on m)))) ∧
    (s.m.core.layby = [] → exec .xchgLaybyReplay s = .next s) ∧
    (∀ (e : LayRow) (rest : List LayRow), s.m.core.layby = e :: rest →
      let m := s.m.modC fun k => { k with layby := rest }
      let c' := { c with rows := c.rows ++ [(e.row, e.data, e.bad)] }
      (s.m.dev.acyc < e.from_ → exec .xchgLaybyReplay s = .next s) ∧
      (e.from_ ≤ s.m.dev.acyc → s.m.dev.cmd? e.cmd = none → exec .xchgLaybyReplay s = .next (s.on m)) ∧
      (e.from_ ≤ s.m.dev.acyc → e.cmd = id → exec .xchgLaybyReplay s = .next (s.on
        (if c.kind.abroad then (m.modD fun d => d.setCmd c').sendAbroad c' e.row else m.modD fun d => d.setCmd c'))))

/-- Requests over Twine without an answer for 16,000,000 A-cycles (R386): each row of an exchange, and each landing, is sent again once; then an exchange's milestone is poisoned with DATA and its signals follow, and a landing
delivers poison and its thread unwinds with LINK where the value was due, and the read of a block table is its command's; a record of class 3 is written. -/
def Parts.RequestsTimeOut : Prop :=
  (∀ (s : State) (id row : Nat) (c : Cmd), s.m.dev.cmd? id = some c → c.id = id →
    let run := exec (.requestTimeout (.cmd id row)) s
    (c.sends.find? (fun e => e.1 = row) = none → run = .next s) ∧
    ∀ (sent : Nat) (again : Bool), c.sends.find? (fun e => e.1 = row) = some (row, sent, again) →
    let late := c.kind.abroad = true ∧ sent + 16000000 ≤ s.m.dev.acyc
    (¬late → run = .next s) ∧
    (late → again = false → ∀ (b16 : Bool) (rows : List Word) (ne ddev dcl doff dstr : Nat) (dms : Word) (e : Nat × List Byte × List (Nat × Nat)),
      c.kind = .xchg b16 rows ne ddev dcl doff dstr dms → c.rows.find? (fun e => e.1 = row) = some e →
      let way := s.m.dev.send s.m.core.die (ddev % 4096) (.row dcl (doff + row * dstr) e.2.1 e.2.2 c.asid dms)
      (way = none → run = .next s) ∧
      ∀ d : Dev, way = some d → run = .next (s.on { s.m with
        dev := d.setCmd { c with failed := insertNat row c.failed, sends := c.sends.filter (fun e => e.1 ≠ row) ++ [(row, d.acyc, true)] } })) ∧
    (late → again = true → let p := s.m.poisonCmd c 7
      ∃ x : Rec0, x.cls = 3 ∧ x.code = 0x83 ∧ x.tid = c.own.tid ∧
        run = .next (s.on ((p.modD fun d => Dev.record { d.count p.core.die 7 with free := d.free + 1 } p.core.die x).signal c)))) ∧
  (∀ (s : State) (pl : Place) (k : Nat) (l : Landing),
    let a := s.m.at_ pl
    let late := l.data = none ∧ l.sentAt + 16000000 ≤ s.m.dev.acyc
    let run := exec (.requestTimeout (.land pl k)) s
    a.t.land[k]? = some l →
    (¬late → run = .next s) ∧
    (late → l.again = false → run = .next (s.on ((a.modT fun t => { t with land := t.land.set k { l with again := true, sentAt := a.dev.acyc } }).at_ s.m.cur))) ∧
    (late → l.again = true → ∀ (id : Nat) (c : Cmd), l.dst = .table id → s.m.dev.cmd? id = some c → ∃ x : Rec0, x.cls = 3 ∧ x.code = 0x83 ∧ x.tid = a.t.tid ∧
      run = .next (s.on ((((((a.modT fun t => { t with land := t.land.eraseIdx k }).poisonCmd c 7).signal c).modD fun d =>
        Dev.record { d.count s.m.core.die 7 with free := d.free + 1 } s.m.core.die x)).at_ s.m.cur))) ∧
    (late → l.again = true → (∀ id, l.dst ≠ .table id) → ∃ x : Rec0, x.cls = 3 ∧ x.code = 0x83 ∧ x.tid = a.t.tid ∧ run = .next (s.on (((a.modT fun t =>
      { t with land := t.land.eraseIdx k, unw := t.unw ++ [⟨0x83, 0, none, 0, max l.due t.time⟩] }).modD fun d =>
        Dev.record { d.count s.m.core.die 7 with free := d.free + 1 } s.m.core.die x).at_ s.m.cur))))

/-- The winders of spools and the exchange engine. How another device answers is the model's reading (log entry 63). (R275, R284, R285, R386) -/
def Obligations.WindersAndExchange : Prop :=
  Parts.WindersMoveVectors ∧ Parts.ExchangeRows ∧ Parts.RequestsTimeOut

/-- Collectives (R287, R288): the first command of a member that performs at the skein's home arms its instance with the members of that moment as participants, in rank order; a
later one joins it. An instance completes when each participant's part has arrived: in rank order their buffers are read, then each gets its result; of a poisoned one those that
have arrived end at once, and it waits for the others. A buffer whose page is not in place waits. Integer reductions fold from the lowest rank. -/
def Obligations.CollectiveInstances : Prop :=
  (∀ (s : State) (id pa : Nat) (c : Cmd) (k : SkObj) (op red dt nb : Nat) (skn sb rb : Word), s.m.dev.cmd? id = some c → c.id = id → s.m.collReady c = some (pa, k) →
    c.kind = .coll op red dt skn sb rb nb →
    let n := k.turn c.own
    ((∀ i ∈ s.m.dev.insts, ¬(i.skein = pa ∧ i.k = n)) → ∃ (m : Mach) (parts : List TRef), exec (.collInstanceArm id) s = .next (s.on m) ∧
      m.dev.insts = s.m.dev.insts ++ [⟨pa, n, k.members.length, parts, (op, red, dt, nb), [(c.own, id)], [], false⟩] ∧ parts.Perm k.members ∧
      parts.Pairwise fun a b => a.device < b.device ∨ a.device = b.device ∧ a.tid.toNat ≤ b.tid.toNat) ∧
    ((∃ i ∈ s.m.dev.insts, i.skein = pa ∧ i.k = n) → exec (.collInstanceArm id) s = .next s ∧
      ∀ ok, (nth s.m.dev.pwr s.m.core.die).tripped = none → 0 ∉ c.done → 0 ∉ c.failed → s.m.dev.retrying id 0 = false →
        exec (.engineSegmentComplete id 0 (.whole ok)) s = .next (s.on (s.m.collArrive c pa k)))) ∧
  (∀ (m : Mach) (c : Cmd) (pa : Nat) (k : SkObj) (i : CollInst) (op red dt nb : Nat) (skn sb rb : Word), c.kind = .coll op red dt skn sb rb nb →
    m.dev.insts.find? (fun i => i.skein = pa && i.k = k.turn c.own) = some i →
    let bad := i.par ≠ (op, red, dt, nb) ∨ c.own ∉ i.parts ∨ i.has c.own = true
    ∃ x : CollInst, (m.collArrive c pa k).dev.insts = m.dev.insts.map (fun y => if y.skein = i.skein ∧ y.k = i.k then x else y) ∧
      x.cmds = i.cmds ++ [(c.own, c.id)] ∧ x.parts = i.parts ∧ x.p = i.p ∧ (x.poisoned = true ↔ i.poisoned = true ∨ bad)) ∧
  (∀ (s : State) (k : Nat) (i : CollInst), s.m.dev.insts[k]? = some i →
    let cmds := i.cmds.filterMap fun e => s.m.dev.cmd? e.2
    let free := ∀ c ∈ cmds, s.m.dev.retrying c.id 0 = false ∧ s.m.sidesStop c (c.collEnds i.p) = false
    let quiet := free ∧ ∀ c ∈ cmds, s.m.collHeld i.p c = none
    let gone := fun (m : Mach) => m.modD fun d => { d with insts := d.insts.eraseIdx k }
    (¬free → exec (.collComplete k) s = .next s) ∧
    (free → ∀ (c : Cmd) (a : Word), cmds = [c] → s.m.collHeld i.p c = some (c, a) → exec (.collComplete k) s = .next (s.on (s.m.retryLater c.id 0 c.asid a))) ∧
    (quiet → i.poisoned = false → (∃ r ∈ i.parts, i.has r = false) → exec (.collComplete k) s = .next s) ∧
    (quiet → i.poisoned = false → (∀ r ∈ i.parts, i.has r = true) → ∀ ranked : List CollPart, (∀ r ∈ i.parts, ∀ e ∈ i.cmds, e.1 = r → (s.m.dev.cmd? e.2).isSome) →
      ranked.length = i.parts.length → (∀ (j : Nat) (r : TRef) (y : CollPart), i.parts[j]? = some r → ranked[j]? = some y →
        (∀ e, i.far.find? (fun e => e.1 = r) = some e → y = .far r e.2.1 e.2.2) ∧
        (i.far.find? (fun e => e.1 = r) = none → ∀ e c, i.cmds.find? (fun e => e.1 = r) = some e → s.m.dev.cmd? e.2 = some c → y = .here c)) →
      let x := s.m.collBufs i.p ranked
      exec (.collComplete k) s = .next (s.on (gone (ranked.zipIdx.foldl (fun m y =>
        m.collFinish y.1 (collResult i.par.1 i.par.2.1 i.par.2.2.1 i.par.2.2.2 y.2 x.1)) x.2)))) ∧
    (quiet → i.poisoned = true →
      let left := i.parts.filter fun r => !i.has r
      let told := fun (m : Mach) => i.far.foldl (fun m e => m.modD fun d => d.post m.core.die e.1.device (.collOut e.1.launch e.1.tid [] true)) m
      let m := told (cmds.foldl (fun m c => m.collPoison i.p c) s.m)
      (left = [] → exec (.collComplete k) s = .next (s.on (gone m))) ∧
      (left ≠ [] → exec (.collComplete k) s = .next (s.on (m.modD fun d => d.setInst { i with parts := left, cmds := [], far := [] }))))) ∧
  (∀ (m : Mach) (p op red dt nb : Nat) (skn sb rb : Word) (c : Cmd), c.kind = .coll op red dt skn sb rb nb →
    let n := (if op = 1 ∨ 3 ≤ op then p else 1) * nb
    ∃ bs : List Byte, bs.length = n ∧
      m.collPoison p c = ((((m.modD fun d => { d with free := d.free + n }).poisonCmd c 6).writeSide c (.mem rb) bs []).signal c)) ∧
  (∀ (a b : Lane) (xs : List Lane), reduceWord 0 2 a b = a + b ∧ reduceWord 1 2 a b = (if a.toInt < b.toInt then a else b) ∧
    reduceWord 2 2 a b = (if b.toInt < a.toInt then a else b) ∧ reduceSlices 0 2 (xs.map fun x => [x]) = if xs = [] then [] else [xs.foldl (· + ·) 0])

/-! ### Traps, unwinding, pages (R149, R152–R155, R340, R342, R358, R360, R363, R366, R371, R376, R377) -/

/-- Taking a trap (R340, R342): with a region open its handler is entered 3 A-cycles after the boundary, in the stream that opened it, with the trap word in s61 and the bundle address in s62; the
region is popped, the loop stack cut to its depth, the DUAL remainder 0, the other stream of a pair stopped, a `secgo` that waits dropped; what the thread had triggered completes first. With none open the thread ends with exit code 0xFF and a record of the
trap; with a debugger attached it halts at the bundle. -/
def Parts.TrapsEnterTheHandler : Prop :=
  ∀ (m : Mach) (r : TrapRec),
    let t := m.t
    let word := BitVec.ofNat 64 (r.cause + r.slot * 2 ^ 8 + (if r.frm then 2 ^ 11 else 0) + (if m.isSec then 2 ^ 12 else 0) + r.id * 2 ^ 32 + r.code * 2 ^ 48)
    let addr := BitVec.ofNat 64 (m.st.pc.toNat % 2 ^ 56 + if m.isSec then 2 ^ 63 else 0)
    let n := m.trapped r
    (t.ref.launch ∉ m.dev.dbg.attached → ∀ (g : Region) (rest : List Region), t.regions = g :: rest →
      let h := n.t.strm g.sec
      n.t.regions = rest ∧ h.pc = g.handler ∧ h.loops = (t.strm g.sec).loops.take g.depth ∧ h.drem = 0 ∧ h.gap = t.time + 3 ∧ n.t.status = t.status ∧ n.t.time = t.time ∧
        n.t.s[61] = word ∧ n.t.s[62] = addr ∧ (∀ k : Fin 64, k.val ≠ 61 → k.val ≠ 62 → n.t.s[k] = t.s[k]) ∧
        (t.paired = true → (n.t.strm (!g.sec)).stopped = true) ∧ n.t.restart = none ∧ n.t.settle = true ∧ n.t.va = t.va ∧ n.t.vb = t.vb ∧ n.t.p = t.p) ∧
    (t.ref.launch ∉ m.dev.dbg.attached → t.regions = [] → n = m.setT (t.startEnd 0xFF (some ⟨0, r.cause % 256, word, addr, t.prim.pc, t.sec.pc⟩))) ∧
    (t.ref.launch ∈ m.dev.dbg.attached → n = m.setT { t with halted := some (.trap word addr) })

/-- Faults and unwinding (R358, R366, R371, R376, R377): a translation fault that can be reported unwinds its thread, or is only recorded for one that is ending. An unwinding that is due enters the
handler of the region it targets, with its cause word in s61 and the address of the bundle in s62; with no region open the thread has a fatal end, during a save a failed save, and a
checksum failure or a `crabort` has no effect. Poisoned values of one boundary unwind together. -/
def Parts.FaultsUnwind : Prop :=
  ∀ (s : State) (pl : Place),
    let a := s.m.at_ pl
    let t := a.t
    (∀ x : XFault, t.xready = some x → t.halted = none → (t.status = .running ∨ t.status = .saving) → exec (.xlatec pl) s = .next (s.on ((a.modT fun t =>
      { t with xfaults := t.xfaults.erase x, unw := t.unw ++ [⟨0x41, 0, none, x.dva, t.time⟩] }).at_ s.m.cur))) ∧
    (t.xready = none ∨ t.halted ≠ none ∨ t.status = .empty → exec (.xlatec pl) s = .next s) ∧
    (∀ (x : XFault) (e : BitVec 8) (f : Option Fatal), t.xready = some x → t.halted = none → t.status = .ending e f → exec (.xlatec pl) s =
      .next (s.on (((a.modT fun t => { t with xfaults := t.xfaults.erase x }).faultRec 1 0x41 x.dva).at_ s.m.cur))) ∧
    (∀ (u : Unw) (us : List Unw) (g : Region) (rest : List Region), t.unw.filter (fun u => u.due ≤ t.time) = u :: us → t.halted = none →
      (t.status = .running ∨ t.status = .saving) → t.target u = some (g, rest) → ∃ m : Mach, exec (.unwind pl) s = .next (s.on m) ∧
        let n := (m.at_ pl).t
        let h := n.strm g.sec
        n.status = .running ∧ n.regions = rest ∧ h.pc = g.handler ∧ h.loops = (t.strm g.sec).loops.take g.depth ∧ h.drem = 0 ∧ h.gap = t.time + 3 ∧ n.time = t.time ∧
          n.s[61] = BitVec.ofNat 64 (u.cause + (if g.sec then 2 ^ 12 else 0) + u.code * 2 ^ 48) ∧
          n.s[62] = BitVec.ofNat 64 ((t.strm g.sec).pc.toNat % 2 ^ 56 + if g.sec then 2 ^ 63 else 0) ∧ (t.paired = true → (n.strm (!g.sec)).stopped = true)) ∧
    (∀ (u : Unw) (us : List Unw), t.unw.filter (fun u => u.due ≤ t.time) = u :: us → t.halted = none → (t.status = .running ∨ t.status = .saving) →
      t.target u = none →
      let b := a.modT fun t => { t with unw := t.unw.erase u }
      (u.cause ≠ 0x81 → u.cause ≠ 0x82 → u.cause ≠ 0x85 → t.status = .running → exec (.unwind pl) s = .next (s.on ((b.fatalEnd u.cause u.addr).at_ s.m.cur))) ∧
      (u.cause = 0x81 → t.status = .running → ∀ rest : List Unw, (u :: us).filter (fun x => x.cause = 0x81) = u :: rest →
        let c := rest.foldl (fun m x => m.faultRec 4 0x81 x.addr) (a.modT fun t => { t with unw := (u :: rest).foldl (fun l x => l.erase x) t.unw })
        exec (.unwind pl) s = .next (s.on ((c.fatalEnd 0x81 u.addr).at_ s.m.cur))) ∧
      (u.cause ≠ 0x81 → u.cause ≠ 0x82 → u.cause ≠ 0x85 → t.status = .saving → exec (.unwind pl) s = .next (s.on (b.saveFails.at_ s.m.cur))) ∧
      (u.cause = 0x82 ∨ u.cause = 0x85 → exec (.unwind pl) s = .next (s.on (b.at_ s.m.cur)))) ∧
    (t.unw.filter (fun u => u.due ≤ t.time) = [] ∨ t.halted ≠ none ∨ (t.status ≠ .running ∧ t.status ≠ .saving) → exec (.unwind pl) s = .next s)

/-- How control reaches a handler, which registers it finds there, and what happens without one. (R340, R342, R354, R358, R366, R371, R375, R376,
R377) -/
def Obligations.TrapsAndUnwinding : Prop :=
  Parts.TrapsEnterTheHandler ∧ Parts.FaultsUnwind

/-- Pages (R153–R155, R173, R360): firmware brings a page in, its leaf names it and is present and what waited goes on; a page it declines gets a TYPE 0 leaf; one that is in place
stays, as does a pinned one, which stops leaving, where the second tier is asked for; a page that moves keeps its bytes and its address in the space, and no cached translation of it is left. -/
def Parts.PagesMove : Prop :=
  ∀ (s : State) (asid : BitVec 16) (va : Word) (e a bits : Nat),
    let m := s.m
    let r := (va.toNat / 2 ^ bits * 2 ^ bits, 2 ^ bits)
    let w := BitVec.ofNat 64 e
    let leaf := fun (pa : Nat) => ((w &&& 0xFFFF0000000000BE) ||| BitVec.ofNat 64 pa ||| 1).toNat
    m.dev.leafAt asid va = some (a, bits) → m.dev.num a 8 = e →
    (∀ pa : Word, w.getLsbD 0 = false → pa.toNat % 2 ^ bits = 0 → m.dev.paOk pa.toNat = true → m.dev.paOk (pa.toNat + 2 ^ bits - 1) = true → inMgmt pa.toNat = false →
      exec (.pageResident asid va pa) s = .next (s.on (((m.invalidate asid (some r)).modD fun d => ((d.pokeNum a 8 (leaf pa.toNat)).unwait asid r).reuse pa.toNat (2 ^ bits)).runLater))) ∧
    (∀ pa : Word, w.getLsbD 0 = true → w.getLsbD 6 = false → exec (.pageResident asid va pa) s = .next s) ∧
    (m.dev.moversOn asid r = [] → (w.getLsbD 0 = false ∨ w.getLsbD 6 = true) → exec (.pageDecline asid va) s =
      .next (s.on (((m.invalidate asid (some r)).modD fun d => (d.pokeNum a 8 (w &&& 0xFFFFFFFFFFFFFFE7).toNat).unwait asid r).runLater))) ∧
    (m.dev.moversOn asid r = [] → w.getLsbD 0 = true → w.getLsbD 6 = false → exec (.pageDecline asid va) s = .next s) ∧
    (w.getLsbD 0 = false → ∀ pa : Word, exec (.pageMigration asid va pa) s = .next s) ∧
    (w.getLsbD 7 = true → w.getLsbD 6 = false → ∀ pa : Word, 0x200000000000 ≤ pa.toNat → exec (.pageMigration asid va pa) s = .next s) ∧
    (∀ pa : Word, let old := (w.toNat / 2 ^ 8 % 2 ^ 40) * 256
      w.getLsbD 0 = true → w.getLsbD 7 = true → w.getLsbD 6 = true → 0x200000000000 ≤ pa.toNat → pa.toNat % 2 ^ bits = 0 → old ≠ pa.toNat → m.dev.paOk pa.toNat = true →
      m.dev.paOk (pa.toNat + 2 ^ bits - 1) = true → inMgmt pa.toNat = false → inMgmt old = false → (a + 8 ≤ old ∨ old + 2 ^ bits ≤ a) → (a + 8 ≤ pa.toNat ∨ pa.toNat + 2 ^ bits ≤ a) →
      exec (.pageMigration asid va pa) s = .next (s.on (((m.invalidate asid (some r)).modD fun d => (d.pokeNum a 8 (leaf old)).unwait asid r).runLater))) ∧
    (∀ pa : Word, let old := (w.toNat / 2 ^ 8 % 2 ^ 40) * 256
      w.getLsbD 0 = true → (w.getLsbD 7 = false ∨ pa.toNat < 0x200000000000) → pa.toNat % 2 ^ bits = 0 → old % 2 ^ bits = 0 → old ≠ pa.toNat → m.dev.paOk pa.toNat = true →
      m.dev.paOk (pa.toNat + 2 ^ bits - 1) = true → inMgmt pa.toNat = false → inMgmt old = false → (a + 8 ≤ old ∨ old + 2 ^ bits ≤ a) → (a + 8 ≤ pa.toNat ∨ pa.toNat + 2 ^ bits ≤ a) →
      m.inFlight old (2 ^ bits) = false → m.core.l1 = [] → m.dev.cmds = [] → m.dev.later = [] → m.dev.heaps = [] → m.dev.mem.wf = true →
      ∃ n : Mach, exec (.pageMigration asid va pa) s = .next (s.on n) ∧ n.dev.num a 8 = leaf pa.toNat ∧ (∀ i < 2 ^ bits, n.dev.byte (pa.toNat + i) = m.dev.byte (old + i)) ∧
        (∀ x ∈ n.dev.tlb, x.covers asid (some r) = false) ∧ (∀ x ∈ n.core.tlb, x.covers asid (some r) = false))

/-- The wait for a page and the invalidation queue (R152, R360, R363): before 2^28 A-cycles nothing fails; after them the wait is over and its entry is marked (shown for a device without
threads, commands and launches), and the read of a thread that waits for the page meets a fault. A die's oldest invalidation command is carried out once the accesses that use a
translation have performed; when malformed, or when its milestone faults, it is dropped, counted and recorded; while its arrival waits, for the milestone's page or a stopped die, it
stays the oldest, so that commands complete in order. That a wait that is over marks its entry, that a command waits for all users, whichever pages they use, and how its arrival waits
are the model's readings (log entry 84). -/
def Parts.PageWaitsAndInvalidations : Prop :=
  ∀ s : State,
    (∀ (asid : BitVec 16) (va : Word) (w : PageWait), s.m.dev.pageWaits.find? (fun w => w.asid = asid && w.va.toNat / 0x10000 = va.toNat / 0x10000 && !w.failed) = some w →
      (s.m.dev.milepost < w.since + 2 ^ 28 → exec (.pageWaitTimeout asid va) s = .next s) ∧
      (w.since + 2 ^ 28 ≤ s.m.dev.milepost → s.m.thr0.live = false → s.m.thr1.live = false → s.m.dev.retryAt = [] → s.m.dev.cmds = [] → s.m.dev.insts = [] →
        s.m.dev.later = [] → s.m.dev.saved = [] → s.m.dev.launches = [] → s.m.dev.lanes = [] → (∀ k < 4, nth s.m.dev.lqueue k = [] ∧ nth s.m.dev.ivq k = []) → exec (.pageWaitTimeout asid va) s =
        .next (s.on (s.m.modD fun d => { d with pageWaits := d.pageWaits.map fun x => if x = w then { x with failed := true } else x })))) ∧
    (∀ (die : Nat) (q : Ivq) (rest : List Ivq), die < 4 → nth s.m.dev.ivq die = q :: rest →
      let popped := fun (m : Mach) => m.modD fun d => { d with ivq := setNth d.ivq die rest }
      let mal := fun (m : Mach) => (popped m).modD fun d => (d.count die 10).record die { Rec0.plain 1 0x48 with tid := q.own.tid, asid := q.asid.toNat }
      let asid := BitVec.ofNat 16 (q.w0.toNat / 2 ^ 48)
      let range := if q.w1.toNat / 2 ^ 32 = 0 then none else some (q.w0.toNat / 2 ^ 16 % 2 ^ 32 * 0x10000, q.w1.toNat / 2 ^ 32 * 0x10000)
      (q.done = false → s.m.dev.ivqBad q = true → exec (.ivqCommandExecute die) s = .next (s.on (mal s.m))) ∧
      (q.done = false → s.m.dev.ivqBad q = false → s.m.usersOut = true → exec (.ivqCommandExecute die) s = .next s) ∧
      (q.done = true ∨ (s.m.dev.ivqBad q = false ∧ s.m.usersOut = false) →
        let n := if q.done then s.m else s.m.invalidate asid range
        let waits := n.modD fun d => { d with ivq := setNth d.ivq die ({ q with done := true } :: rest) }
        (q.msDva = none → exec (.ivqCommandExecute die) s = .next (s.on (mal n))) ∧
        ∀ a : Word, q.msDva = some a →
          (∀ pa pte bits, n.dev.xlate q.asid a true = .ok pa pte bits → exec (.ivqCommandExecute die) s =
            .next (s.on (if n.dev.stops pa 16 then waits else (popped n).msCount pa 0 1))) ∧
          (n.dev.xlate q.asid a true = .absent → exec (.ivqCommandExecute die) s = .next (s.on (waits.modD fun d => d.waitPage q.asid a))) ∧
          (n.dev.xlate q.asid a true = .fault → exec (.ivqCommandExecute die) s = .next (s.on (mal n))))) ∧
    (∀ (m : Mach) (page n : Nat) (l : Landing) (a x : Word) (sgn : Bool), l ∈ m.t.land → l.data = none → l.src = .scalar a n sgn →
      m.coreRange a n false = .absent x → x.toNat / 0x10000 = page →
      l ∉ (m.failAccesses page).t.land ∧ ∃ f ∈ (m.failAccesses page).t.xfaults, f.dva = BitVec.ofNat 64 (page * 0x10000) ∧ f.due = some l.due)

/-- What firmware and the migration engine do with pages. (R152, R153, R154, R155, R173, R360, R363) -/
def Obligations.PagesAndInvalidation : Prop :=
  Parts.PagesMove ∧ Parts.PageWaitsAndInvalidations

/-! ### Errors, links, retirement, die drop, checkpoint (R14, R15, R367–R374, R381, R384, R385, R387, R388) -/

/-- Detected errors (R368, R372–R374, R381): a corrected error counts and changes nothing else; one that its retry clears counts as transient and writes a CLASS 2 record; one that returns counts
as lasting, writes a CLASS 3 record and poisons its unit, or marks the core failing; a retired or failing core takes no thread and asks its threads for their saves; a link runs on the lanes its
retirements leave. That rows take the codes 0x80 and 0x84, and how an address names its unit, is the model's reading (log entry 85); how PART_RETIREMENT names a part and which retirements
act is its choice (log entry 86). -/
def Obligations.ErrorsAreCountedAndRetried : Prop :=
  ∀ (s : State) (level die : Nat), die < 4 →
    let d0 := s.m.dev
    let up := fun (k : Nat) (d : Dev) =>
      { d with
        cnt := setNth d0.cnt die (setNth (nth d0.cnt die) k (if nth (nth d0.cnt die) k = 0xFFFFFFFF then 0xFFFFFFFF else nth (nth d0.cnt die) k + 1))
        cntNow := setNth d0.cntNow die (setNth (nth d0.cntNow die) k
          (hCycle d0.milepost, if (nth (nth d0.cntNow die) k).1 = hCycle d0.milepost then (nth (nth d0.cntNow die) k).2 + 1 else 1)) }
    let ask := fun (t : Thr) => if t.live then { t with preq := true } else t
    let retire := fun (m : Mach) => { m with core := { m.core with retired := true }, thr0 := ask m.thr0, thr1 := ask m.thr1 }
    (level < 6 → exec (.correctedError level die) s = .next (s.on (s.m.modD (up level)))) ∧
    (level < 6 → level ≠ 4 → ∀ addr : Word,
      let code := if level = 5 then 0x84 else 0x80
      let note := fun (cls k : Nat) => s.m.modD fun d => (up k d).errorRec die cls level code (BitVec.ofNat 64 (addr.toNat % 2 ^ 48))
      exec (.errorRetry level die addr false) s = .next (s.on (note 2 6)) ∧
      ((level = 1 ∨ level = 2) → s.m.dev.inHbm addr.toNat ∨ s.m.dev.inTier2 addr.toNat → exec (.errorRetry level die addr true) s = .next (s.on ((note 3 7).modD fun d =>
        { d with poison := insertNat (addr.toNat / 64) d.poison }))) ∧
      (level = 5 → exec (.errorRetry level die addr true) s = .next (s.on ((note 3 7).modC fun c => { c with failing := true }))) ∧
      (level = 3 → exec (.errorRetry level die addr true) s = .next (s.on (note 3 7))) ∧
      (level = 0 → addr.getLsbD 63 = true → exec (.errorRetry level die addr true) s = .next (s.on ((note 3 7).modD fun d =>
        d.poisonCs (fld addr 37 32 % 36) (fld addr 22 0) 1)))) ∧
    (∀ part : Word, let listed := s.m.modD fun d => { d with retired := d.retired ++ [(level, die, part)] }
      ((level = 0 ∨ level = 5) → part.toNat = s.m.core.num → part.toNat < 2 ^ 63 → exec (.partRetirement level die part) s = .next (s.on (retire listed))) ∧
      ((level = 0 ∨ level = 5) → (part.toNat ≠ s.m.core.num ∨ 2 ^ 63 ≤ part.toNat) → exec (.partRetirement level die part) s = .next (s.on listed)) ∧
      ((level = 1 ∨ level = 2) → exec (.partRetirement level die part) s = .next (s.on listed)) ∧
      (level = 3 → part.toNat % 32 < 30 →
        let p := part.toNat % 32
        let x := nth d0.ports p
        let of_ := listed.dev.retired.filter fun e => e.1 = 3 && e.2.2.toNat % 32 = p
        let left := if ∃ e ∈ of_, e.2.2.getLsbD 32 = true then 0 else 8 - of_.length
        let run := if 8 ≤ min left x.lanes then 8 else if 4 ≤ min left x.lanes then 4 else 0
        ∃ d : Dev, exec (.partRetirement level die part) s = .next (s.on { s.m with dev := d }) ∧ d.retired = listed.dev.retired ∧ d.mem = d0.mem ∧
          d.ports = setNth d0.ports p { x with lanes := run, retrain := false, badOnce := false, sbad := none } ∧ (run ≠ 0 ∨ x.lanes = 0 ∨ 24 ≤ p → d.egen = d0.egen)) ∧
      ((level = 4 ∨ 6 ≤ level) → exec (.partRetirement level die part) s = .next s)) ∧
    (s.m.core.failing = true ∨ s.m.core.retired = true → exec .coreRetirement s = .next (s.on (retire s.m))) ∧
    (s.m.core.failing = false → s.m.core.retired = false → exec .coreRetirement s = .next s)

/-- Twine ports and die links (R14, R15, R384, R385): a flit that fails its CRC is replayed, one that fails again makes the link retrain with a record; only the next flit in sequence counts; a packet
too old, or of a generation that is not live, is dropped and counted; what is left reads or writes memory, lands a row, joins a skein or a collective; a link that has retrained runs on 8 or 4 lanes,
those that failed being retired, and sends again what was not acknowledged, with its age, but for what has grown too old or is of an old generation, or is retired whole, which advances the generation
of its endpoint to a number not in quarantine. A flit that fails its CRC at the far end is sent again with those after it, and when it fails again the link retrains. What a packet's act is in detail,
the idle flits, the far end's report and what waits while a die is stopped are the model's reading (log entries 94, 87). -/
def Parts.TwinePorts : Prop :=
  (∀ (d : Dev) (die : Nat), die < 4 → let g := nth (d.advanceGen die).egen die
    (g ≠ nth d.egen die → ∀ q ∈ d.genOld, q.1 = die → q.2.1 = g → q.2.2 + 16000000 ≤ d.acyc) ∧
    ((∀ q ∈ d.genOld, q.1 ≠ die) → g = nth d.egen die + 1)) ∧
  ∀ (s : State) (port : Nat), port < 30 →
    let x := nth s.m.dev.ports port
    let die := portDie port
    let put := fun (y : Port) (d : Dev) => { d with ports := setNth d.ports port y }
    (port < 24 → die = port / 6) ∧
    (x.lanes = 0 ∨ x.retrain = true → ∀ ok seq w, exec (.flitReceive port ok seq w) s = .next s) ∧
    (x.lanes ≠ 0 → x.retrain = false → ∀ (seq : BitVec 12) (src age spent : Nat) (gen : BitVec 16) (pkt : TPkt),
      let got := exec (.flitReceive port true seq ⟨src, age, spent, gen, pkt⟩) s
      let bad := exec (.flitReceive port false seq ⟨src, age, spent, gen, pkt⟩) s
      let y := { x with badOnce := false, rseq := x.rseq + BitVec.ofNat 12 (pktFlits pkt) }
      let took := fun (d : Dev) => if x.badOnce then (put y d).count die 3 else put y d
      let acked := fun (d : Dev) => { took d with outbox := (took d).outbox ++ [⟨src, die, nth d.egen die, d.acyc, 0, .ack (y.rseq - 1)⟩] }
      let old := 255 < age + spent / 31250 ∨ gen ≠ s.m.dev.liveGen src
      (x.badOnce = false → bad = .next (s.on (s.m.modD (put { x with badOnce := true })))) ∧
      (x.badOnce = true → ∃ d : Dev, bad = .next (s.on { s.m with dev := d }) ∧ d.ports = setNth s.m.dev.ports port { x with badOnce := false, sbad := none, retrain := true } ∧ d.mem = s.m.dev.mem ∧
        d.cnt = (s.m.dev.count die 7).cnt ∧ ((nth s.m.dev.errs die).recs.length < 256 → (nth d.errs die).recs.length = (nth s.m.dev.errs die).recs.length + 1)) ∧
      (seq ≠ x.rseq → got = .next s) ∧
      (∀ pa n, pktRange pkt = some (pa, n) → s.m.dev.memRange pa n = true → s.m.dev.stops pa n = true → got = .next s) ∧
      (∀ dcl o bs b asid dms, pkt = .row dcl o bs b asid dms → s.m.dev.rowStops dcl asid dms = true → got = .next s) ∧
      (seq = x.rseq → (∀ pa n, pktRange pkt = some (pa, n) → s.m.dev.memRange pa n = true → s.m.dev.stops pa n = false) →
        (∀ dcl o bs b asid dms, pkt = .row dcl o bs b asid dms → s.m.dev.rowStops dcl asid dms = false) →
        (∀ n, pkt = .ack n → let z := { y with unack := unackAfter (y.acked n) y.unack, sbad := y.sbad.filter fun k => !ackCovers n k }
          got = .next (s.on ((s.m.modD took).modD fun d => (put z d).flush d.waitOut)) ∧ (s.m.dev.waitOut = [] → got = .next (s.on ((s.m.modD took).modD (put z))))) ∧
        (∀ n, pkt = .nak n → ∃ d : Dev, got = .next (s.on { s.m with dev := d }) ∧ d.mem = s.m.dev.mem ∧
          (x.sbad = some n → (nth d.ports port).retrain = true ∧ (nth d.ports port).sbad = none ∧ d.outbox = s.m.dev.outbox ∧ nth (nth d.cnt die) 7 = nth (nth (s.m.dev.count die 7).cnt die) 7) ∧
          (x.sbad ≠ some n → (nth d.ports port).retrain = false ∧ (nth d.ports port).sbad = some n ∧
            d.outbox = s.m.dev.outbox ++ (unackAfter (y.acked (n - 1)) y.unack).map fun u =>
              if s.m.dev.drops u.2.2 = true then { u.2.2 with pkt := .idle } else { u.2.2 with age := s.m.dev.sentAge u.2.2 })) ∧
        ((∀ n, pkt ≠ .ack n) → (∀ n, pkt ≠ .nak n) →
          (24 ≤ port → got = .next (s.on (s.m.modD acked))) ∧
          (port < 24 → pkt = .generation →
            got = .next (s.on ((s.m.modD acked).modD fun d => { d with gens := (d.gens.filter fun e => e.1 ≠ src) ++ [(src, gen)] }))) ∧
          (port < 24 → pkt ≠ .generation → old → got = .next (s.on ((s.m.modD acked).modD fun d => d.count die 9))) ∧
          (port < 24 → pkt ≠ .generation → ¬old →
            (∀ pa n, pktRange pkt = some (pa, n) → s.m.dev.memRange pa n = false → got = .next (s.on (s.m.modD acked))) ∧
            ((∀ pa n, pktRange pkt = some (pa, n) → s.m.dev.memRange pa n = true) →
              let m := s.m.modD acked
              (∀ pa bs p, pkt = .write pa bs p → got = .next (s.on (m.modD fun d => d.write pa bs p))) ∧
              (∀ pa n, pkt = .read pa n → let r := m.probeHome pa n
                got = .next (s.on (r.modD fun d => d.post die src (.reply (r.dev.bytes pa n) (r.dev.poisoned pa n))))) ∧
              (∀ pa l t h, pkt = .join pa l t h → got = .next (s.on (m.modD fun d => d.skJoin pa ⟨l, t, some src⟩ h))) ∧
              (∀ pa l t, pkt = .leave pa l t → got = .next (s.on (m.modD fun d => d.skLeave pa ⟨l, t, some src⟩))) ∧
              (∀ pa l t k, pkt = .stop pa l t → m.dev.skein? pa = some k → k.ht = true → k.halted = false → ∃ m' : Mach, got = .next (s.on m') ∧ m'.dev.mem = m.dev.mem ∧
                m'.dev.skeins = m.dev.skeins.map fun x => if x.pa = pa then { x with halted := true } else x) ∧
              (∀ dcl o bs b asid dms, pkt = .row dcl o bs b asid dms → dcl < 36 → o + bs.length ≤ 8388608 →
                (m.dev.dmsFault asid dms = true → got = .next (s.on (m.modD fun d => d.post die src .rowFault))) ∧
                (m.dev.dmsFault asid dms = false → m.dev.dmsAbsent asid dms = true → got = .next (s.on (m.modD fun d => (d.waitPage asid dms).post die src (.rowAck false)))) ∧
                (m.dev.dmsFault asid dms = false → m.dev.dmsAbsent asid dms = false → got = .next (s.on ((m.landRow dcl o bs b asid dms).modD fun d => d.post die src (.rowAck true))))) ∧
              (∀ pa l t op red dt nb bs p k, pkt = .coll pa l t op red dt nb bs p → m.dev.skein? pa = some k →
                let r : TRef := ⟨l, t, some src⟩
                got = .next (s.on (m.collMeet pa k r (op, red, dt, nb) fun i => { i with far := i.far ++ [(r, bs, p)] })))))))) ∧
    (x.retrain = true → ∀ lanes : Nat,
      let n := min (min lanes (s.m.dev.lanesLeft port)) x.lanes
      let k := if 8 ≤ n then 8 else if 4 ≤ n then 4 else 0
      ∃ d : Dev, exec (.linkTrained port lanes) s = .next (s.on { s.m with dev := d }) ∧ d.mem = s.m.dev.mem ∧
        d.retired = s.m.dev.retired ++ List.replicate (s.m.dev.lanesLeft port - lanes) (3, die, BitVec.ofNat 64 port) ∧
        (let r := nth d.ports port; r.lanes = k ∧ r.retrain = false ∧ r.badOnce = false ∧ r.sbad = none ∧ r.rseq = x.rseq) ∧
        (∀ q < 30, q ≠ port → (nth d.ports q).lanes = (nth s.m.dev.ports q).lanes ∧ (nth d.ports q).retrain = (nth s.m.dev.ports q).retrain) ∧
        (k = 0 → d.ports = setNth s.m.dev.ports port { x with lanes := 0, retrain := false, badOnce := false, sbad := none } ∧ d.outbox = s.m.dev.outbox) ∧
        (k ≠ 0 → ∃ more, (s.m.dev.waitOut = [] → more = []) ∧ d.outbox = s.m.dev.outbox ++ (x.unack.map fun u =>
          if u.2.2.pkt ≠ .idle ∧ (255 < s.m.dev.sentAge u.2.2 ∨ u.2.2.gen ≠ nth d.egen u.2.2.die) then { u.2.2 with pkt := .idle } else { u.2.2 with age := s.m.dev.sentAge u.2.2 }) ++ more) ∧
        (port < 24 → x.lanes ≠ 0 → k = 0 → d.egen = (s.m.dev.advanceGen die).egen) ∧
        (port < 24 → k ≠ 0 → (∀ q ∈ s.m.dev.running, q / 6 = die → q = port) → d.egen = (s.m.dev.advanceGen die).egen) ∧
        (k ≠ 0 → (24 ≤ port ∨ ∃ q ∈ s.m.dev.running, q / 6 = die ∧ q ≠ port) → d.egen = s.m.dev.egen)) ∧
    (x.retrain = false → ∀ lanes : Nat, exec (.linkTrained port lanes) s = .next s)

/-- Checkpoints and the die drop (R387, R388): while a thread of the core is placed or an engine has work on its way, placements stop and the threads are asked for their saves; then the image is taken
with its poison, HBM to the second tier, or all memory to the safe tier, whose pages of the second tier that were not written since are those of its previous image, and the written bits are cleared.
The first image on the safe tier, and the first after a change of it, is full. A die drop of a whole device removes the die, its ports, links and lines, ends the memory that its stacks held, advances
its generation and clears its groups from the GMASK of the pools. That the images stand outside memory and one on the safe tier replaces HBM's is the model's choice (log entry 89). -/
def Parts.CheckpointsAndDieDrop : Prop :=
  (∀ (d : Dev) (a : Nat), d.mem.wf = true →
    (a < 0x200000000000 → Mem.read (d.image false).mem a = Mem.read d.mem a ∧ Mem.read (d.image true).mem a = Mem.read d.mem a) ∧
    (0x200000000000 ≤ a → Mem.read (d.image false).mem a = 0 ∧ (d.ckSafe = none ∨ d.ckNew = true → Mem.read (d.image true).mem a = Mem.read d.mem a) ∧
      ∀ old : Image, d.ckSafe = some old → d.ckNew = false → old.mem.wf = true →
        Mem.read (d.image true).mem a = if a / 0x10000 ∈ d.written then Mem.read d.mem a else Mem.read old.mem a)) ∧
  ∀ s : State,
    let free := s.m.thr0.live = false ∧ s.m.thr1.live = false
    let quiet := ∀ c ∈ s.m.dev.cmds, (∃ n, c.kind = .wind n) ∨ (∃ a b e f g h i, c.kind = .coll a b e f g h i)
    (free → quiet →
      exec (.checkpoint true) s = .next (s.on ((s.m.probeImage true).modD fun d => { d with ckSafe := some (d.image true), ckHbm := none, ckNew := false, written := [], qstop := 0 })) ∧
      (s.m.core.armed = none → ∀ b, s.m.probeImage b = s.m) ∧
      exec (.checkpoint false) s = .next (s.on ((s.m.probeImage false).modD fun d => { d with ckHbm := some (d.image false), qstop := 0 }))) ∧
    ((¬free ∨ ¬quiet) → ∀ b : Bool, ∃ m : Mach, exec (.checkpoint b) s = .next (s.on m) ∧ m.dev.qstop = s.m.dev.qstop ||| 0xF ∧ m.dev.mem = s.m.dev.mem ∧
      (s.m.core.die < 4 → (s.m.thr0.live = true → m.thr0 = { s.m.thr0 with preq := true }) ∧ (s.m.thr1.live = true → m.thr1 = { s.m.thr1 with preq := true }))) ∧
    ∀ (die : Nat) (moves : List (BitVec 16 × Word × Word)) (pools : List Nat), die < 4 →
      let go := exec (.dieDrop ⟨die, moves, pools⟩) s
      (s.m.dev.dies ≠ 0xF → go = .next s) ∧
      (s.m.dev.dies = 0xF → s.m.core.die = die → ¬free → ∃ m : Mach, go = .next (s.on m) ∧ (∀ k < 4, m.dev.qstop.getLsbD k = (s.m.dev.qstop.getLsbD k || k = die)) ∧
        m.dev.mem = s.m.dev.mem ∧ (s.m.thr0.live = true → m.thr0 = { s.m.thr0 with preq := true }) ∧ (s.m.thr1.live = true → m.thr1 = { s.m.thr1 with preq := true })) ∧
      (s.m.dev.dies = 0xF → (s.m.core.die ≠ die ∨ free) → s.m.writesOut = true → go = .next s) ∧
      (s.m.dev.dies = 0xF → (s.m.core.die ≠ die ∨ free) → s.m.writesOut = false → ∃ m : Mach, go = .next (s.on m) ∧
        (∀ k < 4, m.dev.dies.getLsbD k = decide (k ≠ die)) ∧ (∀ k < 4, m.dev.diep.getLsbD k = (s.m.dev.diep.getLsbD k && k ≠ die)) ∧
        (∀ k < 4, m.dev.qstop.getLsbD k = (s.m.dev.qstop.getLsbD k || k = die)) ∧ (∀ k < 8, m.dev.cxl.getLsbD k = (s.m.dev.cxl.getLsbD k && k / 2 ≠ die)) ∧
        (∀ p < 24, p / 6 = die → (nth m.dev.ports p).lanes = 0) ∧ (∀ p < 24, p / 6 ≠ die → nth m.dev.ports p = nth s.m.dev.ports p) ∧
        (∀ p < 30, 24 ≤ p → ((linkDies p).1 = die ∨ (linkDies p).2 = die) → (nth m.dev.ports p).lanes = 0) ∧
        nth m.dev.egen die = nth (s.m.dev.advanceGen die).egen die ∧ (m.core.retired = (s.m.core.retired || s.m.core.die = die)) ∧
        m.core.tlb = [] ∧ m.core.l1 = [] ∧ m.dev.tlb = [] ∧
        (pools = [] → ∀ z ∈ m.dev.mem, z.1 < 0x008400000000 ∨ 0x200000000000 ≤ z.1) ∧
        (s.m.memOk → ∀ pa ∈ pools, ∀ i < 4, Mem.read m.dev.mem (pa + 16 + 4 * die + i) = 0))

/-- Links, the image of memory, and a device that goes on without a die. What a drop loses is in part the model's choice (log entry 88). (R14, R15,
R384, R385, R387, R388) -/
def Obligations.LinksCheckpointsAndDieDrop : Prop :=
  Parts.TwinePorts ∧ Parts.CheckpointsAndDieDrop

/-! ### Debug stops (R45–R48, R64) -/

/-- Halting and going on (R45, R47, R64, R342, R354): a thread halts before the bundle at a breakpoint of its launch; `cont` resumes every halted thread from its halt point, delivering a trap that had
halted it or completing its fatal end, and lets the halted skeins go on; `step` lets one thread issue n bundles, at least one; what the thread's array had been triggered to do is done before it goes
on. That a step of a thread halted for a fatal end does nothing is the model's choice (log entry 100). -/
def Parts.DebugStopsAndResumes : Prop :=
  ∀ s : State,
    (∀ pl : Place, let a := s.m.at_ pl
      (a.reaches = true → a.t.ref.launch ∈ a.dev.dbg.attached → (a.t.ref.launch, a.st.pc.toNat) ∈ a.dev.dbg.bps → (pl, a.t.ref, a.st.pc.toNat) ∉ a.dev.dbg.skip → ∃ m : Mach,
        exec (.breakpointHalt pl) s = .next (s.on m) ∧ (m.at_ pl).t.halted = some .breakpoint ∧ (m.at_ pl).t.s = a.t.s ∧ (m.at_ pl).st.pc = a.st.pc ∧ m.dev.mem = s.m.dev.mem) ∧
      (a.reaches = false ∨ a.t.ref.launch ∉ a.dev.dbg.attached ∨ (a.t.ref.launch, a.st.pc.toNat) ∉ a.dev.dbg.bps → exec (.breakpointHalt pl) s = .next s)) ∧
    (∃ m : Mach, exec .debugResume s = .next (s.on m) ∧ m.dev.dbg.steps = none ∧
      ((∀ w b, s.m.thr0.halted ≠ some (.trap w b)) → (∀ w b, s.m.thr1.halted ≠ some (.trap w b)) → m.dev.skeins = s.m.dev.skeins.map fun k => { k with halted := false }) ∧
      (s.m.thr0.live = true → m.thr0.halted = none) ∧
      (s.m.thr0.live = true → (s.m.thr0.halted = none ∨ s.m.thr0.halted = some .breakpoint ∨ s.m.thr0.halted = some .step ∨ s.m.thr0.halted = some .peer) →
        m.thr0.status = s.m.thr0.status ∧ m.thr0.s = s.m.thr0.s ∧ m.thr0.prim.pc = s.m.thr0.prim.pc) ∧
      (∀ code w, s.m.thr0.live = true → s.m.thr0.halted = some (.fault code w) → m.thr0.regions = [] ∧ m.thr0.s = s.m.thr0.s ∧ ∃ f, m.thr0.status = .ending 0xFE (some f))) ∧
    (∀ (pl : Place) (n : Nat), let a := s.m.at_ pl
      (∀ k : StopK, a.t.halted = some k → (∀ c w, k ≠ .fault c w) → exec (.debugStep pl n) s = .next (s.on (((a.drainTiles.tileWrites.modT fun t => { t with halted := none, haltReq := false }).modD fun d =>
        { d with dbg := { d.dbg with steps := some (pl, max n 1) } }).at_ s.m.cur))) ∧
      (∀ c w, a.t.halted = some (.fault c w) → exec (.debugStep pl n) s = .next s) ∧
      (a.t.halted = none → exec (.debugStep pl n) s = .next s))

/-- The debugger's writes (R45, R48, R53, R64): to a halted thread they change the named register and nothing else, not the operand latches, but for p0, q0 of both clusters, which stay; a latch write
changes one entry of the latch view; a flush reloads each latch that was moved from a scalar register; breakpoints and attachments are set and cleared at any time; nothing else is written to a thread
that is not halted. What the model chooses: that attachments and breakpoints are destinations of a write (log entry 34), that a vector register keeps its map and tangents (log entry 33),
what a write of a spool, of FLAGS, of POOLB or of an unprivileged thread's ERRINJ does (log entry 101), and which source a flush reloads a latch from (log entry 99). -/
def Parts.DebuggerWrites : Prop :=
  ∀ (s : State) (pl : Place) (w : Word) (v : Vec),
    let a := s.m.at_ pl
    let put := fun (d : DbgDst) (t : Thr) => exec (.debuggerRegisterWrite pl d w v) s = .next (s.on ((a.setT t).at_ s.m.cur))
    let dbg := fun (d : DbgDst) (g : Dbg) => exec (.debuggerRegisterWrite pl d w v) s = .next (s.on (s.m.modD fun x => { x with dbg := g }))
    (∀ l b : Nat, let g := s.m.dev.dbg
      (l ∉ g.attached → dbg (.attach l true) { g with attached := g.attached ++ [l] }) ∧ (l ∈ g.attached → dbg (.attach l true) g) ∧
      dbg (.attach l false) { g with attached := g.attached.filter fun y => !(y == l) } ∧
      ((l, b) ∉ g.bps → dbg (.brk l b true) { g with bps := g.bps ++ [(l, b)] }) ∧ ((l, b) ∈ g.bps → dbg (.brk l b true) g) ∧
      dbg (.brk l b false) { g with bps := g.bps.filter fun y => !(y == (l, b)) }) ∧
    (a.t.halted = none → ∀ (d : DbgDst) (u : FU) (j : LatchSel), ((∀ l on, d ≠ .attach l on) → (∀ l b on, d ≠ .brk l b on) → exec (.debuggerRegisterWrite pl d w v) s = .next s) ∧
      exec (.latchWrite pl u j w v) s = .next s ∧ exec (.latchFlush pl) s = .next s) ∧
    (a.t.halted ≠ none → ∀ n : Nat,
      (∀ h : n < 64, put (.s ⟨n, h⟩) { a.t with s := a.t.s.set n w }) ∧
      (∀ h : n < 16, 0 < n → put (.p ⟨n, h⟩) { a.t with p := a.t.p.set n (decide (w ≠ 0)) }) ∧
      put (.p 0) a.t ∧ put (.qa 0) a.t ∧ put (.qb 0) a.t ∧
      (∀ h : n < 32, put (.va ⟨n, h⟩) { a.t with va := a.t.va.set n { a.t.va[n] with lanes := v } }) ∧
      (∀ h : n < 32, put (.vb ⟨n, h⟩) { a.t with vb := a.t.vb.set n { a.t.vb[n] with lanes := v } }) ∧
      (∀ h : n < 16, 0 < n → put (.qa ⟨n, h⟩) { a.t with qa := a.t.qa.set n w }) ∧ (∀ h : n < 16, 0 < n → put (.qb ⟨n, h⟩) { a.t with qb := a.t.qb.set n w }) ∧
      (∀ h : n < 4, put (.w ⟨n, h⟩) { a.t with w := a.t.w.set n (if w.msb then 0x8000000000000000 else w &&& 0x0000FFFFFFFFFFFF) }) ∧
      put .xab { a.t with xab := { a.t.xab with lanes := v } } ∧ put .xba { a.t with xba := { a.t.xba with lanes := v } } ∧
      put .fmt { a.t with fmt := w &&& 0xFFFF000000EF01FF, fmtq := [] } ∧ put .tscale { a.t with tscale := w.setWidth 32, tscaleq := [] } ∧
      put .seed { a.t with seed := w } ∧ put .nrc { a.t with nrc := w.setWidth 16 } ∧ put .stat { a.t with stat := w.setWidth 32 &&& 15#32 } ∧
      (∃ t : Thr, put .flags t ∧ t.flags = w.setWidth 32 ∧ t.s = a.t.s ∧ t.status = a.t.status) ∧
      exec (.debuggerRegisterWrite pl .mpc w v) s = .next (s.on ((a.modSt fun x => { x with mpc := w }).at_ s.m.cur)) ∧
      (∀ h : n < 16, (nth a.t.spools n).bound = true → (nth a.t.spools n).filled ≠ 0 →
        put (.sp ⟨n, h⟩) { a.t with spad := Mem.writeN a.t.spad ((nth a.t.spools n).slotOff (nth a.t.spools n).rpos) (bytesOfVec v) }) ∧
      (∀ i : Fin 3, exec (.debuggerRegisterWrite pl (.poolb i) w v) s = .next (s.on (s.m.modC fun c => { c with poolb := setNth c.poolb i.val (w.setWidth 32) }))) ∧
      (a.t.priv = true → exec (.debuggerRegisterWrite pl .errinjCtl w v) s = .next (s.on (s.m.modC fun c => { c with injCtl := injOf w })))) ∧
    (a.t.halted ≠ none → ∀ (u : FU) (j : Fin 3),
      (u.scalar = true → exec (.latchWrite pl u (.o j) w v) s =
        .next (s.on ((a.modSt fun x => { x with sl := setNth x.sl u.num (setNth (nth x.sl u.num) j.val w) }).at_ s.m.cur))) ∧
      (u.scalar = false → ∃ m : Mach, exec (.latchWrite pl u (.o j) w v) s = .next (s.on (m.at_ s.m.cur)) ∧ m.t = (a.modSt fun _ => m.st).t ∧
        nth (nth m.st.vl (vlIx u)) j.val = { nth (nth a.st.vl (vlIx u)) j.val with lanes := v } ∧ m.st.sl = a.st.sl ∧ m.st.vport = a.st.vport) ∧
      (u.scalar = false → ∃ m : Mach, exec (.latchWrite pl u .r w v) s = .next (s.on (m.at_ s.m.cur)) ∧ m.st.vl = a.st.vl ∧ m.st.sl = a.st.sl ∧
        (nth m.st.vport (portR u).num).val = { (nth a.st.vport (portR u).num).val with lanes := v }) ∧
      (∀ p : SPort, u.scalar = true → scalarPort u = some p → ∃ m : Mach, exec (.latchWrite pl u .r w v) s = .next (s.on (m.at_ s.m.cur)) ∧ m.st.sl = a.st.sl ∧
        (nth m.st.sport p.num).val = w)) ∧
    (a.t.halted ≠ none → a.t.paired = false → ∃ m : Mach, exec (.latchFlush pl) s = .next (s.on m) ∧ (m.at_ pl).t.s = a.t.s ∧
      ∀ (u : FU) (j : Fin 3) (n : Fin 64), u.scalar = true → nth (nth a.st.lsrc u.num) j.val = some (.s n, allLanes) →
        nth (nth (m.at_ pl).st.sl u.num) j.val = nth a.t.s n.val)

/-- What a debug stop leaves and what the debugger changes. (R45, R46, R47, R48, R49, R50, R53, R64) -/
def Obligations.DebuggerStopsAndWrites : Prop :=
  Parts.DebugStopsAndResumes ∧ Parts.DebuggerWrites

/-! ### Reset and the memories (R22, R29, R101, R319, R374, R394, R399) -/

/-- After reset no thread is placed, the milepost counter and the die counters stand at 0, the error queues are empty with SEQN 0, STAGE and the measurements are 0, SLICE is 16, and nothing waits from
outside (R17, R319, R374, R394, R399, Table 22-3); a thread whose image holds no section starts with the reset values of Table 2-3; and reset memory is canonical, as every address reads as the model's
log entry 1 says. -/
def Obligations.ResetState : Prop :=
  (let s := State.reset;
    s.m.thr0.live = false ∧ s.m.thr1.live = false ∧ s.m.dev.milepost = 0 ∧ (∀ d < 4, ∀ k < 13, nth (nth s.m.dev.cnt d) k = 0) ∧
    (∀ d < 4, nth s.m.dev.errs d = ⟨[], 0, 0⟩) ∧ s.m.dev.stageNo = 0 ∧ (∀ k < 3, nth s.m.dev.meas k = 0) ∧ s.m.dev.slice = 16 ∧ s.m.dev.mem = [] ∧ s.inputs = [] ∧
    s.issue = none ∧ s.m.memOk) ∧
  ∀ (c : Ctxt) (b : Thr), (∀ k : Nat, nth c.secs k = none) →
    let t := c.thread false none b
    t.s = Vector.replicate 64 0 ∧ t.p = Vector.replicate 16 false ∧ t.va = Vector.replicate 32 VVal.zero ∧ t.vb = Vector.replicate 32 VVal.zero ∧
      t.qa = Vector.replicate 16 0 ∧ t.qb = Vector.replicate 16 0 ∧ t.fmt = 0x0000000000200000 ∧ t.tscale = 0x3F800000 ∧ t.stat = 0 ∧ t.regions = [] ∧
      (∀ i < 16, (nth t.spools i).bound = false) ∧ (∀ i < 8, nth t.skeins i = none) ∧ t.prim.loops = [] ∧ t.prim.pend = [] ∧ t.land = []

/-- Every step keeps every memory of the machine canonical: entries in rising order of address, none equal to what an unlisted address reads as. -/
def Obligations.StepsKeepMemoriesCanonical : Prop :=
  ∀ s t : State, s.issue = none → s.m.memOk → step s = .next t → t.m.memOk
end

