-- ==== Sys2Proof/Laws/Basic.lean ====
section
/-! SUPPORT. Reading a vector after one of its elements was replaced. -/

namespace Sys2Proof

/-- The element replaced, at its index modulo the length; every other element stays. -/
theorem nth_setNth {α : Type} {n : Nat} (v : Vector α (n + 1)) (i j : Nat) (x : α) :
    nth (setNth v i x) j = if i % (n + 1) = j % (n + 1) then x else nth v j := by
  unfold nth setNth
  rw [Vector.getElem_set]
/-- The element replaced. -/
@[simp] theorem nth_setNth_self {α : Type} {n : Nat} (v : Vector α (n + 1)) (i : Nat) (x : α) : nth (setNth v i x) i = x := by
  simp [nth_setNth]
/-- Another element. -/
theorem nth_setNth_ne {α : Type} {n : Nat} (v : Vector α (n + 1)) {i j : Nat} (x : α) (h : i % (n + 1) ≠ j % (n + 1)) :
    nth (setNth v i x) j = nth v j := by simp [nth_setNth, h]

end Sys2Proof
end

