-- ==== Sys2Proof/Laws/Mem.lean ====
section
/-! SUPPORT. The laws of byte memories: a write is read back and leaves every other address alone, and every operation keeps the canonical
form, in which equal memories are equal lists. -/

namespace Sys2Proof.Machine

/-- A canonical memory above a bound is canonical above a lower one. -/
theorem Mem.wfFrom_le {m : Mem} {lo lo' : Nat} (h : Mem.wfFrom lo m = true) (hl : lo' ≤ lo) : Mem.wfFrom lo' m = true := by
  cases m with
  | nil => rfl
  | cons c r => simp [Mem.wfFrom] at *; exact ⟨⟨by omega, h.1.2⟩, h.2⟩

/-- Below its bound a canonical memory lists nothing. -/
theorem Mem.read_below {m : Mem} {lo a : Nat} (h : Mem.wfFrom lo m = true) (ha : a < lo) : Mem.read m a = 0 := by
  cases m with
  | nil => rfl
  | cons c r =>
    simp [Mem.wfFrom] at h
    simp [Mem.read, show a < c.1 by omega]

/-- A write at or above the bound keeps the form above it. -/
theorem Mem.wfFrom_write {m : Mem} {lo a : Nat} (b : Byte) (h : Mem.wfFrom lo m = true) (ha : lo ≤ a) :
    Mem.wfFrom lo (Mem.write m a b) = true := by
  induction m generalizing lo with
  | nil =>
    unfold Mem.write
    split <;> simp_all [Mem.wfFrom]
  | cons c r ih =>
    obtain ⟨k, x⟩ := c
    simp only [Mem.wfFrom, Bool.and_eq_true, decide_eq_true_eq] at h
    unfold Mem.write
    split
    · split
      · simp only [Mem.wfFrom, Bool.and_eq_true, decide_eq_true_eq]; exact h
      · simp only [Mem.wfFrom, Bool.and_eq_true, decide_eq_true_eq]
        exact ⟨⟨ha, ‹_›⟩, ⟨by omega, h.1.2⟩, h.2⟩
    · split
      · split
        · exact Mem.wfFrom_le h.2 (by omega)
        · simp only [Mem.wfFrom, Bool.and_eq_true, decide_eq_true_eq]
          exact ⟨⟨ha, ‹_›⟩, by subst_vars; exact h.2⟩
      · simp only [Mem.wfFrom, Bool.and_eq_true, decide_eq_true_eq]
        exact ⟨h.1, ih h.2 (by omega)⟩

/-- A write keeps the canonical form. -/
theorem Mem.wf_write {m : Mem} (a : Nat) (b : Byte) (h : m.wf = true) : (Mem.write m a b).wf = true := Mem.wfFrom_write b h (by omega)

/-- Read after write. -/
theorem Mem.read_write {m : Mem} {lo : Nat} (a x : Nat) (b : Byte) (h : Mem.wfFrom lo m = true) :
    Mem.read (Mem.write m a b) x = if x = a then b else Mem.read m x := by
  induction m generalizing lo with
  | nil =>
    by_cases hb : b = 0 <;> by_cases hx : x = a <;> simp_all [Mem.write, Mem.read]
  | cons c r ih =>
    obtain ⟨k, y⟩ := c
    simp only [Mem.wfFrom, Bool.and_eq_true, decide_eq_true_eq] at h
    have hlow : ∀ z, z < k + 1 → Mem.read r z = 0 := fun z hz => Mem.read_below h.2 hz
    unfold Mem.write
    by_cases hak : a < k
    · by_cases hb : b = 0
      · by_cases hx : x = a <;> simp_all [Mem.read]
      · by_cases hx : x = a
        · simp_all [Mem.read]
        · by_cases hxa : x < a
          · rw [if_pos hak, if_neg hb]; simp [Mem.read, hxa, hx, show x < k by omega]
          · rw [if_pos hak, if_neg hb]; simp [Mem.read, hxa, hx]
    · by_cases hk : a = k
      · subst hk
        by_cases hb : b = 0
        · by_cases hx : x = a
          · subst hx; simp [hb, hlow x (by omega)]
          · by_cases hxa : x < a
            · simp [hb, hx, Mem.read, hxa, hlow x (by omega)]
            · simp [hb, hx, Mem.read, hxa]
        · by_cases hx : x = a <;> simp_all [Mem.read]
      · by_cases hx : x = k
        · subst hx; simp [hak, hk, Mem.read, show ¬ x = a by omega]
        · by_cases hxk : x < k
          · simp [hak, hk, Mem.read, hxk, show ¬ x = a by omega]
          · simp [hak, hk, Mem.read, hxk, hx, ih h.2]

/-- The entries from an address on are canonical above it. -/
theorem Mem.wfFrom_since {m : Mem} {lo : Nat} (a : Nat) (h : Mem.wfFrom lo m = true) : Mem.wfFrom a (m.since a) = true := by
  induction m generalizing lo with
  | nil => rfl
  | cons c r ih =>
    simp only [Mem.wfFrom, Bool.and_eq_true, decide_eq_true_eq] at h
    unfold Mem.since
    split
    · exact ih h.2
    · simp only [Mem.wfFrom, Bool.and_eq_true, decide_eq_true_eq]
      exact ⟨⟨by omega, h.1.2⟩, h.2⟩

/-- Leaving out the entries below an address changes no byte from there on. -/
theorem Mem.read_since (m : Mem) {a x : Nat} (h : a ≤ x) : Mem.read (m.since a) x = Mem.read m x := by
  induction m with
  | nil => rfl
  | cons c r ih =>
    unfold Mem.since
    split
    · simp [ih, Mem.read, show ¬ x < c.1 by omega, show ¬ x = c.1 by omega]
    · rfl

/-- Leaving out more than was left out before. -/
theorem Mem.since_since (m : Mem) {a b : Nat} (h : a ≤ b) : (m.since a).since b = m.since b := by
  induction m with
  | nil => rfl
  | cons c r ih =>
    by_cases hc : c.1 < a
    · simp [Mem.since, hc, show c.1 < b by omega, ih]
    · rw [show Mem.since (c :: r) a = c :: r by simp [Mem.since, hc]]

/-- The bytes read are those at the addresses from `a` on. -/
theorem Mem.readN_eq (m : Mem) (a n : Nat) : Mem.readN m a n = (List.range n).map fun i => Mem.read m (a + i) := by
  induction n generalizing m a with
  | zero => rfl
  | succ n ih =>
    rw [Mem.readN, ih, List.range_succ_eq_map, Mem.read_since m (Nat.le_refl a)]
    simp only [List.map_cons, List.map_map, Function.comp_def, Nat.add_zero, List.cons.injEq, true_and]
    refine List.map_congr_left fun i _ => ?_
    rw [Mem.read_since m (by omega)]
    exact congrArg _ (by omega)

/-- Bytes put over the entries from `a` on keep the form above `a`. -/
theorem Mem.wfFrom_put {m : Mem} {a : Nat} (bs : List Byte) (h : Mem.wfFrom a m = true) : Mem.wfFrom a (Mem.put m a bs) = true := by
  induction bs generalizing m a with
  | nil => exact h
  | cons b bs ih =>
    have := ih (Mem.wfFrom_since (a + 1) h)
    by_cases hb : b = 0
    · simp only [Mem.put, if_pos hb]; exact Mem.wfFrom_le this (by omega)
    · simp only [Mem.put, if_neg hb, Mem.wfFrom, Bool.and_eq_true, decide_eq_true_eq]; exact ⟨⟨by omega, hb⟩, this⟩

/-- What bytes put over the entries from `a` on leave at each address from there on. -/
theorem Mem.read_put {m : Mem} {a : Nat} (bs : List Byte) (x : Nat) (h : Mem.wfFrom a m = true) :
    Mem.read (Mem.put m a bs) x = if a ≤ x then bs.getD (x - a) (Mem.read m x) else 0 := by
  induction bs generalizing m a with
  | nil =>
    by_cases hx : a ≤ x
    · simp [Mem.put, hx]
    · simpa [Mem.put, hx] using Mem.read_below h (by omega)
  | cons b bs ih =>
    have hs := Mem.wfFrom_since (a + 1) h
    have := ih hs
    rcases Nat.lt_trichotomy x a with hx | hx | hx
    · by_cases hb : b = 0
      · simp only [Mem.put, if_pos hb, this]; simp [show ¬ a ≤ x by omega, show ¬ a + 1 ≤ x by omega]
      · simp only [Mem.put, if_neg hb]; simp [Mem.read, hx, show ¬ a ≤ x by omega]
    · subst hx
      by_cases hb : b = 0
      · simp only [Mem.put, if_pos hb, this]; simp [hb, show ¬ x + 1 ≤ x by omega]
      · simp only [Mem.put, if_neg hb]; simp [Mem.read]
    · obtain ⟨k, rfl⟩ : ∃ k, x = a + 1 + k := ⟨x - (a + 1), by omega⟩
      have e : a + 1 + k - a = k + 1 := by omega
      have := this.trans (by rw [Mem.read_since m (show a + 1 ≤ a + 1 + k by omega)])
      by_cases hb : b = 0
      · simp only [Mem.put, if_pos hb, this]; simp [e, show a ≤ a + 1 + k by omega]
      · simp only [Mem.put, if_neg hb]
        simp [Mem.read, this, e, show a ≤ a + 1 + k by omega, show ¬ a + 1 + k < a by omega, show ¬ a + 1 + k = a by omega]

/-- Writes of bytes at or above the bound keep the form above it. -/
theorem Mem.wfFrom_writeN {m : Mem} {lo a : Nat} (bs : List Byte) (h : Mem.wfFrom lo m = true) (ha : lo ≤ a) :
    Mem.wfFrom lo (Mem.writeN m a bs) = true := by
  induction m generalizing lo with
  | nil => exact Mem.wfFrom_le (Mem.wfFrom_put (m := []) bs rfl) ha
  | cons c r ih =>
    have h' := h
    simp only [Mem.wfFrom, Bool.and_eq_true, decide_eq_true_eq] at h
    unfold Mem.writeN
    split
    · simp only [Mem.wfFrom, Bool.and_eq_true, decide_eq_true_eq]
      exact ⟨h.1, ih h.2 (by omega)⟩
    · refine Mem.wfFrom_le (Mem.wfFrom_put bs ?_) ha
      simp only [Mem.wfFrom, Bool.and_eq_true, decide_eq_true_eq]
      exact ⟨⟨by omega, h.1.2⟩, h.2⟩

/-- Writes of bytes keep the canonical form. -/
theorem Mem.wf_writeN {m : Mem} (a : Nat) (bs : List Byte) (h : m.wf = true) : (Mem.writeN m a bs).wf = true :=
  Mem.wfFrom_writeN bs h (by omega)

/-- What a write of bytes leaves at each address. -/
theorem Mem.read_writeN_eq {m : Mem} {lo : Nat} (a x : Nat) (bs : List Byte) (h : Mem.wfFrom lo m = true) :
    Mem.read (Mem.writeN m a bs) x = if a ≤ x then bs.getD (x - a) (Mem.read m x) else Mem.read m x := by
  induction m generalizing lo with
  | nil =>
    rw [Mem.writeN, Mem.read_put bs x rfl]
    rfl
  | cons c r ih =>
    obtain ⟨k, y⟩ := c
    simp only [Mem.wfFrom, Bool.and_eq_true, decide_eq_true_eq] at h
    unfold Mem.writeN
    by_cases hk : k < a
    · rw [if_pos hk]
      by_cases hx : x ≤ k
      · have : ¬ a ≤ x := by omega
        rcases Nat.lt_or_eq_of_le hx with hlt | rfl <;> simp [Mem.read, *]
      · simp [Mem.read, ih h.2, show ¬ x < k by omega, show ¬ x = k by omega]
    · rw [if_neg hk, Mem.read_put bs x (by simpa [Mem.wfFrom] using ⟨⟨by omega, h.1.2⟩, h.2⟩)]
      split
      · rfl
      · simp [Mem.read, show x < k by omega]

/-- A write leaves every address outside its bytes as it was. -/
theorem Mem.read_writeN_other {m : Mem} (a x : Nat) (bs : List Byte) (h : m.wf = true) (hx : x < a ∨ a + bs.length ≤ x) :
    Mem.read (Mem.writeN m a bs) x = Mem.read m x := by
  rw [Mem.read_writeN_eq a x bs h]
  split
  · simp [show bs.length ≤ x - a by omega]
  · rfl

/-- The byte that a write of bytes leaves at one of its addresses. -/
theorem Mem.read_writeN {m : Mem} (a : Nat) (bs : List Byte) (h : m.wf = true) (i : Nat) (hi : i < bs.length) :
    Mem.read (Mem.writeN m a bs) (a + i) = bs[i] := by
  rw [Mem.read_writeN_eq a (a + i) bs h]
  simp [hi]

/-- Two canonical memories that read alike are equal. -/
theorem Mem.wfFrom_ext {m n : Mem} {lo : Nat} (hm : Mem.wfFrom lo m = true) (hn : Mem.wfFrom lo n = true)
    (h : ∀ a, Mem.read m a = Mem.read n a) : m = n := by
  induction m generalizing n lo with
  | nil =>
    cases n with
    | nil => rfl
    | cons c r =>
      simp only [Mem.wfFrom, Bool.and_eq_true, decide_eq_true_eq] at hn
      have := h c.1
      simp [Mem.read] at this
      exact absurd this.symm hn.1.2
  | cons c r ih =>
    simp only [Mem.wfFrom, Bool.and_eq_true, decide_eq_true_eq] at hm
    cases n with
    | nil =>
      have := h c.1
      simp [Mem.read] at this
      exact absurd this hm.1.2
    | cons d q =>
      simp only [Mem.wfFrom, Bool.and_eq_true, decide_eq_true_eq] at hn
      have hk : c.1 = d.1 := by
        rcases Nat.lt_trichotomy c.1 d.1 with hlt | heq | hgt
        · have := h c.1
          simp [Mem.read, hlt] at this
          exact absurd this hm.1.2
        · exact heq
        · have := h d.1
          simp [Mem.read, hgt] at this
          exact absurd this.symm hn.1.2
      have hb : c.2 = d.2 := by
        have := h c.1
        simpa [Mem.read, hk] using this
      have hr : r = q := by
        refine ih hm.2 (hk ▸ hn.2) fun a => ?_
        by_cases ha : a < c.1 + 1
        · rw [Mem.read_below hm.2 ha, Mem.read_below hn.2 (hk ▸ ha)]
        · have := h a
          simpa [Mem.read, show ¬ a < c.1 by omega, show ¬ a = c.1 by omega, show ¬ a < d.1 by omega, show ¬ a = d.1 by omega] using this
      have : c = d := Prod.ext hk hb
      rw [this, hr]

/-- Equal memories are equal data. -/
theorem Mem.wf_ext {m n : Mem} (hm : m.wf = true) (hn : n.wf = true) (h : ∀ a, Mem.read m a = Mem.read n a) : m = n :=
  Mem.wfFrom_ext hm hn h

/-- A memory whose entries were filtered is canonical. -/
theorem Mem.wfFrom_filter {m : Mem} {lo : Nat} (p : Nat × Byte → Bool) (h : Mem.wfFrom lo m = true) :
    Mem.wfFrom lo (m.filter p) = true := by
  induction m generalizing lo with
  | nil => rfl
  | cons c r ih =>
    simp only [Mem.wfFrom, Bool.and_eq_true, decide_eq_true_eq] at h
    have := ih h.2
    rw [List.filter_cons]
    split
    · simp only [Mem.wfFrom, Bool.and_eq_true, decide_eq_true_eq]; exact ⟨h.1, this⟩
    · exact Mem.wfFrom_le this (by omega)

/-- The bytes of an ordinary write keep the canonical form. -/
theorem Dev.wf_putBytes (d : Dev) (a : Nat) (bs : List Byte) (m : Mem) (h : m.wf = true) : (d.putBytes a bs m).wf = true :=
  Mem.wf_writeN a _ h

/-- Bytes read at home are those at the addresses from `a` on. -/
theorem Dev.bytes_eq (d : Dev) (a n : Nat) : d.bytes a n = (List.range n).map fun i => d.byte (a + i) := by
  refine List.ext_getElem (by simp [Dev.bytes, Mem.readN_eq]) fun i h₁ h₂ => ?_
  simp [Dev.bytes, Mem.readN_eq, Dev.byte]

/-- The number of bytes a read gives. -/
@[simp] theorem Mem.length_readN (m : Mem) (a n : Nat) : (Mem.readN m a n).length = n := by simp [Mem.readN_eq]

/-- Reading back what was written. -/
theorem Mem.readN_writeN {m : Mem} (a : Nat) (bs : List Byte) (h : m.wf = true) : Mem.readN (Mem.writeN m a bs) a bs.length = bs := by
  rw [Mem.readN_eq]
  refine List.ext_getElem (by simp) fun i h1 h2 => ?_
  simp only [List.getElem_map, List.getElem_range]
  exact Mem.read_writeN a bs h i h2

end Sys2Proof.Machine
end

