-- ==== Sys2Proof/Laws/Canon.lean ====
section
/-! SUPPORT. The operations that cut, move and join memories keep the canonical form: windows, cuts, pages that move or come back, what a die
drop trims, and what a thread leaves in the scratchpad region. -/

namespace Sys2Proof.Machine

/-! ### Cutting and joining -/

/-- A filtered memory is canonical. -/
theorem Mem.wf_filter {m : Mem} (p : Nat × Byte → Bool) (h : m.wf = true) : Mem.wf (m.filter p) = true := Mem.wfFrom_filter p h

/-- A memory without a range is canonical. -/
theorem Mem.wf_without {m : Mem} (lo n : Nat) (h : m.wf = true) : (m.without lo n).wf = true := Mem.wf_filter _ h

/-- Every address of a canonical memory lies at or above its bound. -/
theorem Mem.wfFrom_mem {m : Mem} {lo : Nat} (h : Mem.wfFrom lo m = true) {c : Nat × Byte} (hc : c ∈ m) : lo ≤ c.1 ∧ c.2 ≠ 0 := by
  induction m generalizing lo with
  | nil => simp at hc
  | cons d r ih =>
    simp only [Mem.wfFrom, Bool.and_eq_true, decide_eq_true_eq] at h
    rcases List.mem_cons.mp hc with rfl | hr
    · exact h.1
    · have := ih h.2 hr
      exact ⟨by omega, this.2⟩

/-- Raising a bound that every address keeps. -/
theorem Mem.wfFrom_raise {m : Mem} {lo hi : Nat} (h : Mem.wfFrom lo m = true) (hb : ∀ c ∈ m, hi ≤ c.1) : Mem.wfFrom hi m = true := by
  cases m with
  | nil => rfl
  | cons c r =>
    simp only [Mem.wfFrom, Bool.and_eq_true, decide_eq_true_eq] at h ⊢
    exact ⟨⟨hb c (by simp), h.1.2⟩, h.2⟩

/-- Shifting addresses by a map that keeps their order. -/
theorem Mem.wfFrom_shift {m : Mem} {lo lo' : Nat} (f : Nat → Nat) (h : Mem.wfFrom lo m = true) (hl : ∀ c ∈ m, lo' ≤ f c.1)
    (hf : ∀ c ∈ m, ∀ d ∈ m, c.1 < d.1 → f c.1 < f d.1) : Mem.wfFrom lo' (m.map fun c => (f c.1, c.2)) = true := by
  induction m generalizing lo lo' with
  | nil => rfl
  | cons c r ih =>
    simp only [Mem.wfFrom, Bool.and_eq_true, decide_eq_true_eq] at h
    simp only [List.map_cons, Mem.wfFrom, Bool.and_eq_true, decide_eq_true_eq]
    refine ⟨⟨hl c (by simp), h.1.2⟩, ih h.2 ?_ fun a ha b hb => hf a (List.mem_cons_of_mem _ ha) b (List.mem_cons_of_mem _ hb)⟩
    intro d hd
    have := (Mem.wfFrom_mem h.2 hd).1
    have := hf c (by simp) d (List.mem_cons_of_mem _ hd) (by omega)
    omega

/-- Two canonical memories, one wholly below the other, joined. -/
theorem Mem.wfFrom_append {m n : Mem} {lo mid : Nat} (hm : Mem.wfFrom lo m = true) (hn : Mem.wfFrom mid n = true) (hlo : lo ≤ mid)
    (hb : ∀ c ∈ m, c.1 < mid) : Mem.wfFrom lo (m ++ n) = true := by
  induction m generalizing lo with
  | nil => exact Mem.wfFrom_le hn hlo
  | cons c r ih =>
    simp only [Mem.wfFrom, Bool.and_eq_true, decide_eq_true_eq] at hm
    simp only [List.cons_append, Mem.wfFrom, Bool.and_eq_true, decide_eq_true_eq]
    have := hb c (by simp)
    exact ⟨hm.1, ih hm.2 (by omega) fun d hd => hb d (List.mem_cons_of_mem _ hd)⟩

/-- The addresses below a bound at the head of a memory. -/
theorem Mem.wfFrom_takeWhile {m : Mem} {lo : Nat} (p : Nat × Byte → Bool) (h : Mem.wfFrom lo m = true) :
    Mem.wfFrom lo (m.takeWhile p) = true := by
  induction m generalizing lo with
  | nil => rfl
  | cons c r ih =>
    simp only [Mem.wfFrom, Bool.and_eq_true, decide_eq_true_eq] at h
    rw [List.takeWhile_cons]
    split
    · simp only [Mem.wfFrom, Bool.and_eq_true, decide_eq_true_eq]; exact ⟨h.1, ih h.2⟩
    · rfl
/-- What follows them. -/
theorem Mem.wfFrom_dropWhile {m : Mem} {lo : Nat} (p : Nat × Byte → Bool) (h : Mem.wfFrom lo m = true) :
    Mem.wfFrom lo (m.dropWhile p) = true := by
  induction m generalizing lo with
  | nil => rfl
  | cons c r ih =>
    rw [List.dropWhile_cons]
    split
    · simp only [Mem.wfFrom, Bool.and_eq_true, decide_eq_true_eq] at h
      exact ih (Mem.wfFrom_le h.2 (by omega))
    · exact h
/-- Past the head below a bound every address is at or above the bound. -/
theorem Mem.dropWhile_ge {m : Mem} {lo k : Nat} (h : Mem.wfFrom lo m = true) :
    ∀ c ∈ m.dropWhile (fun c => c.1 < k), k ≤ c.1 := by
  induction m generalizing lo with
  | nil => simp
  | cons d r ih =>
    simp only [Mem.wfFrom, Bool.and_eq_true, decide_eq_true_eq] at h
    rw [List.dropWhile_cons]
    split
    · exact ih h.2
    · rename_i hk
      intro c hc
      rcases List.mem_cons.mp hc with rfl | hr
      · simpa using hk
      · have := (Mem.wfFrom_mem h.2 hr).1
        simp at hk; omega

/-- The head below a bound lies below it. -/
theorem Mem.takeWhile_lt {m : Mem} {k : Nat} : ∀ c ∈ m.takeWhile (fun c => c.1 < k), c.1 < k := by
  induction m with
  | nil => simp
  | cons d r ih =>
    rw [List.takeWhile_cons]
    split
    · rename_i hk
      intro c hc
      rcases List.mem_cons.mp hc with rfl | hr
      · simpa using hk
      · exact ih c hr
    · simp

/-- A canonical memory whose range is replaced by another canonical memory that lies in it. -/
theorem Mem.wf_splice {m x : Mem} (lo n : Nat) (hm : m.wf = true) (hx : Mem.wfFrom lo x = true) (hb : ∀ c ∈ x, c.1 < lo + n) :
    (m.splice lo n x).wf = true := by
  have hw := Mem.wf_without lo n hm
  unfold Mem.splice Mem.wf
  simp only []
  rw [List.append_assoc]
  refine Mem.wfFrom_append (mid := lo) (Mem.wfFrom_takeWhile _ hw) ?_ (by omega) ?_
  · refine Mem.wfFrom_append (mid := lo + n) hx ?_ (by omega) hb
    refine Mem.wfFrom_raise (Mem.wfFrom_dropWhile _ hw) fun c hc => ?_
    have hge := Mem.dropWhile_ge hw c hc
    have hin : c ∈ m.without lo n := (List.dropWhile_sublist _).mem hc
    simp only [Mem.without, List.mem_filter, Bool.not_eq_true', Bool.and_eq_false_iff, decide_eq_false_iff_not] at hin
    omega
  · exact Mem.takeWhile_lt

/-- A window of a canonical memory is canonical. -/
theorem Mem.wf_window {m : Mem} (lo n : Nat) (h : m.wf = true) : (m.window lo n).wf = true := by
  unfold Mem.window Mem.wf
  have hf := Mem.wf_filter (fun c => decide (lo ≤ c.1) && decide (c.1 < lo + n)) h
  refine Mem.wfFrom_shift (fun a => a - lo) hf (fun _ _ => by omega) fun c hc d _ hcd => ?_
  simp only [List.mem_filter, Bool.and_eq_true, decide_eq_true_eq] at hc
  omega
/-- Its addresses lie below its length. -/
theorem Mem.window_lt {m : Mem} (lo n : Nat) : ∀ c ∈ m.window lo n, c.1 < n := by
  intro c hc
  simp only [Mem.window, List.mem_map, List.mem_filter, Bool.and_eq_true, decide_eq_true_eq] at hc
  obtain ⟨d, ⟨_, h1, h2⟩, rfl⟩ := hc
  simp only; omega

/-- The bytes from address 0 on, as a memory, are canonical. -/
theorem Mem.wf_ofBytes (bs : List Byte) : (Mem.ofBytes bs).wf = true := by
  have aux : ∀ (l : List Byte) (k : Nat),
      Mem.wfFrom k ((l.zipIdx k).filterMap fun e => if e.1 = 0 then none else some (e.2, e.1)) = true := by
    intro l
    induction l with
    | nil => intro k; rfl
    | cons b r ih =>
      intro k
      rw [List.zipIdx_cons, List.filterMap_cons]
      by_cases hb : b = 0
      · simp only [hb, if_true]; exact Mem.wfFrom_le (ih (k + 1)) (by omega)
      · simp only [hb, if_false, Mem.wfFrom, Bool.and_eq_true, decide_eq_true_eq]
        exact ⟨⟨Nat.le_refl k, hb⟩, ih (k + 1)⟩
  exact aux bs 0

/-- Bytes written one by one keep the form. -/
theorem Mem.wf_foldl_write {α : Type} (f : α → Nat) (g : α → Byte) (l : List α) {m : Mem} (h : m.wf = true) :
    Mem.wf (l.foldl (fun m e => Mem.write m (f e) (g e)) m) = true := by
  induction l generalizing m with
  | nil => exact h
  | cons a r ih => exact ih (Mem.wf_write _ _ h)
/-- Runs written one by one keep the form. -/
theorem Mem.wf_foldl_writeN {α : Type} (f : α → Nat) (g : α → List Byte) (l : List α) {m : Mem} (h : m.wf = true) :
    Mem.wf (l.foldl (fun m e => Mem.writeN m (f e) (g e)) m) = true := by
  induction l generalizing m with
  | nil => exact h
  | cons a r ih => exact ih (Mem.wf_writeN _ _ h)

/-! ### Device memory -/

@[simp] theorem Dev.wrote_mem (d : Dev) (a n : Nat) : (d.wrote a n).mem = d.mem := rfl
@[simp] theorem Dev.wrote_csram (d : Dev) (a n : Nat) : (d.wrote a n).csram = d.csram := rfl
@[simp] theorem Dev.wrote_ckHbm (d : Dev) (a n : Nat) : (d.wrote a n).ckHbm = d.ckHbm := rfl
@[simp] theorem Dev.wrote_ckSafe (d : Dev) (a n : Nat) : (d.wrote a n).ckSafe = d.ckSafe := rfl

/-- Placing bytes keeps the form. -/
theorem Dev.wf_poke (d : Dev) (a : Nat) (bs : List Byte) (h : d.mem.wf = true) : (d.poke a bs).mem.wf = true := by
  simpa [Dev.poke] using Mem.wf_writeN a bs h
/-- An ordinary write keeps the form. -/
theorem Dev.wf_write (d : Dev) (a : Nat) (bs : List Byte) (p : Bool) (h : d.mem.wf = true) : (d.write a bs p).mem.wf = true :=
  d.wf_putBytes a bs d.mem h
/-- A memory into which a window of another is moved is canonical. -/
theorem Mem.wf_splice_window {m x : Mem} (old new n : Nat) (hm : m.wf = true) (hx : x.wf = true) :
    (m.splice new n ((x.window old n).map fun c => (c.1 + new, c.2))).wf = true := by
  refine Mem.wf_splice new n hm ?_ ?_
  · exact Mem.wfFrom_shift (fun a => a + new) (Mem.wf_window old n hx) (fun _ _ => by omega) fun _ _ _ _ hcd => by omega
  · intro c hc
    obtain ⟨d', hd, rfl⟩ := List.mem_map.mp hc
    have := Mem.window_lt old n d' hd
    simp only; omega
/-- A page that moves leaves memory canonical. -/
theorem Dev.wf_movePage (d : Dev) (old new n : Nat) (h : d.mem.wf = true) : (d.movePage old new n).mem.wf = true :=
  Mem.wf_splice_window old new n h h
/-- A checkpoint image is canonical. -/
theorem Dev.wf_image (d : Dev) (safe : Bool) (h : d.mem.wf = true) : (d.image safe).mem.wf = true := by
  unfold Dev.image
  simp only []
  split
  · exact Mem.wf_filter _ h
  · split
    · exact h
    · exact Mem.wf_foldl_write (fun c : Nat × Byte => c.1) (fun c => c.2) _ (Mem.wf_filter _ h)
/-- The image a page comes back from is one of the two. -/
theorem Dev.lastImage_mem {d : Dev} {p : Nat} {i : Image} (h : d.lastImage p = some i) : d.ckHbm = some i ∨ d.ckSafe = some i := by
  unfold Dev.lastImage at h
  split at h
  · split at h
    · next he => exact .inl (he.trans h)
    · exact .inr h
  · exact .inr h
/-- A page that comes back from a checkpoint leaves memory canonical. -/
theorem Dev.wf_recoverPage (d : Dev) (p : Nat) (h : d.mem.wf = true) (hc : ∀ i, d.ckHbm = some i ∨ d.ckSafe = some i → i.mem.wf = true) :
    (d.recoverPage p).mem.wf = true := by
  unfold Dev.recoverPage
  simp only []
  split
  · next img he =>
    split
    · exact h
    · refine Mem.wf_splice (p * 0x10000) 0x10000 h ?_ ?_
      · refine Mem.wfFrom_raise (Mem.wf_filter _ (hc _ (Dev.lastImage_mem he))) fun c hm => ?_
        simp only [List.mem_filter, Bool.and_eq_true, decide_eq_true_eq] at hm
        exact hm.2.1
      · intro c hm
        simp only [List.mem_filter, Bool.and_eq_true, decide_eq_true_eq] at hm
        exact hm.2.2
  · exact h
/-- What a die drop trims leaves memory canonical. -/
theorem Dev.wf_trim (d : Dev) (h : d.mem.wf = true) : d.trim.mem.wf = true := Mem.wf_filter _ h

/-! ### Scratchpad and cluster SRAM -/

/-- A scratchpad write keeps the form. -/
theorem Thr.wf_putSpad (t : Thr) (off : Nat) (bs : List Byte) (p : Bool) (h : t.spad.wf = true) : (t.putSpad off bs p).spad.wf = true :=
  Mem.wf_writeN off bs h
/-- A vector store keeps the form. -/
theorem Thr.wf_putWords (t : Thr) (ws : List (Nat × Lane)) (h : t.spad.wf = true) : (t.putWords ws).spad.wf = true :=
  Mem.wf_foldl_writeN (fun w : Nat × Lane => w.1) (fun w => leBytes 4 w.2.toNat) ws h
/-- A write of cluster SRAM keeps the form of every cluster's memory. -/
theorem Dev.wf_putCs (d : Dev) (cl off : Nat) (bs : List Byte) (p : Bool) (h : ∀ k : Nat, (nth d.csram k).wf = true) :
    ∀ k : Nat, (nth (d.putCs cl off bs p).csram k).wf = true := by
  intro k
  show (nth (setNth d.csram cl (Mem.writeN (nth d.csram cl) off bs)) k).wf = true
  simp only [nth_setNth]
  split
  · exact Mem.wf_writeN _ _ (h cl)
  · exact h k

/-! ### What a place leaves -/

/-- A thread that leaves its place leaves every memory canonical. -/
theorem Mach.memOk_vacate (m : Mach) (h : m.dev.mem.wf = true ∧ m.thr0.spad.wf = true ∧ m.thr1.spad.wf = true ∧ m.core.left.wf = true) :
    m.vacate.dev.mem.wf = true ∧ m.vacate.thr0.spad.wf = true ∧ m.vacate.thr1.spad.wf = true ∧ m.vacate.core.left.wf = true := by
  obtain ⟨h1, h2, h3, h4⟩ := h
  have ht : m.t.spad.wf = true := by unfold Mach.t; split <;> assumption
  unfold Mach.vacate Mach.setT Mach.modC
  simp only
  split
  · exact ⟨h1, rfl, h3, Mem.wf_splice_window _ _ _ h4 ht⟩
  · exact ⟨h1, h2, rfl, Mem.wf_splice_window _ _ _ h4 ht⟩

end Sys2Proof.Machine
end

