-- ==== Sys2Proof/Laws/State.lean ====
section
/-! SUPPORT. What each update of the state leaves as it was: one lemma per field per update, so that no proof unfolds a record update. -/

namespace Sys2Proof.Machine

/-! ### The machine -/

@[simp] theorem Mach.modD_core (m : Mach) (f : Dev → Dev) : (m.modD f).core = m.core := rfl
@[simp] theorem Mach.modD_thr0 (m : Mach) (f : Dev → Dev) : (m.modD f).thr0 = m.thr0 := rfl
@[simp] theorem Mach.modD_thr1 (m : Mach) (f : Dev → Dev) : (m.modD f).thr1 = m.thr1 := rfl
@[simp] theorem Mach.modD_cur (m : Mach) (f : Dev → Dev) : (m.modD f).cur = m.cur := rfl
@[simp] theorem Mach.modD_dev (m : Mach) (f : Dev → Dev) : (m.modD f).dev = f m.dev := rfl
@[simp] theorem Mach.modC_core (m : Mach) (f : Core → Core) : (m.modC f).core = f m.core := rfl
@[simp] theorem Mach.modC_thr0 (m : Mach) (f : Core → Core) : (m.modC f).thr0 = m.thr0 := rfl
@[simp] theorem Mach.modC_thr1 (m : Mach) (f : Core → Core) : (m.modC f).thr1 = m.thr1 := rfl
@[simp] theorem Mach.modC_cur (m : Mach) (f : Core → Core) : (m.modC f).cur = m.cur := rfl
@[simp] theorem Mach.modC_dev (m : Mach) (f : Core → Core) : (m.modC f).dev = m.dev := rfl
@[simp] theorem Mach.at_core (m : Mach) (pl : Place) : (m.at_ pl).core = m.core := rfl
@[simp] theorem Mach.at_thr0 (m : Mach) (pl : Place) : (m.at_ pl).thr0 = m.thr0 := rfl
@[simp] theorem Mach.at_thr1 (m : Mach) (pl : Place) : (m.at_ pl).thr1 = m.thr1 := rfl
@[simp] theorem Mach.at_cur (m : Mach) (pl : Place) : (m.at_ pl).cur = pl := rfl
@[simp] theorem Mach.at_dev (m : Mach) (pl : Place) : (m.at_ pl).dev = m.dev := rfl
@[simp] theorem Mach.setT_core (m : Mach) (t : Thr) : (m.setT t).core = m.core := by unfold Mach.setT; split <;> rfl
@[simp] theorem Mach.setT_cur (m : Mach) (t : Thr) : (m.setT t).cur = m.cur := by unfold Mach.setT; split <;> rfl
@[simp] theorem Mach.setT_dev (m : Mach) (t : Thr) : (m.setT t).dev = m.dev := by unfold Mach.setT; split <;> rfl
@[simp] theorem Mach.modT_core (m : Mach) (f : Thr → Thr) : (m.modT f).core = m.core := by simp [Mach.modT]
@[simp] theorem Mach.modT_cur (m : Mach) (f : Thr → Thr) : (m.modT f).cur = m.cur := by simp [Mach.modT]
@[simp] theorem Mach.modT_dev (m : Mach) (f : Thr → Thr) : (m.modT f).dev = m.dev := by simp [Mach.modT]
@[simp] theorem Mach.modSt_core (m : Mach) (f : Strm → Strm) : (m.modSt f).core = m.core := by simp [Mach.modSt, Mach.modT]
@[simp] theorem Mach.modSt_cur (m : Mach) (f : Strm → Strm) : (m.modSt f).cur = m.cur := by simp [Mach.modSt, Mach.modT]
@[simp] theorem Mach.modSt_dev (m : Mach) (f : Strm → Strm) : (m.modSt f).dev = m.dev := by simp [Mach.modSt, Mach.modT]
@[simp] theorem Mach.modD_t (m : Mach) (f : Dev → Dev) : (m.modD f).t = m.t := rfl
@[simp] theorem Mach.modD_st (m : Mach) (f : Dev → Dev) : (m.modD f).st = m.st := rfl
@[simp] theorem Mach.modD_isSec (m : Mach) (f : Dev → Dev) : (m.modD f).isSec = m.isSec := rfl
@[simp] theorem Mach.modC_t (m : Mach) (f : Core → Core) : (m.modC f).t = m.t := rfl
@[simp] theorem Mach.modC_st (m : Mach) (f : Core → Core) : (m.modC f).st = m.st := rfl
@[simp] theorem Mach.modC_isSec (m : Mach) (f : Core → Core) : (m.modC f).isSec = m.isSec := rfl

/-- Replacing the acting thread by one that is paired as it was gives it back. -/
theorem Mach.t_setT (m : Mach) (t : Thr) (h : t.paired = m.t.paired) : (m.setT t).t = t := by
  unfold Mach.setT Mach.t Mach.onT0 at *
  cases hc : m.cur <;> cases hp : m.thr0.paired <;> simp_all
/-- Changing the acting thread, its pairing kept. -/
theorem Mach.t_modT (m : Mach) (f : Thr → Thr) (h : (f m.t).paired = m.t.paired) : (m.modT f).t = f m.t := m.t_setT _ h
/-- A change that keeps the pairing keeps which stream acts. -/
theorem Mach.isSec_modT (m : Mach) (f : Thr → Thr) (h : (f m.t).paired = m.t.paired) : (m.modT f).isSec = m.isSec := by
  unfold Mach.modT Mach.setT Mach.isSec Mach.t Mach.onT0 at *
  cases hc : m.cur <;> cases hp : m.thr0.paired <;> simp_all

/-! ### Streams of a thread -/

@[simp] theorem Thr.setStrm_status (t : Thr) (sec : Bool) (x : Strm) : (t.setStrm sec x).status = t.status := by cases sec <;> rfl
@[simp] theorem Thr.setStrm_halted (t : Thr) (sec : Bool) (x : Strm) : (t.setStrm sec x).halted = t.halted := by cases sec <;> rfl
@[simp] theorem Thr.setStrm_ref (t : Thr) (sec : Bool) (x : Strm) : (t.setStrm sec x).ref = t.ref := by cases sec <;> rfl
@[simp] theorem Thr.setStrm_tid (t : Thr) (sec : Bool) (x : Strm) : (t.setStrm sec x).tid = t.tid := by cases sec <;> rfl
@[simp] theorem Thr.setStrm_paired (t : Thr) (sec : Bool) (x : Strm) : (t.setStrm sec x).paired = t.paired := by cases sec <;> rfl
@[simp] theorem Thr.setStrm_priv (t : Thr) (sec : Bool) (x : Strm) : (t.setStrm sec x).priv = t.priv := by cases sec <;> rfl
@[simp] theorem Thr.setStrm_duall (t : Thr) (sec : Bool) (x : Strm) : (t.setStrm sec x).duall = t.duall := by cases sec <;> rfl
@[simp] theorem Thr.setStrm_fusedl1 (t : Thr) (sec : Bool) (x : Strm) : (t.setStrm sec x).fusedl1 = t.fusedl1 := by cases sec <;> rfl
@[simp] theorem Thr.setStrm_T (t : Thr) (sec : Bool) (x : Strm) : (t.setStrm sec x).T = t.T := by cases sec <;> rfl
@[simp] theorem Thr.setStrm_asid (t : Thr) (sec : Bool) (x : Strm) : (t.setStrm sec x).asid = t.asid := by cases sec <;> rfl
@[simp] theorem Thr.setStrm_prio (t : Thr) (sec : Bool) (x : Strm) : (t.setStrm sec x).prio = t.prio := by cases sec <;> rfl
@[simp] theorem Thr.setStrm_save (t : Thr) (sec : Bool) (x : Strm) : (t.setStrm sec x).save = t.save := by cases sec <;> rfl
@[simp] theorem Thr.setStrm_kern (t : Thr) (sec : Bool) (x : Strm) : (t.setStrm sec x).kern = t.kern := by cases sec <;> rfl
@[simp] theorem Thr.setStrm_s (t : Thr) (sec : Bool) (x : Strm) : (t.setStrm sec x).s = t.s := by cases sec <;> rfl
@[simp] theorem Thr.setStrm_p (t : Thr) (sec : Bool) (x : Strm) : (t.setStrm sec x).p = t.p := by cases sec <;> rfl
@[simp] theorem Thr.setStrm_va (t : Thr) (sec : Bool) (x : Strm) : (t.setStrm sec x).va = t.va := by cases sec <;> rfl
@[simp] theorem Thr.setStrm_vb (t : Thr) (sec : Bool) (x : Strm) : (t.setStrm sec x).vb = t.vb := by cases sec <;> rfl
@[simp] theorem Thr.setStrm_qa (t : Thr) (sec : Bool) (x : Strm) : (t.setStrm sec x).qa = t.qa := by cases sec <;> rfl
@[simp] theorem Thr.setStrm_qb (t : Thr) (sec : Bool) (x : Strm) : (t.setStrm sec x).qb = t.qb := by cases sec <;> rfl
@[simp] theorem Thr.setStrm_ot (t : Thr) (sec : Bool) (x : Strm) : (t.setStrm sec x).ot = t.ot := by cases sec <;> rfl
@[simp] theorem Thr.setStrm_ct (t : Thr) (sec : Bool) (x : Strm) : (t.setStrm sec x).ct = t.ct := by cases sec <;> rfl
@[simp] theorem Thr.setStrm_arr (t : Thr) (sec : Bool) (x : Strm) : (t.setStrm sec x).arr = t.arr := by cases sec <;> rfl
@[simp] theorem Thr.setStrm_ssA (t : Thr) (sec : Bool) (x : Strm) : (t.setStrm sec x).ssA = t.ssA := by cases sec <;> rfl
@[simp] theorem Thr.setStrm_ssB (t : Thr) (sec : Bool) (x : Strm) : (t.setStrm sec x).ssB = t.ssB := by cases sec <;> rfl
@[simp] theorem Thr.setStrm_tsT (t : Thr) (sec : Bool) (x : Strm) : (t.setStrm sec x).tsT = t.tsT := by cases sec <;> rfl
@[simp] theorem Thr.setStrm_tsC (t : Thr) (sec : Bool) (x : Strm) : (t.setStrm sec x).tsC = t.tsC := by cases sec <;> rfl
@[simp] theorem Thr.setStrm_flags (t : Thr) (sec : Bool) (x : Strm) : (t.setStrm sec x).flags = t.flags := by cases sec <;> rfl
@[simp] theorem Thr.setStrm_spools (t : Thr) (sec : Bool) (x : Strm) : (t.setStrm sec x).spools = t.spools := by cases sec <;> rfl
@[simp] theorem Thr.setStrm_w (t : Thr) (sec : Bool) (x : Strm) : (t.setStrm sec x).w = t.w := by cases sec <;> rfl
@[simp] theorem Thr.setStrm_wrot (t : Thr) (sec : Bool) (x : Strm) : (t.setStrm sec x).wrot = t.wrot := by cases sec <;> rfl
@[simp] theorem Thr.setStrm_wout (t : Thr) (sec : Bool) (x : Strm) : (t.setStrm sec x).wout = t.wout := by cases sec <;> rfl
@[simp] theorem Thr.setStrm_fmt (t : Thr) (sec : Bool) (x : Strm) : (t.setStrm sec x).fmt = t.fmt := by cases sec <;> rfl
@[simp] theorem Thr.setStrm_fmtq (t : Thr) (sec : Bool) (x : Strm) : (t.setStrm sec x).fmtq = t.fmtq := by cases sec <;> rfl
@[simp] theorem Thr.setStrm_tscale (t : Thr) (sec : Bool) (x : Strm) : (t.setStrm sec x).tscale = t.tscale := by cases sec <;> rfl
@[simp] theorem Thr.setStrm_tscaleq (t : Thr) (sec : Bool) (x : Strm) : (t.setStrm sec x).tscaleq = t.tscaleq := by cases sec <;> rfl
@[simp] theorem Thr.setStrm_stat (t : Thr) (sec : Bool) (x : Strm) : (t.setStrm sec x).stat = t.stat := by cases sec <;> rfl
@[simp] theorem Thr.setStrm_statNow (t : Thr) (sec : Bool) (x : Strm) : (t.setStrm sec x).statNow = t.statNow := by cases sec <;> rfl
@[simp] theorem Thr.setStrm_seed (t : Thr) (sec : Bool) (x : Strm) : (t.setStrm sec x).seed = t.seed := by cases sec <;> rfl
@[simp] theorem Thr.setStrm_nrc (t : Thr) (sec : Bool) (x : Strm) : (t.setStrm sec x).nrc = t.nrc := by cases sec <;> rfl
@[simp] theorem Thr.setStrm_win (t : Thr) (sec : Bool) (x : Strm) : (t.setStrm sec x).win = t.win := by cases sec <;> rfl
@[simp] theorem Thr.setStrm_tgstr (t : Thr) (sec : Bool) (x : Strm) : (t.setStrm sec x).tgstr = t.tgstr := by cases sec <;> rfl
@[simp] theorem Thr.setStrm_skeins (t : Thr) (sec : Bool) (x : Strm) : (t.setStrm sec x).skeins = t.skeins := by cases sec <;> rfl
@[simp] theorem Thr.setStrm_regions (t : Thr) (sec : Bool) (x : Strm) : (t.setStrm sec x).regions = t.regions := by cases sec <;> rfl
@[simp] theorem Thr.setStrm_xab (t : Thr) (sec : Bool) (x : Strm) : (t.setStrm sec x).xab = t.xab := by cases sec <;> rfl
@[simp] theorem Thr.setStrm_xba (t : Thr) (sec : Bool) (x : Strm) : (t.setStrm sec x).xba = t.xba := by cases sec <;> rfl
@[simp] theorem Thr.setStrm_time (t : Thr) (sec : Bool) (x : Strm) : (t.setStrm sec x).time = t.time := by cases sec <;> rfl
@[simp] theorem Thr.setStrm_wayp (t : Thr) (sec : Bool) (x : Strm) : (t.setStrm sec x).wayp = t.wayp := by cases sec <;> rfl
@[simp] theorem Thr.setStrm_preq (t : Thr) (sec : Bool) (x : Strm) : (t.setStrm sec x).preq = t.preq := by cases sec <;> rfl
@[simp] theorem Thr.setStrm_busy (t : Thr) (sec : Bool) (x : Strm) : (t.setStrm sec x).busy = t.busy := by cases sec <;> rfl
@[simp] theorem Thr.setStrm_tops (t : Thr) (sec : Bool) (x : Strm) : (t.setStrm sec x).tops = t.tops := by cases sec <;> rfl
@[simp] theorem Thr.setStrm_land (t : Thr) (sec : Bool) (x : Strm) : (t.setStrm sec x).land = t.land := by cases sec <;> rfl
@[simp] theorem Thr.setStrm_hops (t : Thr) (sec : Bool) (x : Strm) : (t.setStrm sec x).hops = t.hops := by cases sec <;> rfl
@[simp] theorem Thr.setStrm_seq (t : Thr) (sec : Bool) (x : Strm) : (t.setStrm sec x).seq = t.seq := by cases sec <;> rfl
@[simp] theorem Thr.setStrm_spad (t : Thr) (sec : Bool) (x : Strm) : (t.setStrm sec x).spad = t.spad := by cases sec <;> rfl
@[simp] theorem Thr.setStrm_fe (t : Thr) (sec : Bool) (x : Strm) : (t.setStrm sec x).fe = t.fe := by cases sec <;> rfl
@[simp] theorem Thr.setStrm_spadPoison (t : Thr) (sec : Bool) (x : Strm) : (t.setStrm sec x).spadPoison = t.spadPoison := by cases sec <;> rfl
@[simp] theorem Thr.setStrm_xfaults (t : Thr) (sec : Bool) (x : Strm) : (t.setStrm sec x).xfaults = t.xfaults := by cases sec <;> rfl
@[simp] theorem Thr.setStrm_unw (t : Thr) (sec : Bool) (x : Strm) : (t.setStrm sec x).unw = t.unw := by cases sec <;> rfl
@[simp] theorem Thr.setStrm_park (t : Thr) (sec : Bool) (x : Strm) : (t.setStrm sec x).park = t.park := by cases sec <;> rfl
@[simp] theorem Thr.setStrm_kids (t : Thr) (sec : Bool) (x : Strm) : (t.setStrm sec x).kids = t.kids := by cases sec <;> rfl
@[simp] theorem Thr.setStrm_restart (t : Thr) (sec : Bool) (x : Strm) : (t.setStrm sec x).restart = t.restart := by cases sec <;> rfl
@[simp] theorem Thr.setStrm_settle (t : Thr) (sec : Bool) (x : Strm) : (t.setStrm sec x).settle = t.settle := by cases sec <;> rfl
@[simp] theorem Thr.setStrm_haltReq (t : Thr) (sec : Bool) (x : Strm) : (t.setStrm sec x).haltReq = t.haltReq := by cases sec <;> rfl
@[simp] theorem Thr.setStrm_placedAt (t : Thr) (sec : Bool) (x : Strm) : (t.setStrm sec x).placedAt = t.placedAt := by cases sec <;> rfl
@[simp] theorem Thr.setStrm_saveFrom (t : Thr) (sec : Bool) (x : Strm) : (t.setStrm sec x).saveFrom = t.saveFrom := by cases sec <;> rfl
@[simp] theorem Thr.strm_setStrm (t : Thr) (sec : Bool) (x : Strm) : (t.setStrm sec x).strm sec = x := by cases sec <;> rfl
@[simp] theorem Mach.t_modSt (m : Mach) (f : Strm → Strm) : (m.modSt f).t = m.t.setStrm m.isSec (f m.st) := m.t_modT _ (by simp)
@[simp] theorem Mach.isSec_modSt (m : Mach) (f : Strm → Strm) : (m.modSt f).isSec = m.isSec := m.isSec_modT _ (by simp)
@[simp] theorem Mach.st_modSt (m : Mach) (f : Strm → Strm) : (m.modSt f).st = f m.st := by simp [Mach.st]

/-! ### The bundle in progress -/

@[simp] theorem Issue.modT_now (b : Issue) (f : Thr → Thr) : (b.modT f).now = b.now.modT f := rfl
@[simp] theorem Issue.modT_trap (b : Issue) (f : Thr → Thr) : (b.modT f).trap = b.trap := rfl
@[simp] theorem Issue.modT_priv (b : Issue) (f : Thr → Thr) : (b.modT f).priv = b.priv := rfl
@[simp] theorem Issue.modT_stall (b : Issue) (f : Thr → Thr) : (b.modT f).stall = b.stall := rfl
@[simp] theorem Issue.modT_freeze (b : Issue) (f : Thr → Thr) : (b.modT f).freeze = b.freeze := rfl
@[simp] theorem Issue.modT_waitFor (b : Issue) (f : Thr → Thr) : (b.modT f).waitFor = b.waitFor := rfl
@[simp] theorem Issue.modT_setF (b : Issue) (f : Thr → Thr) : (b.modT f).setF = b.setF := rfl
@[simp] theorem Issue.modT_clrF (b : Issue) (f : Thr → Thr) : (b.modT f).clrF = b.clrF := rfl
@[simp] theorem Issue.modT_setS (b : Issue) (f : Thr → Thr) : (b.modT f).setS = b.setS := rfl
@[simp] theorem Issue.modT_clrS (b : Issue) (f : Thr → Thr) : (b.modT f).clrS = b.clrS := rfl
@[simp] theorem Issue.modT_jump (b : Issue) (f : Thr → Thr) : (b.modT f).jump = b.jump := rfl
@[simp] theorem Issue.modT_wroteS63 (b : Issue) (f : Thr → Thr) : (b.modT f).wroteS63 = b.wroteS63 := rfl
@[simp] theorem Issue.modT_isWait (b : Issue) (f : Thr → Thr) : (b.modT f).isWait = b.isWait := rfl
@[simp] theorem Issue.modT_flagG (b : Issue) (f : Thr → Thr) : (b.modT f).flagG = b.flagG := rfl
@[simp] theorem Issue.modT_wayp (b : Issue) (f : Thr → Thr) : (b.modT f).wayp = b.wayp := rfl
@[simp] theorem Issue.modT_dualSet (b : Issue) (f : Thr → Thr) : (b.modT f).dualSet = b.dualSet := rfl
@[simp] theorem Issue.modT_halt (b : Issue) (f : Thr → Thr) : (b.modT f).halt = b.halt := rfl
@[simp] theorem Issue.modT_brk (b : Issue) (f : Thr → Thr) : (b.modT f).brk = b.brk := rfl
@[simp] theorem Issue.modT_abort (b : Issue) (f : Thr → Thr) : (b.modT f).abort = b.abort := rfl
@[simp] theorem Issue.modT_eaten (b : Issue) (f : Thr → Thr) : (b.modT f).eaten = b.eaten := rfl
@[simp] theorem Issue.modT_popped (b : Issue) (f : Thr → Thr) : (b.modT f).popped = b.popped := rfl
@[simp] theorem Issue.modT_pushed (b : Issue) (f : Thr → Thr) : (b.modT f).pushed = b.pushed := rfl
@[simp] theorem Issue.modSt_now (b : Issue) (f : Strm → Strm) : (b.modSt f).now = b.now.modSt f := rfl
@[simp] theorem Issue.modSt_trap (b : Issue) (f : Strm → Strm) : (b.modSt f).trap = b.trap := rfl
@[simp] theorem Issue.modSt_priv (b : Issue) (f : Strm → Strm) : (b.modSt f).priv = b.priv := rfl
@[simp] theorem Issue.modSt_stall (b : Issue) (f : Strm → Strm) : (b.modSt f).stall = b.stall := rfl
@[simp] theorem Issue.modSt_freeze (b : Issue) (f : Strm → Strm) : (b.modSt f).freeze = b.freeze := rfl
@[simp] theorem Issue.modSt_waitFor (b : Issue) (f : Strm → Strm) : (b.modSt f).waitFor = b.waitFor := rfl
@[simp] theorem Issue.modSt_setF (b : Issue) (f : Strm → Strm) : (b.modSt f).setF = b.setF := rfl
@[simp] theorem Issue.modSt_clrF (b : Issue) (f : Strm → Strm) : (b.modSt f).clrF = b.clrF := rfl
@[simp] theorem Issue.modSt_setS (b : Issue) (f : Strm → Strm) : (b.modSt f).setS = b.setS := rfl
@[simp] theorem Issue.modSt_clrS (b : Issue) (f : Strm → Strm) : (b.modSt f).clrS = b.clrS := rfl
@[simp] theorem Issue.modSt_jump (b : Issue) (f : Strm → Strm) : (b.modSt f).jump = b.jump := rfl
@[simp] theorem Issue.modSt_wroteS63 (b : Issue) (f : Strm → Strm) : (b.modSt f).wroteS63 = b.wroteS63 := rfl
@[simp] theorem Issue.modSt_isWait (b : Issue) (f : Strm → Strm) : (b.modSt f).isWait = b.isWait := rfl
@[simp] theorem Issue.modSt_flagG (b : Issue) (f : Strm → Strm) : (b.modSt f).flagG = b.flagG := rfl
@[simp] theorem Issue.modSt_wayp (b : Issue) (f : Strm → Strm) : (b.modSt f).wayp = b.wayp := rfl
@[simp] theorem Issue.modSt_dualSet (b : Issue) (f : Strm → Strm) : (b.modSt f).dualSet = b.dualSet := rfl
@[simp] theorem Issue.modSt_halt (b : Issue) (f : Strm → Strm) : (b.modSt f).halt = b.halt := rfl
@[simp] theorem Issue.modSt_brk (b : Issue) (f : Strm → Strm) : (b.modSt f).brk = b.brk := rfl
@[simp] theorem Issue.modSt_abort (b : Issue) (f : Strm → Strm) : (b.modSt f).abort = b.abort := rfl
@[simp] theorem Issue.modSt_eaten (b : Issue) (f : Strm → Strm) : (b.modSt f).eaten = b.eaten := rfl
@[simp] theorem Issue.modSt_popped (b : Issue) (f : Strm → Strm) : (b.modSt f).popped = b.popped := rfl
@[simp] theorem Issue.modSt_pushed (b : Issue) (f : Strm → Strm) : (b.modSt f).pushed = b.pushed := rfl
@[simp] theorem Issue.modD_now (b : Issue) (f : Dev → Dev) : (b.modD f).now = b.now.modD f := rfl
@[simp] theorem Issue.modD_trap (b : Issue) (f : Dev → Dev) : (b.modD f).trap = b.trap := rfl
@[simp] theorem Issue.modD_priv (b : Issue) (f : Dev → Dev) : (b.modD f).priv = b.priv := rfl
@[simp] theorem Issue.modD_stall (b : Issue) (f : Dev → Dev) : (b.modD f).stall = b.stall := rfl
@[simp] theorem Issue.modD_freeze (b : Issue) (f : Dev → Dev) : (b.modD f).freeze = b.freeze := rfl
@[simp] theorem Issue.modD_waitFor (b : Issue) (f : Dev → Dev) : (b.modD f).waitFor = b.waitFor := rfl
@[simp] theorem Issue.modD_setF (b : Issue) (f : Dev → Dev) : (b.modD f).setF = b.setF := rfl
@[simp] theorem Issue.modD_clrF (b : Issue) (f : Dev → Dev) : (b.modD f).clrF = b.clrF := rfl
@[simp] theorem Issue.modD_setS (b : Issue) (f : Dev → Dev) : (b.modD f).setS = b.setS := rfl
@[simp] theorem Issue.modD_clrS (b : Issue) (f : Dev → Dev) : (b.modD f).clrS = b.clrS := rfl
@[simp] theorem Issue.modD_jump (b : Issue) (f : Dev → Dev) : (b.modD f).jump = b.jump := rfl
@[simp] theorem Issue.modD_wroteS63 (b : Issue) (f : Dev → Dev) : (b.modD f).wroteS63 = b.wroteS63 := rfl
@[simp] theorem Issue.modD_isWait (b : Issue) (f : Dev → Dev) : (b.modD f).isWait = b.isWait := rfl
@[simp] theorem Issue.modD_flagG (b : Issue) (f : Dev → Dev) : (b.modD f).flagG = b.flagG := rfl
@[simp] theorem Issue.modD_wayp (b : Issue) (f : Dev → Dev) : (b.modD f).wayp = b.wayp := rfl
@[simp] theorem Issue.modD_dualSet (b : Issue) (f : Dev → Dev) : (b.modD f).dualSet = b.dualSet := rfl
@[simp] theorem Issue.modD_halt (b : Issue) (f : Dev → Dev) : (b.modD f).halt = b.halt := rfl
@[simp] theorem Issue.modD_brk (b : Issue) (f : Dev → Dev) : (b.modD f).brk = b.brk := rfl
@[simp] theorem Issue.modD_abort (b : Issue) (f : Dev → Dev) : (b.modD f).abort = b.abort := rfl
@[simp] theorem Issue.modD_eaten (b : Issue) (f : Dev → Dev) : (b.modD f).eaten = b.eaten := rfl
@[simp] theorem Issue.modD_popped (b : Issue) (f : Dev → Dev) : (b.modD f).popped = b.popped := rfl
@[simp] theorem Issue.modD_pushed (b : Issue) (f : Dev → Dev) : (b.modD f).pushed = b.pushed := rfl
@[simp] theorem Issue.modC_now (b : Issue) (f : Core → Core) : (b.modC f).now = b.now.modC f := rfl
@[simp] theorem Issue.modC_trap (b : Issue) (f : Core → Core) : (b.modC f).trap = b.trap := rfl
@[simp] theorem Issue.modC_priv (b : Issue) (f : Core → Core) : (b.modC f).priv = b.priv := rfl
@[simp] theorem Issue.modC_stall (b : Issue) (f : Core → Core) : (b.modC f).stall = b.stall := rfl
@[simp] theorem Issue.modC_freeze (b : Issue) (f : Core → Core) : (b.modC f).freeze = b.freeze := rfl
@[simp] theorem Issue.modC_waitFor (b : Issue) (f : Core → Core) : (b.modC f).waitFor = b.waitFor := rfl
@[simp] theorem Issue.modC_setF (b : Issue) (f : Core → Core) : (b.modC f).setF = b.setF := rfl
@[simp] theorem Issue.modC_clrF (b : Issue) (f : Core → Core) : (b.modC f).clrF = b.clrF := rfl
@[simp] theorem Issue.modC_setS (b : Issue) (f : Core → Core) : (b.modC f).setS = b.setS := rfl
@[simp] theorem Issue.modC_clrS (b : Issue) (f : Core → Core) : (b.modC f).clrS = b.clrS := rfl
@[simp] theorem Issue.modC_jump (b : Issue) (f : Core → Core) : (b.modC f).jump = b.jump := rfl
@[simp] theorem Issue.modC_wroteS63 (b : Issue) (f : Core → Core) : (b.modC f).wroteS63 = b.wroteS63 := rfl
@[simp] theorem Issue.modC_isWait (b : Issue) (f : Core → Core) : (b.modC f).isWait = b.isWait := rfl
@[simp] theorem Issue.modC_flagG (b : Issue) (f : Core → Core) : (b.modC f).flagG = b.flagG := rfl
@[simp] theorem Issue.modC_wayp (b : Issue) (f : Core → Core) : (b.modC f).wayp = b.wayp := rfl
@[simp] theorem Issue.modC_dualSet (b : Issue) (f : Core → Core) : (b.modC f).dualSet = b.dualSet := rfl
@[simp] theorem Issue.modC_halt (b : Issue) (f : Core → Core) : (b.modC f).halt = b.halt := rfl
@[simp] theorem Issue.modC_brk (b : Issue) (f : Core → Core) : (b.modC f).brk = b.brk := rfl
@[simp] theorem Issue.modC_abort (b : Issue) (f : Core → Core) : (b.modC f).abort = b.abort := rfl
@[simp] theorem Issue.modC_eaten (b : Issue) (f : Core → Core) : (b.modC f).eaten = b.eaten := rfl
@[simp] theorem Issue.modC_popped (b : Issue) (f : Core → Core) : (b.modC f).popped = b.popped := rfl
@[simp] theorem Issue.modC_pushed (b : Issue) (f : Core → Core) : (b.modC f).pushed = b.pushed := rfl
@[simp] theorem Issue.trapAt_now (b : Issue) (n c : Nat) : (b.trapAt n c).now = b.now := rfl
@[simp] theorem Issue.trapAt_priv (b : Issue) (n c : Nat) : (b.trapAt n c).priv = b.priv := rfl
@[simp] theorem Issue.trapAt_stall (b : Issue) (n c : Nat) : (b.trapAt n c).stall = b.stall := rfl
@[simp] theorem Issue.trapAt_freeze (b : Issue) (n c : Nat) : (b.trapAt n c).freeze = b.freeze := rfl
@[simp] theorem Issue.trapAt_waitFor (b : Issue) (n c : Nat) : (b.trapAt n c).waitFor = b.waitFor := rfl
@[simp] theorem Issue.trapAt_setF (b : Issue) (n c : Nat) : (b.trapAt n c).setF = b.setF := rfl
@[simp] theorem Issue.trapAt_clrF (b : Issue) (n c : Nat) : (b.trapAt n c).clrF = b.clrF := rfl
@[simp] theorem Issue.trapAt_setS (b : Issue) (n c : Nat) : (b.trapAt n c).setS = b.setS := rfl
@[simp] theorem Issue.trapAt_clrS (b : Issue) (n c : Nat) : (b.trapAt n c).clrS = b.clrS := rfl
@[simp] theorem Issue.trapAt_jump (b : Issue) (n c : Nat) : (b.trapAt n c).jump = b.jump := rfl
@[simp] theorem Issue.trapAt_wroteS63 (b : Issue) (n c : Nat) : (b.trapAt n c).wroteS63 = b.wroteS63 := rfl
@[simp] theorem Issue.trapAt_isWait (b : Issue) (n c : Nat) : (b.trapAt n c).isWait = b.isWait := rfl
@[simp] theorem Issue.trapAt_flagG (b : Issue) (n c : Nat) : (b.trapAt n c).flagG = b.flagG := rfl
@[simp] theorem Issue.trapAt_wayp (b : Issue) (n c : Nat) : (b.trapAt n c).wayp = b.wayp := rfl
@[simp] theorem Issue.trapAt_dualSet (b : Issue) (n c : Nat) : (b.trapAt n c).dualSet = b.dualSet := rfl
@[simp] theorem Issue.trapAt_halt (b : Issue) (n c : Nat) : (b.trapAt n c).halt = b.halt := rfl
@[simp] theorem Issue.trapAt_brk (b : Issue) (n c : Nat) : (b.trapAt n c).brk = b.brk := rfl
@[simp] theorem Issue.trapAt_abort (b : Issue) (n c : Nat) : (b.trapAt n c).abort = b.abort := rfl
@[simp] theorem Issue.trapAt_eaten (b : Issue) (n c : Nat) : (b.trapAt n c).eaten = b.eaten := rfl
@[simp] theorem Issue.trapAt_popped (b : Issue) (n c : Nat) : (b.trapAt n c).popped = b.popped := rfl
@[simp] theorem Issue.trapAt_pushed (b : Issue) (n c : Nat) : (b.trapAt n c).pushed = b.pushed := rfl
@[simp] theorem Issue.trapWith_now (b : Issue) (n c i : Nat) (fr : Bool) (k : Nat) : (b.trapWith n c i fr k).now = b.now := rfl
@[simp] theorem Issue.trapWith_priv (b : Issue) (n c i : Nat) (fr : Bool) (k : Nat) : (b.trapWith n c i fr k).priv = b.priv := rfl
@[simp] theorem Issue.trapWith_stall (b : Issue) (n c i : Nat) (fr : Bool) (k : Nat) : (b.trapWith n c i fr k).stall = b.stall := rfl
@[simp] theorem Issue.trapWith_freeze (b : Issue) (n c i : Nat) (fr : Bool) (k : Nat) : (b.trapWith n c i fr k).freeze = b.freeze := rfl
@[simp] theorem Issue.trapWith_waitFor (b : Issue) (n c i : Nat) (fr : Bool) (k : Nat) : (b.trapWith n c i fr k).waitFor = b.waitFor := rfl
@[simp] theorem Issue.trapWith_setF (b : Issue) (n c i : Nat) (fr : Bool) (k : Nat) : (b.trapWith n c i fr k).setF = b.setF := rfl
@[simp] theorem Issue.trapWith_clrF (b : Issue) (n c i : Nat) (fr : Bool) (k : Nat) : (b.trapWith n c i fr k).clrF = b.clrF := rfl
@[simp] theorem Issue.trapWith_setS (b : Issue) (n c i : Nat) (fr : Bool) (k : Nat) : (b.trapWith n c i fr k).setS = b.setS := rfl
@[simp] theorem Issue.trapWith_clrS (b : Issue) (n c i : Nat) (fr : Bool) (k : Nat) : (b.trapWith n c i fr k).clrS = b.clrS := rfl
@[simp] theorem Issue.trapWith_jump (b : Issue) (n c i : Nat) (fr : Bool) (k : Nat) : (b.trapWith n c i fr k).jump = b.jump := rfl
@[simp] theorem Issue.trapWith_wroteS63 (b : Issue) (n c i : Nat) (fr : Bool) (k : Nat) : (b.trapWith n c i fr k).wroteS63 = b.wroteS63 := rfl
@[simp] theorem Issue.trapWith_isWait (b : Issue) (n c i : Nat) (fr : Bool) (k : Nat) : (b.trapWith n c i fr k).isWait = b.isWait := rfl
@[simp] theorem Issue.trapWith_flagG (b : Issue) (n c i : Nat) (fr : Bool) (k : Nat) : (b.trapWith n c i fr k).flagG = b.flagG := rfl
@[simp] theorem Issue.trapWith_wayp (b : Issue) (n c i : Nat) (fr : Bool) (k : Nat) : (b.trapWith n c i fr k).wayp = b.wayp := rfl
@[simp] theorem Issue.trapWith_dualSet (b : Issue) (n c i : Nat) (fr : Bool) (k : Nat) : (b.trapWith n c i fr k).dualSet = b.dualSet := rfl
@[simp] theorem Issue.trapWith_halt (b : Issue) (n c i : Nat) (fr : Bool) (k : Nat) : (b.trapWith n c i fr k).halt = b.halt := rfl
@[simp] theorem Issue.trapWith_brk (b : Issue) (n c i : Nat) (fr : Bool) (k : Nat) : (b.trapWith n c i fr k).brk = b.brk := rfl
@[simp] theorem Issue.trapWith_abort (b : Issue) (n c i : Nat) (fr : Bool) (k : Nat) : (b.trapWith n c i fr k).abort = b.abort := rfl
@[simp] theorem Issue.trapWith_eaten (b : Issue) (n c i : Nat) (fr : Bool) (k : Nat) : (b.trapWith n c i fr k).eaten = b.eaten := rfl
@[simp] theorem Issue.trapWith_popped (b : Issue) (n c i : Nat) (fr : Bool) (k : Nat) : (b.trapWith n c i fr k).popped = b.popped := rfl
@[simp] theorem Issue.trapWith_pushed (b : Issue) (n c i : Nat) (fr : Bool) (k : Nat) : (b.trapWith n c i fr k).pushed = b.pushed := rfl
@[simp] theorem Issue.privAt_now (b : Issue) (n : Nat) : (b.privAt n).now = b.now := rfl
@[simp] theorem Issue.privAt_trap (b : Issue) (n : Nat) : (b.privAt n).trap = b.trap := rfl
@[simp] theorem Issue.privAt_stall (b : Issue) (n : Nat) : (b.privAt n).stall = b.stall := rfl
@[simp] theorem Issue.privAt_freeze (b : Issue) (n : Nat) : (b.privAt n).freeze = b.freeze := rfl
@[simp] theorem Issue.privAt_waitFor (b : Issue) (n : Nat) : (b.privAt n).waitFor = b.waitFor := rfl
@[simp] theorem Issue.privAt_setF (b : Issue) (n : Nat) : (b.privAt n).setF = b.setF := rfl
@[simp] theorem Issue.privAt_clrF (b : Issue) (n : Nat) : (b.privAt n).clrF = b.clrF := rfl
@[simp] theorem Issue.privAt_setS (b : Issue) (n : Nat) : (b.privAt n).setS = b.setS := rfl
@[simp] theorem Issue.privAt_clrS (b : Issue) (n : Nat) : (b.privAt n).clrS = b.clrS := rfl
@[simp] theorem Issue.privAt_jump (b : Issue) (n : Nat) : (b.privAt n).jump = b.jump := rfl
@[simp] theorem Issue.privAt_wroteS63 (b : Issue) (n : Nat) : (b.privAt n).wroteS63 = b.wroteS63 := rfl
@[simp] theorem Issue.privAt_isWait (b : Issue) (n : Nat) : (b.privAt n).isWait = b.isWait := rfl
@[simp] theorem Issue.privAt_flagG (b : Issue) (n : Nat) : (b.privAt n).flagG = b.flagG := rfl
@[simp] theorem Issue.privAt_wayp (b : Issue) (n : Nat) : (b.privAt n).wayp = b.wayp := rfl
@[simp] theorem Issue.privAt_dualSet (b : Issue) (n : Nat) : (b.privAt n).dualSet = b.dualSet := rfl
@[simp] theorem Issue.privAt_halt (b : Issue) (n : Nat) : (b.privAt n).halt = b.halt := rfl
@[simp] theorem Issue.privAt_brk (b : Issue) (n : Nat) : (b.privAt n).brk = b.brk := rfl
@[simp] theorem Issue.privAt_abort (b : Issue) (n : Nat) : (b.privAt n).abort = b.abort := rfl
@[simp] theorem Issue.privAt_eaten (b : Issue) (n : Nat) : (b.privAt n).eaten = b.eaten := rfl
@[simp] theorem Issue.privAt_popped (b : Issue) (n : Nat) : (b.privAt n).popped = b.popped := rfl
@[simp] theorem Issue.privAt_pushed (b : Issue) (n : Nat) : (b.privAt n).pushed = b.pushed := rfl
@[simp] theorem Issue.stallBy_now (b : Issue) (h : Hold) : (b.stallBy h).now = b.now := rfl
@[simp] theorem Issue.stallBy_trap (b : Issue) (h : Hold) : (b.stallBy h).trap = b.trap := rfl
@[simp] theorem Issue.stallBy_priv (b : Issue) (h : Hold) : (b.stallBy h).priv = b.priv := rfl
@[simp] theorem Issue.stallBy_freeze (b : Issue) (h : Hold) : (b.stallBy h).freeze = b.freeze := rfl
@[simp] theorem Issue.stallBy_waitFor (b : Issue) (h : Hold) : (b.stallBy h).waitFor = b.waitFor := rfl
@[simp] theorem Issue.stallBy_setF (b : Issue) (h : Hold) : (b.stallBy h).setF = b.setF := rfl
@[simp] theorem Issue.stallBy_clrF (b : Issue) (h : Hold) : (b.stallBy h).clrF = b.clrF := rfl
@[simp] theorem Issue.stallBy_setS (b : Issue) (h : Hold) : (b.stallBy h).setS = b.setS := rfl
@[simp] theorem Issue.stallBy_clrS (b : Issue) (h : Hold) : (b.stallBy h).clrS = b.clrS := rfl
@[simp] theorem Issue.stallBy_jump (b : Issue) (h : Hold) : (b.stallBy h).jump = b.jump := rfl
@[simp] theorem Issue.stallBy_wroteS63 (b : Issue) (h : Hold) : (b.stallBy h).wroteS63 = b.wroteS63 := rfl
@[simp] theorem Issue.stallBy_isWait (b : Issue) (h : Hold) : (b.stallBy h).isWait = b.isWait := rfl
@[simp] theorem Issue.stallBy_flagG (b : Issue) (h : Hold) : (b.stallBy h).flagG = b.flagG := rfl
@[simp] theorem Issue.stallBy_wayp (b : Issue) (h : Hold) : (b.stallBy h).wayp = b.wayp := rfl
@[simp] theorem Issue.stallBy_dualSet (b : Issue) (h : Hold) : (b.stallBy h).dualSet = b.dualSet := rfl
@[simp] theorem Issue.stallBy_halt (b : Issue) (h : Hold) : (b.stallBy h).halt = b.halt := rfl
@[simp] theorem Issue.stallBy_brk (b : Issue) (h : Hold) : (b.stallBy h).brk = b.brk := rfl
@[simp] theorem Issue.stallBy_abort (b : Issue) (h : Hold) : (b.stallBy h).abort = b.abort := rfl
@[simp] theorem Issue.stallBy_eaten (b : Issue) (h : Hold) : (b.stallBy h).eaten = b.eaten := rfl
@[simp] theorem Issue.stallBy_popped (b : Issue) (h : Hold) : (b.stallBy h).popped = b.popped := rfl
@[simp] theorem Issue.stallBy_pushed (b : Issue) (h : Hold) : (b.stallBy h).pushed = b.pushed := rfl
@[simp] theorem Issue.setFlags_now (b : Issue) (v : BitVec 32) : (b.setFlags v).now = b.now := rfl
@[simp] theorem Issue.setFlags_trap (b : Issue) (v : BitVec 32) : (b.setFlags v).trap = b.trap := rfl
@[simp] theorem Issue.setFlags_priv (b : Issue) (v : BitVec 32) : (b.setFlags v).priv = b.priv := rfl
@[simp] theorem Issue.setFlags_stall (b : Issue) (v : BitVec 32) : (b.setFlags v).stall = b.stall := rfl
@[simp] theorem Issue.setFlags_freeze (b : Issue) (v : BitVec 32) : (b.setFlags v).freeze = b.freeze := rfl
@[simp] theorem Issue.setFlags_waitFor (b : Issue) (v : BitVec 32) : (b.setFlags v).waitFor = b.waitFor := rfl
@[simp] theorem Issue.setFlags_clrF (b : Issue) (v : BitVec 32) : (b.setFlags v).clrF = b.clrF := rfl
@[simp] theorem Issue.setFlags_setS (b : Issue) (v : BitVec 32) : (b.setFlags v).setS = b.setS := rfl
@[simp] theorem Issue.setFlags_clrS (b : Issue) (v : BitVec 32) : (b.setFlags v).clrS = b.clrS := rfl
@[simp] theorem Issue.setFlags_jump (b : Issue) (v : BitVec 32) : (b.setFlags v).jump = b.jump := rfl
@[simp] theorem Issue.setFlags_wroteS63 (b : Issue) (v : BitVec 32) : (b.setFlags v).wroteS63 = b.wroteS63 := rfl
@[simp] theorem Issue.setFlags_isWait (b : Issue) (v : BitVec 32) : (b.setFlags v).isWait = b.isWait := rfl
@[simp] theorem Issue.setFlags_flagG (b : Issue) (v : BitVec 32) : (b.setFlags v).flagG = b.flagG := rfl
@[simp] theorem Issue.setFlags_wayp (b : Issue) (v : BitVec 32) : (b.setFlags v).wayp = b.wayp := rfl
@[simp] theorem Issue.setFlags_dualSet (b : Issue) (v : BitVec 32) : (b.setFlags v).dualSet = b.dualSet := rfl
@[simp] theorem Issue.setFlags_halt (b : Issue) (v : BitVec 32) : (b.setFlags v).halt = b.halt := rfl
@[simp] theorem Issue.setFlags_brk (b : Issue) (v : BitVec 32) : (b.setFlags v).brk = b.brk := rfl
@[simp] theorem Issue.setFlags_abort (b : Issue) (v : BitVec 32) : (b.setFlags v).abort = b.abort := rfl
@[simp] theorem Issue.setFlags_eaten (b : Issue) (v : BitVec 32) : (b.setFlags v).eaten = b.eaten := rfl
@[simp] theorem Issue.setFlags_popped (b : Issue) (v : BitVec 32) : (b.setFlags v).popped = b.popped := rfl
@[simp] theorem Issue.setFlags_pushed (b : Issue) (v : BitVec 32) : (b.setFlags v).pushed = b.pushed := rfl
@[simp] theorem Issue.clrFlags_now (b : Issue) (v : BitVec 32) : (b.clrFlags v).now = b.now := rfl
@[simp] theorem Issue.clrFlags_trap (b : Issue) (v : BitVec 32) : (b.clrFlags v).trap = b.trap := rfl
@[simp] theorem Issue.clrFlags_priv (b : Issue) (v : BitVec 32) : (b.clrFlags v).priv = b.priv := rfl
@[simp] theorem Issue.clrFlags_stall (b : Issue) (v : BitVec 32) : (b.clrFlags v).stall = b.stall := rfl
@[simp] theorem Issue.clrFlags_freeze (b : Issue) (v : BitVec 32) : (b.clrFlags v).freeze = b.freeze := rfl
@[simp] theorem Issue.clrFlags_waitFor (b : Issue) (v : BitVec 32) : (b.clrFlags v).waitFor = b.waitFor := rfl
@[simp] theorem Issue.clrFlags_setF (b : Issue) (v : BitVec 32) : (b.clrFlags v).setF = b.setF := rfl
@[simp] theorem Issue.clrFlags_setS (b : Issue) (v : BitVec 32) : (b.clrFlags v).setS = b.setS := rfl
@[simp] theorem Issue.clrFlags_clrS (b : Issue) (v : BitVec 32) : (b.clrFlags v).clrS = b.clrS := rfl
@[simp] theorem Issue.clrFlags_jump (b : Issue) (v : BitVec 32) : (b.clrFlags v).jump = b.jump := rfl
@[simp] theorem Issue.clrFlags_wroteS63 (b : Issue) (v : BitVec 32) : (b.clrFlags v).wroteS63 = b.wroteS63 := rfl
@[simp] theorem Issue.clrFlags_isWait (b : Issue) (v : BitVec 32) : (b.clrFlags v).isWait = b.isWait := rfl
@[simp] theorem Issue.clrFlags_flagG (b : Issue) (v : BitVec 32) : (b.clrFlags v).flagG = b.flagG := rfl
@[simp] theorem Issue.clrFlags_wayp (b : Issue) (v : BitVec 32) : (b.clrFlags v).wayp = b.wayp := rfl
@[simp] theorem Issue.clrFlags_dualSet (b : Issue) (v : BitVec 32) : (b.clrFlags v).dualSet = b.dualSet := rfl
@[simp] theorem Issue.clrFlags_halt (b : Issue) (v : BitVec 32) : (b.clrFlags v).halt = b.halt := rfl
@[simp] theorem Issue.clrFlags_brk (b : Issue) (v : BitVec 32) : (b.clrFlags v).brk = b.brk := rfl
@[simp] theorem Issue.clrFlags_abort (b : Issue) (v : BitVec 32) : (b.clrFlags v).abort = b.abort := rfl
@[simp] theorem Issue.clrFlags_eaten (b : Issue) (v : BitVec 32) : (b.clrFlags v).eaten = b.eaten := rfl
@[simp] theorem Issue.clrFlags_popped (b : Issue) (v : BitVec 32) : (b.clrFlags v).popped = b.popped := rfl
@[simp] theorem Issue.clrFlags_pushed (b : Issue) (v : BitVec 32) : (b.clrFlags v).pushed = b.pushed := rfl
@[simp] theorem Issue.status_now (b : Issue) (x y z : Bool) : (b.status x y z).now = b.now := rfl
@[simp] theorem Issue.status_trap (b : Issue) (x y z : Bool) : (b.status x y z).trap = b.trap := rfl
@[simp] theorem Issue.status_priv (b : Issue) (x y z : Bool) : (b.status x y z).priv = b.priv := rfl
@[simp] theorem Issue.status_stall (b : Issue) (x y z : Bool) : (b.status x y z).stall = b.stall := rfl
@[simp] theorem Issue.status_freeze (b : Issue) (x y z : Bool) : (b.status x y z).freeze = b.freeze := rfl
@[simp] theorem Issue.status_waitFor (b : Issue) (x y z : Bool) : (b.status x y z).waitFor = b.waitFor := rfl
@[simp] theorem Issue.status_setF (b : Issue) (x y z : Bool) : (b.status x y z).setF = b.setF := rfl
@[simp] theorem Issue.status_clrF (b : Issue) (x y z : Bool) : (b.status x y z).clrF = b.clrF := rfl
@[simp] theorem Issue.status_clrS (b : Issue) (x y z : Bool) : (b.status x y z).clrS = b.clrS := rfl
@[simp] theorem Issue.status_jump (b : Issue) (x y z : Bool) : (b.status x y z).jump = b.jump := rfl
@[simp] theorem Issue.status_wroteS63 (b : Issue) (x y z : Bool) : (b.status x y z).wroteS63 = b.wroteS63 := rfl
@[simp] theorem Issue.status_isWait (b : Issue) (x y z : Bool) : (b.status x y z).isWait = b.isWait := rfl
@[simp] theorem Issue.status_flagG (b : Issue) (x y z : Bool) : (b.status x y z).flagG = b.flagG := rfl
@[simp] theorem Issue.status_wayp (b : Issue) (x y z : Bool) : (b.status x y z).wayp = b.wayp := rfl
@[simp] theorem Issue.status_dualSet (b : Issue) (x y z : Bool) : (b.status x y z).dualSet = b.dualSet := rfl
@[simp] theorem Issue.status_halt (b : Issue) (x y z : Bool) : (b.status x y z).halt = b.halt := rfl
@[simp] theorem Issue.status_brk (b : Issue) (x y z : Bool) : (b.status x y z).brk = b.brk := rfl
@[simp] theorem Issue.status_abort (b : Issue) (x y z : Bool) : (b.status x y z).abort = b.abort := rfl
@[simp] theorem Issue.status_eaten (b : Issue) (x y z : Bool) : (b.status x y z).eaten = b.eaten := rfl
@[simp] theorem Issue.status_popped (b : Issue) (x y z : Bool) : (b.status x y z).popped = b.popped := rfl
@[simp] theorem Issue.status_pushed (b : Issue) (x y z : Bool) : (b.status x y z).pushed = b.pushed := rfl
@[simp] theorem Issue.lost_now (b : Issue) (x : Bool) : (b.lost x).now = b.now := rfl
@[simp] theorem Issue.lost_trap (b : Issue) (x : Bool) : (b.lost x).trap = b.trap := rfl
@[simp] theorem Issue.lost_priv (b : Issue) (x : Bool) : (b.lost x).priv = b.priv := rfl
@[simp] theorem Issue.lost_stall (b : Issue) (x : Bool) : (b.lost x).stall = b.stall := rfl
@[simp] theorem Issue.lost_freeze (b : Issue) (x : Bool) : (b.lost x).freeze = b.freeze := rfl
@[simp] theorem Issue.lost_waitFor (b : Issue) (x : Bool) : (b.lost x).waitFor = b.waitFor := rfl
@[simp] theorem Issue.lost_setF (b : Issue) (x : Bool) : (b.lost x).setF = b.setF := rfl
@[simp] theorem Issue.lost_clrF (b : Issue) (x : Bool) : (b.lost x).clrF = b.clrF := rfl
@[simp] theorem Issue.lost_clrS (b : Issue) (x : Bool) : (b.lost x).clrS = b.clrS := rfl
@[simp] theorem Issue.lost_jump (b : Issue) (x : Bool) : (b.lost x).jump = b.jump := rfl
@[simp] theorem Issue.lost_wroteS63 (b : Issue) (x : Bool) : (b.lost x).wroteS63 = b.wroteS63 := rfl
@[simp] theorem Issue.lost_isWait (b : Issue) (x : Bool) : (b.lost x).isWait = b.isWait := rfl
@[simp] theorem Issue.lost_flagG (b : Issue) (x : Bool) : (b.lost x).flagG = b.flagG := rfl
@[simp] theorem Issue.lost_wayp (b : Issue) (x : Bool) : (b.lost x).wayp = b.wayp := rfl
@[simp] theorem Issue.lost_dualSet (b : Issue) (x : Bool) : (b.lost x).dualSet = b.dualSet := rfl
@[simp] theorem Issue.lost_halt (b : Issue) (x : Bool) : (b.lost x).halt = b.halt := rfl
@[simp] theorem Issue.lost_brk (b : Issue) (x : Bool) : (b.lost x).brk = b.brk := rfl
@[simp] theorem Issue.lost_abort (b : Issue) (x : Bool) : (b.lost x).abort = b.abort := rfl
@[simp] theorem Issue.lost_eaten (b : Issue) (x : Bool) : (b.lost x).eaten = b.eaten := rfl
@[simp] theorem Issue.lost_popped (b : Issue) (x : Bool) : (b.lost x).popped = b.popped := rfl
@[simp] theorem Issue.lost_pushed (b : Issue) (x : Bool) : (b.lost x).pushed = b.pushed := rfl
@[simp] theorem Issue.setSl_trap (b : Issue) (u : FU) (j : Nat) (w : Word) : (b.setSl u j w).trap = b.trap := rfl
@[simp] theorem Issue.setSl_priv (b : Issue) (u : FU) (j : Nat) (w : Word) : (b.setSl u j w).priv = b.priv := rfl
@[simp] theorem Issue.setSl_stall (b : Issue) (u : FU) (j : Nat) (w : Word) : (b.setSl u j w).stall = b.stall := rfl
@[simp] theorem Issue.setSl_freeze (b : Issue) (u : FU) (j : Nat) (w : Word) : (b.setSl u j w).freeze = b.freeze := rfl
@[simp] theorem Issue.setSl_waitFor (b : Issue) (u : FU) (j : Nat) (w : Word) : (b.setSl u j w).waitFor = b.waitFor := rfl
@[simp] theorem Issue.setSl_setF (b : Issue) (u : FU) (j : Nat) (w : Word) : (b.setSl u j w).setF = b.setF := rfl
@[simp] theorem Issue.setSl_clrF (b : Issue) (u : FU) (j : Nat) (w : Word) : (b.setSl u j w).clrF = b.clrF := rfl
@[simp] theorem Issue.setSl_setS (b : Issue) (u : FU) (j : Nat) (w : Word) : (b.setSl u j w).setS = b.setS := rfl
@[simp] theorem Issue.setSl_clrS (b : Issue) (u : FU) (j : Nat) (w : Word) : (b.setSl u j w).clrS = b.clrS := rfl
@[simp] theorem Issue.setSl_jump (b : Issue) (u : FU) (j : Nat) (w : Word) : (b.setSl u j w).jump = b.jump := rfl
@[simp] theorem Issue.setSl_wroteS63 (b : Issue) (u : FU) (j : Nat) (w : Word) : (b.setSl u j w).wroteS63 = b.wroteS63 := rfl
@[simp] theorem Issue.setSl_isWait (b : Issue) (u : FU) (j : Nat) (w : Word) : (b.setSl u j w).isWait = b.isWait := rfl
@[simp] theorem Issue.setSl_flagG (b : Issue) (u : FU) (j : Nat) (w : Word) : (b.setSl u j w).flagG = b.flagG := rfl
@[simp] theorem Issue.setSl_wayp (b : Issue) (u : FU) (j : Nat) (w : Word) : (b.setSl u j w).wayp = b.wayp := rfl
@[simp] theorem Issue.setSl_dualSet (b : Issue) (u : FU) (j : Nat) (w : Word) : (b.setSl u j w).dualSet = b.dualSet := rfl
@[simp] theorem Issue.setSl_halt (b : Issue) (u : FU) (j : Nat) (w : Word) : (b.setSl u j w).halt = b.halt := rfl
@[simp] theorem Issue.setSl_brk (b : Issue) (u : FU) (j : Nat) (w : Word) : (b.setSl u j w).brk = b.brk := rfl
@[simp] theorem Issue.setSl_abort (b : Issue) (u : FU) (j : Nat) (w : Word) : (b.setSl u j w).abort = b.abort := rfl
@[simp] theorem Issue.setSl_eaten (b : Issue) (u : FU) (j : Nat) (w : Word) : (b.setSl u j w).eaten = b.eaten := rfl
@[simp] theorem Issue.setSl_popped (b : Issue) (u : FU) (j : Nat) (w : Word) : (b.setSl u j w).popped = b.popped := rfl
@[simp] theorem Issue.setSl_pushed (b : Issue) (u : FU) (j : Nat) (w : Word) : (b.setSl u j w).pushed = b.pushed := rfl
@[simp] theorem Issue.setVl_trap (b : Issue) (u : FU) (j : Nat) (v : VVal) : (b.setVl u j v).trap = b.trap := rfl
@[simp] theorem Issue.setVl_priv (b : Issue) (u : FU) (j : Nat) (v : VVal) : (b.setVl u j v).priv = b.priv := rfl
@[simp] theorem Issue.setVl_stall (b : Issue) (u : FU) (j : Nat) (v : VVal) : (b.setVl u j v).stall = b.stall := rfl
@[simp] theorem Issue.setVl_freeze (b : Issue) (u : FU) (j : Nat) (v : VVal) : (b.setVl u j v).freeze = b.freeze := rfl
@[simp] theorem Issue.setVl_waitFor (b : Issue) (u : FU) (j : Nat) (v : VVal) : (b.setVl u j v).waitFor = b.waitFor := rfl
@[simp] theorem Issue.setVl_setF (b : Issue) (u : FU) (j : Nat) (v : VVal) : (b.setVl u j v).setF = b.setF := rfl
@[simp] theorem Issue.setVl_clrF (b : Issue) (u : FU) (j : Nat) (v : VVal) : (b.setVl u j v).clrF = b.clrF := rfl
@[simp] theorem Issue.setVl_setS (b : Issue) (u : FU) (j : Nat) (v : VVal) : (b.setVl u j v).setS = b.setS := rfl
@[simp] theorem Issue.setVl_clrS (b : Issue) (u : FU) (j : Nat) (v : VVal) : (b.setVl u j v).clrS = b.clrS := rfl
@[simp] theorem Issue.setVl_jump (b : Issue) (u : FU) (j : Nat) (v : VVal) : (b.setVl u j v).jump = b.jump := rfl
@[simp] theorem Issue.setVl_wroteS63 (b : Issue) (u : FU) (j : Nat) (v : VVal) : (b.setVl u j v).wroteS63 = b.wroteS63 := rfl
@[simp] theorem Issue.setVl_isWait (b : Issue) (u : FU) (j : Nat) (v : VVal) : (b.setVl u j v).isWait = b.isWait := rfl
@[simp] theorem Issue.setVl_flagG (b : Issue) (u : FU) (j : Nat) (v : VVal) : (b.setVl u j v).flagG = b.flagG := rfl
@[simp] theorem Issue.setVl_wayp (b : Issue) (u : FU) (j : Nat) (v : VVal) : (b.setVl u j v).wayp = b.wayp := rfl
@[simp] theorem Issue.setVl_dualSet (b : Issue) (u : FU) (j : Nat) (v : VVal) : (b.setVl u j v).dualSet = b.dualSet := rfl
@[simp] theorem Issue.setVl_halt (b : Issue) (u : FU) (j : Nat) (v : VVal) : (b.setVl u j v).halt = b.halt := rfl
@[simp] theorem Issue.setVl_brk (b : Issue) (u : FU) (j : Nat) (v : VVal) : (b.setVl u j v).brk = b.brk := rfl
@[simp] theorem Issue.setVl_abort (b : Issue) (u : FU) (j : Nat) (v : VVal) : (b.setVl u j v).abort = b.abort := rfl
@[simp] theorem Issue.setVl_eaten (b : Issue) (u : FU) (j : Nat) (v : VVal) : (b.setVl u j v).eaten = b.eaten := rfl
@[simp] theorem Issue.setVl_popped (b : Issue) (u : FU) (j : Nat) (v : VVal) : (b.setVl u j v).popped = b.popped := rfl
@[simp] theorem Issue.setVl_pushed (b : Issue) (u : FU) (j : Nat) (v : VVal) : (b.setVl u j v).pushed = b.pushed := rfl
@[simp] theorem Issue.setLsrc_trap (b : Issue) (u : FU) (j : Nat) (x : Src) (k : BitVec 64) : (b.setLsrc u j x k).trap = b.trap := rfl
@[simp] theorem Issue.setLsrc_priv (b : Issue) (u : FU) (j : Nat) (x : Src) (k : BitVec 64) : (b.setLsrc u j x k).priv = b.priv := rfl
@[simp] theorem Issue.setLsrc_stall (b : Issue) (u : FU) (j : Nat) (x : Src) (k : BitVec 64) : (b.setLsrc u j x k).stall = b.stall := rfl
@[simp] theorem Issue.setLsrc_freeze (b : Issue) (u : FU) (j : Nat) (x : Src) (k : BitVec 64) : (b.setLsrc u j x k).freeze = b.freeze := rfl
@[simp] theorem Issue.setLsrc_waitFor (b : Issue) (u : FU) (j : Nat) (x : Src) (k : BitVec 64) : (b.setLsrc u j x k).waitFor = b.waitFor := rfl
@[simp] theorem Issue.setLsrc_setF (b : Issue) (u : FU) (j : Nat) (x : Src) (k : BitVec 64) : (b.setLsrc u j x k).setF = b.setF := rfl
@[simp] theorem Issue.setLsrc_clrF (b : Issue) (u : FU) (j : Nat) (x : Src) (k : BitVec 64) : (b.setLsrc u j x k).clrF = b.clrF := rfl
@[simp] theorem Issue.setLsrc_setS (b : Issue) (u : FU) (j : Nat) (x : Src) (k : BitVec 64) : (b.setLsrc u j x k).setS = b.setS := rfl
@[simp] theorem Issue.setLsrc_clrS (b : Issue) (u : FU) (j : Nat) (x : Src) (k : BitVec 64) : (b.setLsrc u j x k).clrS = b.clrS := rfl
@[simp] theorem Issue.setLsrc_jump (b : Issue) (u : FU) (j : Nat) (x : Src) (k : BitVec 64) : (b.setLsrc u j x k).jump = b.jump := rfl
@[simp] theorem Issue.setLsrc_wroteS63 (b : Issue) (u : FU) (j : Nat) (x : Src) (k : BitVec 64) : (b.setLsrc u j x k).wroteS63 = b.wroteS63 := rfl
@[simp] theorem Issue.setLsrc_isWait (b : Issue) (u : FU) (j : Nat) (x : Src) (k : BitVec 64) : (b.setLsrc u j x k).isWait = b.isWait := rfl
@[simp] theorem Issue.setLsrc_flagG (b : Issue) (u : FU) (j : Nat) (x : Src) (k : BitVec 64) : (b.setLsrc u j x k).flagG = b.flagG := rfl
@[simp] theorem Issue.setLsrc_wayp (b : Issue) (u : FU) (j : Nat) (x : Src) (k : BitVec 64) : (b.setLsrc u j x k).wayp = b.wayp := rfl
@[simp] theorem Issue.setLsrc_dualSet (b : Issue) (u : FU) (j : Nat) (x : Src) (k : BitVec 64) : (b.setLsrc u j x k).dualSet = b.dualSet := rfl
@[simp] theorem Issue.setLsrc_halt (b : Issue) (u : FU) (j : Nat) (x : Src) (k : BitVec 64) : (b.setLsrc u j x k).halt = b.halt := rfl
@[simp] theorem Issue.setLsrc_brk (b : Issue) (u : FU) (j : Nat) (x : Src) (k : BitVec 64) : (b.setLsrc u j x k).brk = b.brk := rfl
@[simp] theorem Issue.setLsrc_abort (b : Issue) (u : FU) (j : Nat) (x : Src) (k : BitVec 64) : (b.setLsrc u j x k).abort = b.abort := rfl
@[simp] theorem Issue.setLsrc_eaten (b : Issue) (u : FU) (j : Nat) (x : Src) (k : BitVec 64) : (b.setLsrc u j x k).eaten = b.eaten := rfl
@[simp] theorem Issue.setLsrc_popped (b : Issue) (u : FU) (j : Nat) (x : Src) (k : BitVec 64) : (b.setLsrc u j x k).popped = b.popped := rfl
@[simp] theorem Issue.setLsrc_pushed (b : Issue) (u : FU) (j : Nat) (x : Src) (k : BitVec 64) : (b.setLsrc u j x k).pushed = b.pushed := rfl
@[simp] theorem Issue.resultS_trap (b : Issue) (p : SPort) (c : Nat) (w : Word) : (b.resultS p c w).trap = b.trap := rfl
@[simp] theorem Issue.resultS_priv (b : Issue) (p : SPort) (c : Nat) (w : Word) : (b.resultS p c w).priv = b.priv := rfl
@[simp] theorem Issue.resultS_stall (b : Issue) (p : SPort) (c : Nat) (w : Word) : (b.resultS p c w).stall = b.stall := rfl
@[simp] theorem Issue.resultS_freeze (b : Issue) (p : SPort) (c : Nat) (w : Word) : (b.resultS p c w).freeze = b.freeze := rfl
@[simp] theorem Issue.resultS_waitFor (b : Issue) (p : SPort) (c : Nat) (w : Word) : (b.resultS p c w).waitFor = b.waitFor := rfl
@[simp] theorem Issue.resultS_setF (b : Issue) (p : SPort) (c : Nat) (w : Word) : (b.resultS p c w).setF = b.setF := rfl
@[simp] theorem Issue.resultS_clrF (b : Issue) (p : SPort) (c : Nat) (w : Word) : (b.resultS p c w).clrF = b.clrF := rfl
@[simp] theorem Issue.resultS_setS (b : Issue) (p : SPort) (c : Nat) (w : Word) : (b.resultS p c w).setS = b.setS := rfl
@[simp] theorem Issue.resultS_clrS (b : Issue) (p : SPort) (c : Nat) (w : Word) : (b.resultS p c w).clrS = b.clrS := rfl
@[simp] theorem Issue.resultS_jump (b : Issue) (p : SPort) (c : Nat) (w : Word) : (b.resultS p c w).jump = b.jump := rfl
@[simp] theorem Issue.resultS_wroteS63 (b : Issue) (p : SPort) (c : Nat) (w : Word) : (b.resultS p c w).wroteS63 = b.wroteS63 := rfl
@[simp] theorem Issue.resultS_isWait (b : Issue) (p : SPort) (c : Nat) (w : Word) : (b.resultS p c w).isWait = b.isWait := rfl
@[simp] theorem Issue.resultS_flagG (b : Issue) (p : SPort) (c : Nat) (w : Word) : (b.resultS p c w).flagG = b.flagG := rfl
@[simp] theorem Issue.resultS_wayp (b : Issue) (p : SPort) (c : Nat) (w : Word) : (b.resultS p c w).wayp = b.wayp := rfl
@[simp] theorem Issue.resultS_dualSet (b : Issue) (p : SPort) (c : Nat) (w : Word) : (b.resultS p c w).dualSet = b.dualSet := rfl
@[simp] theorem Issue.resultS_halt (b : Issue) (p : SPort) (c : Nat) (w : Word) : (b.resultS p c w).halt = b.halt := rfl
@[simp] theorem Issue.resultS_brk (b : Issue) (p : SPort) (c : Nat) (w : Word) : (b.resultS p c w).brk = b.brk := rfl
@[simp] theorem Issue.resultS_abort (b : Issue) (p : SPort) (c : Nat) (w : Word) : (b.resultS p c w).abort = b.abort := rfl
@[simp] theorem Issue.resultS_eaten (b : Issue) (p : SPort) (c : Nat) (w : Word) : (b.resultS p c w).eaten = b.eaten := rfl
@[simp] theorem Issue.resultS_popped (b : Issue) (p : SPort) (c : Nat) (w : Word) : (b.resultS p c w).popped = b.popped := rfl
@[simp] theorem Issue.resultS_pushed (b : Issue) (p : SPort) (c : Nat) (w : Word) : (b.resultS p c w).pushed = b.pushed := rfl
@[simp] theorem Issue.resultAt_trap (b : Issue) (p : VPort) (d q : Nat) (k : BitVec 64) (v : VVal) : (b.resultAt p d q k v).trap = b.trap := rfl
@[simp] theorem Issue.resultAt_priv (b : Issue) (p : VPort) (d q : Nat) (k : BitVec 64) (v : VVal) : (b.resultAt p d q k v).priv = b.priv := rfl
@[simp] theorem Issue.resultAt_stall (b : Issue) (p : VPort) (d q : Nat) (k : BitVec 64) (v : VVal) : (b.resultAt p d q k v).stall = b.stall := rfl
@[simp] theorem Issue.resultAt_freeze (b : Issue) (p : VPort) (d q : Nat) (k : BitVec 64) (v : VVal) : (b.resultAt p d q k v).freeze = b.freeze := rfl
@[simp] theorem Issue.resultAt_waitFor (b : Issue) (p : VPort) (d q : Nat) (k : BitVec 64) (v : VVal) : (b.resultAt p d q k v).waitFor = b.waitFor := rfl
@[simp] theorem Issue.resultAt_setF (b : Issue) (p : VPort) (d q : Nat) (k : BitVec 64) (v : VVal) : (b.resultAt p d q k v).setF = b.setF := rfl
@[simp] theorem Issue.resultAt_clrF (b : Issue) (p : VPort) (d q : Nat) (k : BitVec 64) (v : VVal) : (b.resultAt p d q k v).clrF = b.clrF := rfl
@[simp] theorem Issue.resultAt_setS (b : Issue) (p : VPort) (d q : Nat) (k : BitVec 64) (v : VVal) : (b.resultAt p d q k v).setS = b.setS := rfl
@[simp] theorem Issue.resultAt_clrS (b : Issue) (p : VPort) (d q : Nat) (k : BitVec 64) (v : VVal) : (b.resultAt p d q k v).clrS = b.clrS := rfl
@[simp] theorem Issue.resultAt_jump (b : Issue) (p : VPort) (d q : Nat) (k : BitVec 64) (v : VVal) : (b.resultAt p d q k v).jump = b.jump := rfl
@[simp] theorem Issue.resultAt_wroteS63 (b : Issue) (p : VPort) (d q : Nat) (k : BitVec 64) (v : VVal) : (b.resultAt p d q k v).wroteS63 = b.wroteS63 := rfl
@[simp] theorem Issue.resultAt_isWait (b : Issue) (p : VPort) (d q : Nat) (k : BitVec 64) (v : VVal) : (b.resultAt p d q k v).isWait = b.isWait := rfl
@[simp] theorem Issue.resultAt_flagG (b : Issue) (p : VPort) (d q : Nat) (k : BitVec 64) (v : VVal) : (b.resultAt p d q k v).flagG = b.flagG := rfl
@[simp] theorem Issue.resultAt_wayp (b : Issue) (p : VPort) (d q : Nat) (k : BitVec 64) (v : VVal) : (b.resultAt p d q k v).wayp = b.wayp := rfl
@[simp] theorem Issue.resultAt_dualSet (b : Issue) (p : VPort) (d q : Nat) (k : BitVec 64) (v : VVal) : (b.resultAt p d q k v).dualSet = b.dualSet := rfl
@[simp] theorem Issue.resultAt_halt (b : Issue) (p : VPort) (d q : Nat) (k : BitVec 64) (v : VVal) : (b.resultAt p d q k v).halt = b.halt := rfl
@[simp] theorem Issue.resultAt_brk (b : Issue) (p : VPort) (d q : Nat) (k : BitVec 64) (v : VVal) : (b.resultAt p d q k v).brk = b.brk := rfl
@[simp] theorem Issue.resultAt_abort (b : Issue) (p : VPort) (d q : Nat) (k : BitVec 64) (v : VVal) : (b.resultAt p d q k v).abort = b.abort := rfl
@[simp] theorem Issue.resultAt_eaten (b : Issue) (p : VPort) (d q : Nat) (k : BitVec 64) (v : VVal) : (b.resultAt p d q k v).eaten = b.eaten := rfl
@[simp] theorem Issue.resultAt_popped (b : Issue) (p : VPort) (d q : Nat) (k : BitVec 64) (v : VVal) : (b.resultAt p d q k v).popped = b.popped := rfl
@[simp] theorem Issue.resultAt_pushed (b : Issue) (p : VPort) (d q : Nat) (k : BitVec 64) (v : VVal) : (b.resultAt p d q k v).pushed = b.pushed := rfl
@[simp] theorem Issue.resultV_trap (b : Issue) (p : VPort) (c : Nat) (k : BitVec 64) (v : VVal) : (b.resultV p c k v).trap = b.trap := rfl
@[simp] theorem Issue.resultV_priv (b : Issue) (p : VPort) (c : Nat) (k : BitVec 64) (v : VVal) : (b.resultV p c k v).priv = b.priv := rfl
@[simp] theorem Issue.resultV_stall (b : Issue) (p : VPort) (c : Nat) (k : BitVec 64) (v : VVal) : (b.resultV p c k v).stall = b.stall := rfl
@[simp] theorem Issue.resultV_freeze (b : Issue) (p : VPort) (c : Nat) (k : BitVec 64) (v : VVal) : (b.resultV p c k v).freeze = b.freeze := rfl
@[simp] theorem Issue.resultV_waitFor (b : Issue) (p : VPort) (c : Nat) (k : BitVec 64) (v : VVal) : (b.resultV p c k v).waitFor = b.waitFor := rfl
@[simp] theorem Issue.resultV_setF (b : Issue) (p : VPort) (c : Nat) (k : BitVec 64) (v : VVal) : (b.resultV p c k v).setF = b.setF := rfl
@[simp] theorem Issue.resultV_clrF (b : Issue) (p : VPort) (c : Nat) (k : BitVec 64) (v : VVal) : (b.resultV p c k v).clrF = b.clrF := rfl
@[simp] theorem Issue.resultV_setS (b : Issue) (p : VPort) (c : Nat) (k : BitVec 64) (v : VVal) : (b.resultV p c k v).setS = b.setS := rfl
@[simp] theorem Issue.resultV_clrS (b : Issue) (p : VPort) (c : Nat) (k : BitVec 64) (v : VVal) : (b.resultV p c k v).clrS = b.clrS := rfl
@[simp] theorem Issue.resultV_jump (b : Issue) (p : VPort) (c : Nat) (k : BitVec 64) (v : VVal) : (b.resultV p c k v).jump = b.jump := rfl
@[simp] theorem Issue.resultV_wroteS63 (b : Issue) (p : VPort) (c : Nat) (k : BitVec 64) (v : VVal) : (b.resultV p c k v).wroteS63 = b.wroteS63 := rfl
@[simp] theorem Issue.resultV_isWait (b : Issue) (p : VPort) (c : Nat) (k : BitVec 64) (v : VVal) : (b.resultV p c k v).isWait = b.isWait := rfl
@[simp] theorem Issue.resultV_flagG (b : Issue) (p : VPort) (c : Nat) (k : BitVec 64) (v : VVal) : (b.resultV p c k v).flagG = b.flagG := rfl
@[simp] theorem Issue.resultV_wayp (b : Issue) (p : VPort) (c : Nat) (k : BitVec 64) (v : VVal) : (b.resultV p c k v).wayp = b.wayp := rfl
@[simp] theorem Issue.resultV_dualSet (b : Issue) (p : VPort) (c : Nat) (k : BitVec 64) (v : VVal) : (b.resultV p c k v).dualSet = b.dualSet := rfl
@[simp] theorem Issue.resultV_halt (b : Issue) (p : VPort) (c : Nat) (k : BitVec 64) (v : VVal) : (b.resultV p c k v).halt = b.halt := rfl
@[simp] theorem Issue.resultV_brk (b : Issue) (p : VPort) (c : Nat) (k : BitVec 64) (v : VVal) : (b.resultV p c k v).brk = b.brk := rfl
@[simp] theorem Issue.resultV_abort (b : Issue) (p : VPort) (c : Nat) (k : BitVec 64) (v : VVal) : (b.resultV p c k v).abort = b.abort := rfl
@[simp] theorem Issue.resultV_eaten (b : Issue) (p : VPort) (c : Nat) (k : BitVec 64) (v : VVal) : (b.resultV p c k v).eaten = b.eaten := rfl
@[simp] theorem Issue.resultV_popped (b : Issue) (p : VPort) (c : Nat) (k : BitVec 64) (v : VVal) : (b.resultV p c k v).popped = b.popped := rfl
@[simp] theorem Issue.resultV_pushed (b : Issue) (p : VPort) (c : Nat) (k : BitVec 64) (v : VVal) : (b.resultV p c k v).pushed = b.pushed := rfl
@[simp] theorem Issue.lost_false (b : Issue) : b.lost false = b := by simp [Issue.lost, Issue.status]

end Sys2Proof.Machine
end

