-- ==== Sys2Proof/Laws/Exec.lean ====
section
/-! SUPPORT. How a slot's meaning and a bundle come from `exec`: a checked slot runs the instruction it decodes to, and what a move and a
trigger come to when their guard is false, when their source fails and when they fire. -/

namespace Sys2Proof.Machine

/-! ### A checked slot runs the instruction it decodes to -/

/-- What `exec` does with a row, as a function of guard, source and state. -/
def ofRow (f : Grd → Src → Instr) : Meaning := fun g src s => exec (f g src) s

theorem seqRuns_eq : seqRuns = seqOps.map ofRow := rfl
theorem sysRuns_eq : sysRuns = sysOps.map ofRow := rfl
theorem saRuns_eq : saRuns = saOps.map ofRow := rfl
theorem lsRuns_eq : lsRuns = lsOps.map ofRow := rfl
theorem faRuns_eq : faRuns = faOps.map ofRow := rfl
theorem sfRuns_eq : sfRuns = sfOps.map ofRow := rfl
theorem vmRuns_eq : vmRuns = vmOps.map ofRow := rfl
theorem mxRuns_eq : mxRuns = mxOps.map ofRow := rfl
theorem xfRuns_eq : xfRuns = xfOps.map ofRow := rfl
theorem enRuns_eq : enRuns = enOps.map ofRow := rfl
theorem amRuns_eq : amRuns = amOps.map ofRow := rfl

/-- The meaning of a trigger id is what `exec` does with its row. -/
theorem trigRun_eq (id : Nat) : trigRun id = (trigOfId id).map ofRow := by
  simp only [trigRun, trigOfId, seqRuns_eq, sysRuns_eq, saRuns_eq, lsRuns_eq, faRuns_eq, sfRuns_eq, vmRuns_eq, mxRuns_eq, xfRuns_eq,
    enRuns_eq, amRuns_eq, List.getElem?_map]
  repeat' split
  all_goals rfl

/-- A checked slot does what `exec` does with the instruction it decodes to. -/
theorem runRaw_eq (r : Raw) (s : State) : runRaw r s = match r.instr with | some i => exec i s | none => .next s := by
  cases r with
  | empty n => rfl
  | move dest g src =>
    simp only [runRaw, Raw.instr, trigRun_eq]
    by_cases h : 0x200 ≤ dest
    · simp only [h, if_true]
      cases trigOfId dest <;> rfl
    · simp only [h, if_false]
      split
      · rfl
      · split
        · rfl
        · split
          · rfl
          · split
            · rfl
            · split
              · rfl
              · cases dstOfId dest with
                | none => rfl
                | some d => cases src <;> rfl

/-! ### What a move and a trigger come to -/

/-- A cancelled move does nothing. -/
theorem guarded_cancelled {pre : Mach} {b : Issue} {g : Grd} (src : Src) (k : Val → BitVec 64 → Issue → Issue)
    (h : guardMask pre b.isWait g = 0) : guarded pre b g src k = b := by simp [guarded, h]
/-- A move whose source traps. -/
theorem guarded_trap {pre : Mach} {b : Issue} {g : Grd} {src : Src} {c : Nat} (k : Val → BitVec 64 → Issue → Issue)
    (h : guardMask pre b.isWait g ≠ 0) (hr : pre.read src = .trap c) : guarded pre b g src k = b.trapAt g.slot.val c := by
  simp only [guarded]; rw [if_neg h, hr]
/-- A move whose source has no value yet. -/
theorem guarded_stall {pre : Mach} {b : Issue} {g : Grd} {src : Src} {w : Hold} (k : Val → BitVec 64 → Issue → Issue)
    (h : guardMask pre b.isWait g ≠ 0) (hr : pre.read src = .stall w) : guarded pre b g src k = b.stallBy w := by
  simp only [guarded]; rw [if_neg h, hr]
/-- A move that its guard lets through, with its source's value. -/
theorem guarded_ok {pre : Mach} {b : Issue} {g : Grd} {src : Src} {v : Val} (k : Val → BitVec 64 → Issue → Issue)
    (h : guardMask pre b.isWait g ≠ 0) (hr : pre.read src = .ok v) :
    guarded pre b g src k = k v (guardMask pre b.isWait g) (b.popSpool src) := by
  simp only [guarded]; rw [if_neg h, hr]

/-- A trigger that fires: its operation sees the latches with its value in the last one. -/
theorem trigger_ok {pre : Mach} {b : Issue} {g : Grd} {src : Src} {v : Val} (u : FU) (nops : Nat) (op : Ctx → Issue → Issue)
    (h : guardMask pre b.isWait g ≠ 0) (hr : pre.read src = .ok v) :
    trigger pre b g src u nops op = op ⟨pre, g.slot.val, u, guardMask pre b.isWait g, v⟩ (b.latched src u nops v) := by
  rw [trigger, guarded_ok _ h hr]; rfl
/-- A trigger that its guard cancels. -/
theorem trigger_cancelled {pre : Mach} {b : Issue} {g : Grd} (src : Src) (u : FU) (nops : Nat) (op : Ctx → Issue → Issue)
    (h : guardMask pre b.isWait g = 0) : trigger pre b g src u nops op = b := guarded_cancelled _ _ h
/-- A trigger whose source traps. -/
theorem trigger_trap {pre : Mach} {b : Issue} {g : Grd} {src : Src} {c : Nat} (u : FU) (nops : Nat) (op : Ctx → Issue → Issue)
    (h : guardMask pre b.isWait g ≠ 0) (hr : pre.read src = .trap c) : trigger pre b g src u nops op = b.trapAt g.slot.val c :=
  guarded_trap _ h hr

/-- Within a bundle a slot's meaning adds to the bundle in progress. -/
theorem slot_some {s : State} {b : Issue} (f : Mach → Issue → Issue) (h : s.issue = some b) :
    slot f s = .next { s with issue := some (f s.m b) } := by simp [slot, h]
/-- Alone it is a bundle of its own. -/
theorem slot_none {s : State} (f : Mach → Issue → Issue) (h : s.issue = none) :
    slot f s = .next { s with m := (f s.m s.m.start).finish s.m } := by simp [slot, h]

end Sys2Proof.Machine
end

