-- ==== Sys2Proof/Laws/Links.lean ====
section
/-! SUPPORT. Packets that leave over Twine: all that sending, posting and replaying them can do to the device (R15, R384, R385). -/

namespace Sys2Proof.Machine

/-- Ports that run on the same lanes, that retrain alike and that wait for the same flit. -/
def Port.alike (p q : Port) : Prop := p.lanes = q.lanes ∧ p.retrain = q.retrain ∧ p.badOnce = q.badOnce ∧ p.sbad = q.sbad ∧ p.rseq = q.rseq
theorem Port.alike.refl (p : Port) : p.alike p := ⟨rfl, rfl, rfl, rfl, rfl⟩
theorem Port.alike.trans {p q r : Port} (h : p.alike q) (k : q.alike r) : p.alike r :=
  ⟨h.1.trans k.1, h.2.1.trans k.2.1, h.2.2.1.trans k.2.2.1, h.2.2.2.1.trans k.2.2.2.1, h.2.2.2.2.trans k.2.2.2.2⟩

/-- What leaves is the last of the outbox, and of the rest only the free counter and what the ports wait to have acknowledged may change. -/
theorem Dev.leave_frame (d : Dev) (ports : List Nat) (die dev : Nat) (pkt : TPkt) :
    ∃ (f : Nat) (ps : Vector Port 30), d.leave ports die dev pkt =
      { d with free := f, ports := ps, outbox := d.outbox ++ [⟨dev, die, nth d.egen die, d.acyc, 0, pkt⟩] } ∧ ∀ q, (nth ps q).alike (nth d.ports q) := by
  unfold Dev.leave Dev.choose
  simp only
  split
  · exact ⟨_, d.ports, rfl, fun q => .refl _⟩
  · refine ⟨_, _, rfl, fun q => ?_⟩
    rw [nth_setNth]
    split
    · rename_i h
      simp only [nth, h]
      exact ⟨rfl, rfl, rfl, rfl, rfl⟩
    · exact ⟨rfl, rfl, rfl, rfl, rfl⟩

/-- All that sending may do: the packet leaves, or nothing happens. -/
theorem Dev.send_frame {d e : Dev} {die dev : Nat} {pkt : TPkt} (h : d.send die dev pkt = some e) :
    ∃ (f : Nat) (ps : Vector Port 30), e = { d with free := f, ports := ps, outbox := d.outbox ++ [⟨dev, die, nth d.egen die, d.acyc, 0, pkt⟩] } ∧
      ∀ q, (nth ps q).alike (nth d.ports q) := by
  unfold Dev.send at h
  simp only at h
  split at h
  · cases h
  · obtain ⟨f, ps, he, hp⟩ := d.leave_frame _ die dev pkt
    exact ⟨f, ps, (Option.some.inj h).symm.trans he, hp⟩

/-- All that posting may do: the packet leaves, or waits behind the others. -/
theorem Dev.post_frame (d : Dev) (die dev : Nat) (pkt : TPkt) :
    d.post die dev pkt = { d with waitOut := d.waitOut ++ [(die, dev, pkt)] } ∨
      (d.waitOut = [] ∧ d.send die dev pkt = some (d.post die dev pkt)) := by
  unfold Dev.post
  simp only
  split
  · rename_i h
    cases hs : d.send die dev pkt with
    | none => exact .inl rfl
    | some e => exact .inr ⟨List.isEmpty_iff.mp h, rfl⟩
  · exact .inl rfl

/-- All that the leaving of waiting packets may do: the first of them leave, in order, and the others wait. -/
theorem Dev.flush_frame (xs : List (Nat × Nat × TPkt)) (d : Dev) :
    ∃ (f : Nat) (ps : Vector Port 30) (more : List Sent) (left : List (Nat × Nat × TPkt)),
      d.flush xs = { d with free := f, ports := ps, outbox := d.outbox ++ more, waitOut := left } ∧
        more.length + left.length = xs.length ∧ ∀ q, (nth ps q).alike (nth d.ports q) := by
  induction xs generalizing d with
  | nil => exact ⟨d.free, d.ports, [], [], by simp [Dev.flush], rfl, fun q => .refl _⟩
  | cons x xs ih =>
    unfold Dev.flush
    split
    · rename_i e h
      obtain ⟨f, ps, rfl, hp⟩ := Dev.send_frame h
      obtain ⟨f2, ps2, more, left, he, hl, hq⟩ := ih { d with free := f, ports := ps, outbox := _ }
      refine ⟨f2, ps2, ⟨x.2.1, x.1, nth d.egen x.1, d.acyc, 0, x.2.2⟩ :: more, left, he.trans (by simp), ?_, fun q => (hq q).trans (hp q)⟩
      simp only [List.length_cons]; omega
    · exact ⟨d.free, d.ports, [], x :: xs, by simp, by simp, fun q => .refl _⟩

/-- A packet as it leaves once more: with its age, or as idle flits when it is dropped. -/
def Dev.again (d : Dev) (s : Sent) : Sent := if d.drops s = true then { s with pkt := .idle } else { s with age := d.sentAge s }

/-- All that a replay does: the packets leave once more, in order; those that are dropped are counted and idle from then on. -/
theorem Dev.replay_frame (port : Nat) (us : List (BitVec 12 × Nat × Sent)) (d : Dev) :
    ∃ (ps : Vector Port 30) (c : Vector (Vector (BitVec 32) 13) 4) (n : Vector (Vector (Nat × Nat) 13) 4),
      d.replay port us = { d with ports := ps, cnt := c, cntNow := n, outbox := d.outbox ++ us.map fun u => d.again u.2.2 } ∧
        ∀ q, (nth ps q).alike (nth d.ports q) := by
  induction us generalizing d with
  | nil => exact ⟨d.ports, d.cnt, d.cntNow, by simp [Dev.replay], fun q => .refl _⟩
  | cons u us ih =>
    have hs : d.replay port (u :: us) = (if d.drops u.2.2 then
        ({ d.setPort port { nth d.ports port with unack := (nth d.ports port).unack.map fun v => if v = u then (u.1, u.2.1, { u.2.2 with pkt := .idle }) else v } with
          outbox := d.outbox ++ [{ u.2.2 with pkt := .idle }] } : Dev).count (portDie port) 9
      else { d with outbox := d.outbox ++ [{ u.2.2 with age := d.sentAge u.2.2 }] }).replay port us := rfl
    by_cases hd : d.drops u.2.2 = true
    · have ha : d.again u.2.2 = { u.2.2 with pkt := .idle } := if_pos hd
      rw [hs, if_pos hd, List.map_cons, ha]
      obtain ⟨ps, c, n, he, hp⟩ := ih (Dev.count { d.setPort port
          { nth d.ports port with unack := (nth d.ports port).unack.map fun v => if v = u then (u.1, u.2.1, { u.2.2 with pkt := .idle }) else v } with
            outbox := d.outbox ++ [{ u.2.2 with pkt := .idle }] } (portDie port) 9)
      refine ⟨ps, c, n, Eq.trans he ?_, fun q => (hp q).trans ?_⟩
      · simp only [Dev.count, Dev.setPort, List.append_assoc, List.singleton_append]
        rfl
      · simp only [Dev.count, Dev.setPort, nth_setNth]
        split
        · rename_i h
          simp only [nth, h]
          exact ⟨rfl, rfl, rfl, rfl, rfl⟩
        · exact .refl _
    · have ha : d.again u.2.2 = { u.2.2 with age := d.sentAge u.2.2 } := if_neg hd
      rw [hs, if_neg hd, List.map_cons, ha]
      obtain ⟨ps, c, n, he, hp⟩ := ih { d with outbox := d.outbox ++ [{ u.2.2 with age := d.sentAge u.2.2 }] }
      refine ⟨ps, c, n, Eq.trans he ?_, hp⟩
      simp only [List.append_assoc, List.singleton_append]
      rfl

end Sys2Proof.Machine
end

