-- ==== Sys2Proof/Laws/Moves.lean ====
section
/-! SUPPORT. What a spool port, an injection and a trigger's latch leave as they were. -/

namespace Sys2Proof.Machine

/-- Two changes of the acting stream are one. -/
theorem Mach.modSt_modSt (m : Mach) (f g : Strm → Strm) : (m.modSt f).modSt g = m.modSt fun x => g (f x) := by
  cases hc : m.cur <;> cases hp : m.thr0.paired <;>
    simp [Mach.modSt, Mach.modT, Mach.setT, Mach.t, Mach.onT0, Mach.isSec, Thr.setStrm, Thr.strm, hc, hp]

/-! ### Firing an injection (R383) changes poison, the injection registers and the device's records alone -/

/-- The acting thread after a scratchpad probe: only its poisoned granules can differ. -/
theorem Mach.probeSpad_t (m : Mach) (gs : List Nat) : ∃ p, (m.probeSpad gs).t = { m.t with spadPoison := p } := by
  unfold Mach.probeSpad
  split
  · unfold Mach.fireSpad
    split
    · exact ⟨m.t.spadPoison, rfl⟩
    · exact ⟨m.t.spadPoison, rfl⟩
    · rename_i e _ _ _ _
      refine ⟨insertNat e.1 m.t.spadPoison, ?_⟩
      rw [Mach.t_modT _ _ rfl]
      rfl
  · exact ⟨m.t.spadPoison, rfl⟩
/-- A scratchpad probe keeps which place acts and which stream. -/
@[simp] theorem Mach.probeSpad_cur (m : Mach) (gs : List Nat) : (m.probeSpad gs).cur = m.cur := by
  unfold Mach.probeSpad
  split
  · unfold Mach.fireSpad; split <;> simp
  · rfl
@[simp] theorem Mach.probeSpad_isSec (m : Mach) (gs : List Nat) : (m.probeSpad gs).isSec = m.isSec := by
  unfold Mach.probeSpad
  split
  · unfold Mach.fireSpad
    split
    · rfl
    · rfl
    · exact Mach.isSec_modT _ _ rfl
  · rfl
/-- A scratchpad probe changes no byte of any memory. -/
theorem Dev.record_mem (d : Dev) (die : Nat) (r : Rec0) : (d.record die r).mem = d.mem ∧ (d.record die r).csram = d.csram ∧
    (d.record die r).ckHbm = d.ckHbm ∧ (d.record die r).ckSafe = d.ckSafe := by
  unfold Dev.record
  simp only []
  split <;> exact ⟨rfl, rfl, rfl, rfl⟩

/-! ### A spool read port (R73, R275) -/

/-- The acting thread after a source was read: only the spools and the poisoned granules can differ. -/
theorem Issue.popSpool_t (b : Issue) (src : Src) :
    ∃ sp p, (b.popSpool src).now.t = { b.now.t with spools := sp, spadPoison := p } := by
  unfold Issue.popSpool
  split
  · split
    · exact ⟨b.now.t.spools, b.now.t.spadPoison, rfl⟩
    · next n _ =>
      obtain ⟨p, hp⟩ := b.now.probeSpad_t (unitsOf ((nth b.now.t.spools n.val).slotOff (nth b.now.t.spools n.val).rpos) 256 16)
      refine ⟨setNth b.now.t.spools n.val { nth b.now.t.spools n.val with rpos := (nth b.now.t.spools n.val).rpos + 1 }, p, ?_⟩
      simp only [Issue.modT_now]
      rw [Mach.t_modT _ _ rfl, hp]
  · exact ⟨b.now.t.spools, b.now.t.spadPoison, rfl⟩
@[simp] theorem Issue.popSpool_isSec (b : Issue) (src : Src) : (b.popSpool src).now.isSec = b.now.isSec := by
  unfold Issue.popSpool
  split
  · split
    · rfl
    · simp only [Issue.modT_now]
      rw [Mach.isSec_modT _ _ rfl, Mach.probeSpad_isSec]
  · rfl
/-- The acting stream is as it was. -/
@[simp] theorem Issue.popSpool_st (b : Issue) (src : Src) : (b.popSpool src).now.st = b.now.st := by
  obtain ⟨sp, p, h⟩ := b.popSpool_t src
  simp only [Mach.st, h, Issue.popSpool_isSec]
  rfl
@[simp] theorem Issue.popSpool_sl (b : Issue) (src : Src) (u : FU) (j : Nat) : (b.popSpool src).sl u j = b.sl u j := by
  simp [Issue.sl]
@[simp] theorem Issue.popSpool_vl (b : Issue) (src : Src) (u : FU) (j : Nat) : (b.popSpool src).vl u j = b.vl u j := by
  simp [Issue.vl]

/-! ### A trigger's latch (R73 step 3) -/

@[simp] theorem Issue.sl_setSl (b : Issue) (u : FU) (i j : Nat) (w : Word) :
    (b.setSl u i w).sl u j = if i % 3 = j % 3 then w else b.sl u j := by
  simp [Issue.sl, Issue.setSl, nth_setNth]
@[simp] theorem Issue.vl_setVl (b : Issue) (u : FU) (i j : Nat) (v : VVal) :
    (b.setVl u i v).vl u j = if i % 3 = j % 3 then v else b.vl u j := by
  simp [Issue.vl, Issue.setVl, nth_setNth]
@[simp] theorem Issue.sl_setLsrc (b : Issue) (u w : FU) (i j : Nat) (x : Src) (k : BitVec 64) :
    (b.setLsrc u i x k).sl w j = b.sl w j := by simp [Issue.sl, Issue.setLsrc]
@[simp] theorem Issue.vl_setLsrc (b : Issue) (u w : FU) (i j : Nat) (x : Src) (k : BitVec 64) :
    (b.setLsrc u i x k).vl w j = b.vl w j := by simp [Issue.vl, Issue.setLsrc]
/-- A scalar unit's operands once its trigger's value stands in its latch. -/
theorem Issue.sl_latched (b : Issue) (src : Src) (u : FU) (n j : Nat) (v : Val) (hu : u.scalar = true) (hn : n ≤ 3) (hj : j < 3) :
    (b.latched src u n v).sl u j = b.arg u n j v := by
  unfold Issue.latched Issue.arg
  split
  · next h => subst h; simp
  · simp only [Issue.sl_setLsrc, Issue.sl_setSl, Issue.popSpool_sl]
    split <;> split <;> first | rfl | omega
/-- A vector unit's operands once its trigger's value stands in its latch. -/
theorem Issue.vl_latched (b : Issue) (src : Src) (u : FU) (n j : Nat) (v : Val) (hu : u.scalar = false) (hn : n ≤ 3) (hj : j < 3) :
    (b.latched src u n v).vl u j = b.argV u n j v := by
  unfold Issue.latched Issue.argV
  split
  · next h => subst h; simp
  · simp only [hu, Bool.false_eq_true, if_false, Issue.vl_setLsrc, Issue.vl_setVl, Issue.popSpool_vl]
    split <;> split <;> first | rfl | omega

/-- A trigger that fires, with its operands latched. -/
theorem slot_fires {s : State} {b : Issue} {g : Grd} {src : Src} {mask : BitVec 64} {v : Val} (h : Fires s b g src mask v) (u : FU) (n : Nat)
    (op : Ctx → Issue → Issue) :
    slot (fun pre b => trigger pre b g src u n op) s =
      .next { s with issue := some (op ⟨s.m, g.slot.val, u, mask, v⟩ (b.latched src u n v)) } := by
  obtain ⟨hb, hg, hm, hv⟩ := h
  rw [slot_some _ hb, trigger_ok _ _ _ (hg ▸ hm) hv, hg]
/-- A plain move that fires. -/
theorem slot_moves {s : State} {b : Issue} {g : Grd} {src : Src} {mask : BitVec 64} {v : Val} (h : Fires s b g src mask v)
    (k : Val → BitVec 64 → Issue → Issue) :
    slot (fun pre b => guarded pre b g src k) s = .next { s with issue := some (k v mask (b.popSpool src)) } := by
  obtain ⟨hb, hg, hm, hv⟩ := h
  rw [slot_some _ hb, guarded_ok _ (hg ▸ hm) hv, hg]

end Sys2Proof.Machine
end

