-- ==== Sys2Proof/Laws/PerInstr.lean ====
section
/-! SUPPORT. One lemma per instruction: its trigger id, guard and source read back as the instruction (R68, Table 4-5). -/

namespace Sys2Proof.Laws.TrigIds

/-- The row that a trigger's id names is the trigger's own. -/
def Statement (i : Instr) : Prop := ∀ (d : Nat) (g : Grd) (s : Src), i.trig = some (d, g, s) → (trigOfId d).map (fun f => f g s) = some i

theorem packageReset : Statement .packageReset := by rintro d h s ⟨⟩
theorem supplyLoss : Statement .supplyLoss := by rintro d h s ⟨⟩
theorem powerCapThrottle x0 : Statement (.powerCapThrottle x0) := by rintro d h s ⟨⟩
theorem currentLimit x0 : Statement (.currentLimit x0) := by rintro d h s ⟨⟩
theorem thermalTrip x0 : Statement (.thermalTrip x0) := by rintro d h s ⟨⟩
theorem thermalRelease x0 : Statement (.thermalRelease x0) := by rintro d h s ⟨⟩
theorem thermalShutdown x0 : Statement (.thermalShutdown x0) := by rintro d h s ⟨⟩
theorem timeServiceAdjust x0 : Statement (.timeServiceAdjust x0) := by rintro d h s ⟨⟩
theorem widxWrite x0 x1 : Statement (.widxWrite x0 x1) := by rintro d h s ⟨⟩
theorem laneReset x0 : Statement (.laneReset x0) := by rintro d h s ⟨⟩
theorem laneEntryRead x0 : Statement (.laneEntryRead x0) := by rintro d h s ⟨⟩
theorem laneEntryStart x0 : Statement (.laneEntryStart x0) := by rintro d h s ⟨⟩
theorem dependencePoll x0 : Statement (.dependencePoll x0) := by rintro d h s ⟨⟩
theorem launchQueueAdmit x0 : Statement (.launchQueueAdmit x0) := by rintro d h s ⟨⟩
theorem threadPlacement : Statement .threadPlacement := by rintro d h s ⟨⟩
theorem poolReconfigureDone : Statement .poolReconfigureDone := by rintro d h s ⟨⟩
theorem quantumBoundary : Statement .quantumBoundary := by rintro d h s ⟨⟩
theorem ageingPromotion x0 : Statement (.ageingPromotion x0) := by rintro d h s ⟨⟩
theorem contextSave x0 : Statement (.contextSave x0) := by rintro d h s ⟨⟩
theorem savefail x0 : Statement (.savefail x0) := by rintro d h s ⟨⟩
theorem contextRestore x0 : Statement (.contextRestore x0) := by rintro d h s ⟨⟩
theorem nowaypoint x0 : Statement (.nowaypoint x0) := by rintro d h s ⟨⟩
theorem threadEnd x0 : Statement (.threadEnd x0) := by rintro d h s ⟨⟩
theorem launchCompletion x0 : Statement (.launchCompletion x0) := by rintro d h s ⟨⟩
theorem resultDelivery x0 : Statement (.resultDelivery x0) := by rintro d h s ⟨⟩
theorem tileOperationComplete x0 : Statement (.tileOperationComplete x0) := by rintro d h s ⟨⟩
theorem stalledBundleIssue x0 : Statement (.stalledBundleIssue x0) := by rintro d h s ⟨⟩
theorem waitRelease x0 : Statement (.waitRelease x0) := by rintro d h s ⟨⟩
theorem landingDataArrival x0 x1 : Statement (.landingDataArrival x0 x1) := by rintro d h s ⟨⟩
theorem landingDue x0 : Statement (.landingDue x0) := by rintro d h s ⟨⟩
theorem monitorFire x0 : Statement (.monitorFire x0) := by rintro d h s ⟨⟩
theorem monitorPoll x0 : Statement (.monitorPoll x0) := by rintro d h s ⟨⟩
theorem homeOperationPerform x0 : Statement (.homeOperationPerform x0) := by rintro d h s ⟨⟩
theorem replicaInvalidate x0 : Statement (.replicaInvalidate x0) := by rintro d h s ⟨⟩
theorem engineCommandStart x0 : Statement (.engineCommandStart x0) := by rintro d h s ⟨⟩
theorem engineSegmentComplete x0 x1 x2 : Statement (.engineSegmentComplete x0 x1 x2) := by rintro d h s ⟨⟩
theorem bindPoll x0 : Statement (.bindPoll x0) := by rintro d h s ⟨⟩
theorem engineRetry x0 x1 : Statement (.engineRetry x0 x1) := by rintro d h s ⟨⟩
theorem segmentResend x0 x1 x2 : Statement (.segmentResend x0 x1 x2) := by rintro d h s ⟨⟩
theorem winderFill x0 x1 : Statement (.winderFill x0 x1) := by rintro d h s ⟨⟩
theorem winderDrain x0 x1 : Statement (.winderDrain x0 x1) := by rintro d h s ⟨⟩
theorem xchgRowArrival x0 x1 x2 : Statement (.xchgRowArrival x0 x1 x2) := by rintro d h s ⟨⟩
theorem xchgLaybyReplay : Statement .xchgLaybyReplay := by rintro d h s ⟨⟩
theorem collInstanceArm x0 : Statement (.collInstanceArm x0) := by rintro d h s ⟨⟩
theorem collComplete x0 : Statement (.collComplete x0) := by rintro d h s ⟨⟩
theorem pageResident x0 x1 x2 : Statement (.pageResident x0 x1 x2) := by rintro d h s ⟨⟩
theorem pageDecline x0 x1 : Statement (.pageDecline x0 x1) := by rintro d h s ⟨⟩
theorem pageWaitTimeout x0 x1 : Statement (.pageWaitTimeout x0 x1) := by rintro d h s ⟨⟩
theorem pageMigration x0 x1 x2 : Statement (.pageMigration x0 x1 x2) := by rintro d h s ⟨⟩
theorem ivqCommandExecute x0 : Statement (.ivqCommandExecute x0) := by rintro d h s ⟨⟩
theorem xlatec x0 : Statement (.xlatec x0) := by rintro d h s ⟨⟩
theorem unwind x0 : Statement (.unwind x0) := by rintro d h s ⟨⟩
theorem correctedError x0 x1 : Statement (.correctedError x0 x1) := by rintro d h s ⟨⟩
theorem errorRetry x0 x1 x2 x3 : Statement (.errorRetry x0 x1 x2 x3) := by rintro d h s ⟨⟩
theorem partRetirement x0 x1 x2 : Statement (.partRetirement x0 x1 x2) := by rintro d h s ⟨⟩
theorem coreRetirement : Statement .coreRetirement := by rintro d h s ⟨⟩
theorem flitReceive x0 x1 x2 x3 : Statement (.flitReceive x0 x1 x2 x3) := by rintro d h s ⟨⟩
theorem requestTimeout x0 : Statement (.requestTimeout x0) := by rintro d h s ⟨⟩
theorem dieDrop x0 : Statement (.dieDrop x0) := by rintro d h s ⟨⟩
theorem checkpoint x0 : Statement (.checkpoint x0) := by rintro d h s ⟨⟩
theorem firmwareUpdate x0 : Statement (.firmwareUpdate x0) := by rintro d h s ⟨⟩
theorem attestationRequest x0 x1 : Statement (.attestationRequest x0 x1) := by rintro d h s ⟨⟩
theorem attestationReport : Statement .attestationReport := by rintro d h s ⟨⟩
theorem counterClear x0 x1 : Statement (.counterClear x0 x1) := by rintro d h s ⟨⟩
theorem pcapWrite x0 x1 : Statement (.pcapWrite x0 x1) := by rintro d h s ⟨⟩
theorem mgmtRegisterWrite x0 x1 x2 x3 : Statement (.mgmtRegisterWrite x0 x1 x2 x3) := by rintro d h s ⟨⟩
theorem breakpointHalt x0 : Statement (.breakpointHalt x0) := by rintro d h s ⟨⟩
theorem debugResume : Statement .debugResume := by rintro d h s ⟨⟩
theorem debugStep x0 x1 : Statement (.debugStep x0 x1) := by rintro d h s ⟨⟩
theorem debuggerRegisterWrite x0 x1 x2 x3 : Statement (.debuggerRegisterWrite x0 x1 x2 x3) := by rintro d h s ⟨⟩
theorem latchWrite x0 x1 x2 x3 x4 : Statement (.latchWrite x0 x1 x2 x3 x4) := by rintro d h s ⟨⟩
theorem latchFlush x0 : Statement (.latchFlush x0) := by rintro d h s ⟨⟩
theorem xchgAcknowledgement x0 x1 x2 : Statement (.xchgAcknowledgement x0 x1 x2) := by rintro d h s ⟨⟩
theorem linkTrained x0 x1 : Statement (.linkTrained x0 x1) := by rintro d h s ⟨⟩
theorem lineFillComplete x0 : Statement (.lineFillComplete x0) := by rintro d h s ⟨⟩
theorem lsOccupancyEnd : Statement .lsOccupancyEnd := by rintro d h s ⟨⟩
theorem launchQueueDeparture x0 : Statement (.launchQueueDeparture x0) := by rintro d h s ⟨⟩
theorem svnRaise x0 : Statement (.svnRaise x0) := by rintro d h s ⟨⟩
theorem nop x0 : Statement (.nop x0) := by rintro d h s ⟨⟩
theorem move x0 x1 x2 : Statement (.move x0 x1 x2) := by rintro d h s ⟨⟩
theorem spoolRead x0 x1 x2 : Statement (.spoolRead x0 x1 x2) := by rintro d h s ⟨⟩
theorem spoolWrite x0 x1 x2 : Statement (.spoolWrite x0 x1 x2) := by rintro d h s ⟨⟩
theorem writeTscale x0 x1 : Statement (.writeTscale x0 x1) := by rintro d h s ⟨⟩
theorem writeMpc x0 x1 : Statement (.writeMpc x0 x1) := by rintro d h s ⟨⟩
theorem writeStat x0 x1 : Statement (.writeStat x0 x1) := by rintro d h s ⟨⟩
theorem writeErrinjCtl x0 x1 : Statement (.writeErrinjCtl x0 x1) := by rintro d h s ⟨⟩
theorem br (g : Grd) (src : Src) : Statement (.br g src) := by rintro d h s ⟨⟩; rfl
theorem brc (g : Grd) (src : Src) : Statement (.brc g src) := by rintro d h s ⟨⟩; rfl
theorem brx (g : Grd) (src : Src) : Statement (.brx g src) := by rintro d h s ⟨⟩; rfl
theorem call (g : Grd) (src : Src) : Statement (.call g src) := by rintro d h s ⟨⟩; rfl
theorem callx (g : Grd) (src : Src) : Statement (.callx g src) := by rintro d h s ⟨⟩; rfl
theorem ret (g : Grd) (src : Src) : Statement (.ret g src) := by rintro d h s ⟨⟩; rfl
theorem loop (g : Grd) (src : Src) : Statement (.loop g src) := by rintro d h s ⟨⟩; rfl
theorem lend (g : Grd) (src : Src) : Statement (.lend g src) := by rintro d h s ⟨⟩; rfl
theorem lbrk (g : Grd) (src : Src) : Statement (.lbrk g src) := by rintro d h s ⟨⟩; rfl
theorem wait (g : Grd) (src : Src) : Statement (.wait g src) := by rintro d h s ⟨⟩; rfl
theorem waita (g : Grd) (src : Src) : Statement (.waita g src) := by rintro d h s ⟨⟩; rfl
theorem yield (g : Grd) (src : Src) : Statement (.yield g src) := by rintro d h s ⟨⟩; rfl
theorem halt (g : Grd) (src : Src) : Statement (.halt g src) := by rintro d h s ⟨⟩; rfl
theorem trap (g : Grd) (src : Src) : Statement (.trap g src) := by rintro d h s ⟨⟩; rfl
theorem dual (g : Grd) (src : Src) : Statement (.dual g src) := by rintro d h s ⟨⟩; rfl
theorem fmtw (g : Grd) (src : Src) : Statement (.fmtw g src) := by rintro d h s ⟨⟩; rfl
theorem ntreq (g : Grd) (src : Src) : Statement (.ntreq g src) := by rintro d h s ⟨⟩; rfl
theorem launch (g : Grd) (src : Src) : Statement (.launch g src) := by rintro d h s ⟨⟩; rfl
theorem launchw (g : Grd) (src : Src) : Statement (.launchw g src) := by rintro d h s ⟨⟩; rfl
theorem secgo (g : Grd) (src : Src) : Statement (.secgo g src) := by rintro d h s ⟨⟩; rfl
theorem secstop (g : Grd) (src : Src) : Statement (.secstop g src) := by rintro d h s ⟨⟩; rfl
theorem fset (g : Grd) (src : Src) : Statement (.fset g src) := by rintro d h s ⟨⟩; rfl
theorem fclr (g : Grd) (src : Src) : Statement (.fclr g src) := by rintro d h s ⟨⟩; rfl
theorem skjoin (g : Grd) (src : Src) : Statement (.skjoin g src) := by rintro d h s ⟨⟩; rfl
theorem skleave (g : Grd) (src : Src) : Statement (.skleave g src) := by rintro d h s ⟨⟩; rfl
theorem cropen (g : Grd) (src : Src) : Statement (.cropen g src) := by rintro d h s ⟨⟩; rfl
theorem crclose (g : Grd) (src : Src) : Statement (.crclose g src) := by rintro d h s ⟨⟩; rfl
theorem crabort (g : Grd) (src : Src) : Statement (.crabort g src) := by rintro d h s ⟨⟩; rfl
theorem rdsr (g : Grd) (src : Src) : Statement (.rdsr g src) := by rintro d h s ⟨⟩; rfl
theorem pcrd (g : Grd) (src : Src) : Statement (.pcrd g src) := by rintro d h s ⟨⟩; rfl
theorem brkp (g : Grd) (src : Src) : Statement (.brkp g src) := by rintro d h s ⟨⟩; rfl
theorem ivqw (g : Grd) (src : Src) : Statement (.ivqw g src) := by rintro d h s ⟨⟩; rfl
theorem errrd (g : Grd) (src : Src) : Statement (.errrd g src) := by rintro d h s ⟨⟩; rfl
theorem ctxsv (g : Grd) (src : Src) : Statement (.ctxsv g src) := by rintro d h s ⟨⟩; rfl
theorem ctxld (g : Grd) (src : Src) : Statement (.ctxld g src) := by rintro d h s ⟨⟩; rfl
theorem qsce (g : Grd) (src : Src) : Statement (.qsce g src) := by rintro d h s ⟨⟩; rfl
theorem add (g : Grd) (src : Src) : Statement (.add g src) := by rintro d h s ⟨⟩; rfl
theorem sub (g : Grd) (src : Src) : Statement (.sub g src) := by rintro d h s ⟨⟩; rfl
theorem mul (g : Grd) (src : Src) : Statement (.mul g src) := by rintro d h s ⟨⟩; rfl
theorem mulhI64 (g : Grd) (src : Src) : Statement (.mulhI64 g src) := by rintro d h s ⟨⟩; rfl
theorem mulhN64 (g : Grd) (src : Src) : Statement (.mulhN64 g src) := by rintro d h s ⟨⟩; rfl
theorem and (g : Grd) (src : Src) : Statement (.and g src) := by rintro d h s ⟨⟩; rfl
theorem or (g : Grd) (src : Src) : Statement (.or g src) := by rintro d h s ⟨⟩; rfl
theorem xor (g : Grd) (src : Src) : Statement (.xor g src) := by rintro d h s ⟨⟩; rfl
theorem andn (g : Grd) (src : Src) : Statement (.andn g src) := by rintro d h s ⟨⟩; rfl
theorem shl (g : Grd) (src : Src) : Statement (.shl g src) := by rintro d h s ⟨⟩; rfl
theorem shrN64 (g : Grd) (src : Src) : Statement (.shrN64 g src) := by rintro d h s ⟨⟩; rfl
theorem shrI64 (g : Grd) (src : Src) : Statement (.shrI64 g src) := by rintro d h s ⟨⟩; rfl
theorem rotl (g : Grd) (src : Src) : Statement (.rotl g src) := by rintro d h s ⟨⟩; rfl
theorem minI64 (g : Grd) (src : Src) : Statement (.minI64 g src) := by rintro d h s ⟨⟩; rfl
theorem minN64 (g : Grd) (src : Src) : Statement (.minN64 g src) := by rintro d h s ⟨⟩; rfl
theorem maxI64 (g : Grd) (src : Src) : Statement (.maxI64 g src) := by rintro d h s ⟨⟩; rfl
theorem maxN64 (g : Grd) (src : Src) : Statement (.maxN64 g src) := by rintro d h s ⟨⟩; rfl
theorem cmpeq (g : Grd) (src : Src) : Statement (.cmpeq g src) := by rintro d h s ⟨⟩; rfl
theorem cmpltI64 (g : Grd) (src : Src) : Statement (.cmpltI64 g src) := by rintro d h s ⟨⟩; rfl
theorem cmpltN64 (g : Grd) (src : Src) : Statement (.cmpltN64 g src) := by rintro d h s ⟨⟩; rfl
theorem cmpleI64 (g : Grd) (src : Src) : Statement (.cmpleI64 g src) := by rintro d h s ⟨⟩; rfl
theorem cmpleN64 (g : Grd) (src : Src) : Statement (.cmpleN64 g src) := by rintro d h s ⟨⟩; rfl
theorem sel (g : Grd) (src : Src) : Statement (.sel g src) := by rintro d h s ⟨⟩; rfl
theorem clz (g : Grd) (src : Src) : Statement (.clz g src) := by rintro d h s ⟨⟩; rfl
theorem ctz (g : Grd) (src : Src) : Statement (.ctz g src) := by rintro d h s ⟨⟩; rfl
theorem popc (g : Grd) (src : Src) : Statement (.popc g src) := by rintro d h s ⟨⟩; rfl
theorem sextI8 (g : Grd) (src : Src) : Statement (.sextI8 g src) := by rintro d h s ⟨⟩; rfl
theorem sextI16 (g : Grd) (src : Src) : Statement (.sextI16 g src) := by rintro d h s ⟨⟩; rfl
theorem sextI32 (g : Grd) (src : Src) : Statement (.sextI32 g src) := by rintro d h s ⟨⟩; rfl
theorem zextN8 (g : Grd) (src : Src) : Statement (.zextN8 g src) := by rintro d h s ⟨⟩; rfl
theorem zextN16 (g : Grd) (src : Src) : Statement (.zextN16 g src) := by rintro d h s ⟨⟩; rfl
theorem zextN32 (g : Grd) (src : Src) : Statement (.zextN32 g src) := by rintro d h s ⟨⟩; rfl
theorem bfx (g : Grd) (src : Src) : Statement (.bfx g src) := by rintro d h s ⟨⟩; rfl
theorem bfi (g : Grd) (src : Src) : Statement (.bfi g src) := by rintro d h s ⟨⟩; rfl
theorem ldI8 (g : Grd) (src : Src) : Statement (.ldI8 g src) := by rintro d h s ⟨⟩; rfl
theorem ldN8 (g : Grd) (src : Src) : Statement (.ldN8 g src) := by rintro d h s ⟨⟩; rfl
theorem ldI16 (g : Grd) (src : Src) : Statement (.ldI16 g src) := by rintro d h s ⟨⟩; rfl
theorem ldN16 (g : Grd) (src : Src) : Statement (.ldN16 g src) := by rintro d h s ⟨⟩; rfl
theorem ldI32 (g : Grd) (src : Src) : Statement (.ldI32 g src) := by rintro d h s ⟨⟩; rfl
theorem ldN32 (g : Grd) (src : Src) : Statement (.ldN32 g src) := by rintro d h s ⟨⟩; rfl
theorem ldI64 (g : Grd) (src : Src) : Statement (.ldI64 g src) := by rintro d h s ⟨⟩; rfl
theorem stN8 (g : Grd) (src : Src) : Statement (.stN8 g src) := by rintro d h s ⟨⟩; rfl
theorem stN16 (g : Grd) (src : Src) : Statement (.stN16 g src) := by rintro d h s ⟨⟩; rfl
theorem stN32 (g : Grd) (src : Src) : Statement (.stN32 g src) := by rintro d h s ⟨⟩; rfl
theorem stN64 (g : Grd) (src : Src) : Statement (.stN64 g src) := by rintro d h s ⟨⟩; rfl
theorem invr (g : Grd) (src : Src) : Statement (.invr g src) := by rintro d h s ⟨⟩; rfl
theorem wbr (g : Grd) (src : Src) : Statement (.wbr g src) := by rintro d h s ⟨⟩; rfl
theorem prefl (g : Grd) (src : Src) : Statement (.prefl g src) := by rintro d h s ⟨⟩; rfl
theorem ldl (g : Grd) (src : Src) : Statement (.ldl g src) := by rintro d h s ⟨⟩; rfl
theorem faddF32 (g : Grd) (src : Src) : Statement (.faddF32 g src) := by rintro d h s ⟨⟩; rfl
theorem faddBf16 (g : Grd) (src : Src) : Statement (.faddBf16 g src) := by rintro d h s ⟨⟩; rfl
theorem faddF16 (g : Grd) (src : Src) : Statement (.faddF16 g src) := by rintro d h s ⟨⟩; rfl
theorem fsubF32 (g : Grd) (src : Src) : Statement (.fsubF32 g src) := by rintro d h s ⟨⟩; rfl
theorem fsubBf16 (g : Grd) (src : Src) : Statement (.fsubBf16 g src) := by rintro d h s ⟨⟩; rfl
theorem fsubF16 (g : Grd) (src : Src) : Statement (.fsubF16 g src) := by rintro d h s ⟨⟩; rfl
theorem fmulF32 (g : Grd) (src : Src) : Statement (.fmulF32 g src) := by rintro d h s ⟨⟩; rfl
theorem fmulBf16 (g : Grd) (src : Src) : Statement (.fmulBf16 g src) := by rintro d h s ⟨⟩; rfl
theorem fmulF16 (g : Grd) (src : Src) : Statement (.fmulF16 g src) := by rintro d h s ⟨⟩; rfl
theorem fmaF32 (g : Grd) (src : Src) : Statement (.fmaF32 g src) := by rintro d h s ⟨⟩; rfl
theorem fmaBf16 (g : Grd) (src : Src) : Statement (.fmaBf16 g src) := by rintro d h s ⟨⟩; rfl
theorem fmaF16 (g : Grd) (src : Src) : Statement (.fmaF16 g src) := by rintro d h s ⟨⟩; rfl
theorem fminF32 (g : Grd) (src : Src) : Statement (.fminF32 g src) := by rintro d h s ⟨⟩; rfl
theorem fminBf16 (g : Grd) (src : Src) : Statement (.fminBf16 g src) := by rintro d h s ⟨⟩; rfl
theorem fminF16 (g : Grd) (src : Src) : Statement (.fminF16 g src) := by rintro d h s ⟨⟩; rfl
theorem fmaxF32 (g : Grd) (src : Src) : Statement (.fmaxF32 g src) := by rintro d h s ⟨⟩; rfl
theorem fmaxBf16 (g : Grd) (src : Src) : Statement (.fmaxBf16 g src) := by rintro d h s ⟨⟩; rfl
theorem fmaxF16 (g : Grd) (src : Src) : Statement (.fmaxF16 g src) := by rintro d h s ⟨⟩; rfl
theorem fabsF32 (g : Grd) (src : Src) : Statement (.fabsF32 g src) := by rintro d h s ⟨⟩; rfl
theorem fnegF32 (g : Grd) (src : Src) : Statement (.fnegF32 g src) := by rintro d h s ⟨⟩; rfl
theorem frndF32 (g : Grd) (src : Src) : Statement (.frndF32 g src) := by rintro d h s ⟨⟩; rfl
theorem fcmpeqF32 (g : Grd) (src : Src) : Statement (.fcmpeqF32 g src) := by rintro d h s ⟨⟩; rfl
theorem fcmpltF32 (g : Grd) (src : Src) : Statement (.fcmpltF32 g src) := by rintro d h s ⟨⟩; rfl
theorem fcmpleF32 (g : Grd) (src : Src) : Statement (.fcmpleF32 g src) := by rintro d h s ⟨⟩; rfl
theorem fcmpunF32 (g : Grd) (src : Src) : Statement (.fcmpunF32 g src) := by rintro d h s ⟨⟩; rfl
theorem vadd (g : Grd) (src : Src) : Statement (.vadd g src) := by rintro d h s ⟨⟩; rfl
theorem vsub (g : Grd) (src : Src) : Statement (.vsub g src) := by rintro d h s ⟨⟩; rfl
theorem vmul (g : Grd) (src : Src) : Statement (.vmul g src) := by rintro d h s ⟨⟩; rfl
theorem vminI32 (g : Grd) (src : Src) : Statement (.vminI32 g src) := by rintro d h s ⟨⟩; rfl
theorem vminN32 (g : Grd) (src : Src) : Statement (.vminN32 g src) := by rintro d h s ⟨⟩; rfl
theorem vmaxI32 (g : Grd) (src : Src) : Statement (.vmaxI32 g src) := by rintro d h s ⟨⟩; rfl
theorem vmaxN32 (g : Grd) (src : Src) : Statement (.vmaxN32 g src) := by rintro d h s ⟨⟩; rfl
theorem vand (g : Grd) (src : Src) : Statement (.vand g src) := by rintro d h s ⟨⟩; rfl
theorem vor (g : Grd) (src : Src) : Statement (.vor g src) := by rintro d h s ⟨⟩; rfl
theorem vxor (g : Grd) (src : Src) : Statement (.vxor g src) := by rintro d h s ⟨⟩; rfl
theorem vshl (g : Grd) (src : Src) : Statement (.vshl g src) := by rintro d h s ⟨⟩; rfl
theorem vshrN32 (g : Grd) (src : Src) : Statement (.vshrN32 g src) := by rintro d h s ⟨⟩; rfl
theorem vshrI32 (g : Grd) (src : Src) : Statement (.vshrI32 g src) := by rintro d h s ⟨⟩; rfl
theorem vcmpeq (g : Grd) (src : Src) : Statement (.vcmpeq g src) := by rintro d h s ⟨⟩; rfl
theorem vcmpltI32 (g : Grd) (src : Src) : Statement (.vcmpltI32 g src) := by rintro d h s ⟨⟩; rfl
theorem vcmpltN32 (g : Grd) (src : Src) : Statement (.vcmpltN32 g src) := by rintro d h s ⟨⟩; rfl
theorem vsel (g : Grd) (src : Src) : Statement (.vsel g src) := by rintro d h s ⟨⟩; rfl
theorem vcasF32 (g : Grd) (src : Src) : Statement (.vcasF32 g src) := by rintro d h s ⟨⟩; rfl
theorem vcasI32 (g : Grd) (src : Src) : Statement (.vcasI32 g src) := by rintro d h s ⟨⟩; rfl
theorem vcasN32 (g : Grd) (src : Src) : Statement (.vcasN32 g src) := by rintro d h s ⟨⟩; rfl
theorem vbperm (g : Grd) (src : Src) : Statement (.vbperm g src) := by rintro d h s ⟨⟩; rfl
theorem vlperm (g : Grd) (src : Src) : Statement (.vlperm g src) := by rintro d h s ⟨⟩; rfl
theorem vredF32 (g : Grd) (src : Src) : Statement (.vredF32 g src) := by rintro d h s ⟨⟩; rfl
theorem vredI32 (g : Grd) (src : Src) : Statement (.vredI32 g src) := by rintro d h s ⟨⟩; rfl
theorem vredN32 (g : Grd) (src : Src) : Statement (.vredN32 g src) := by rintro d h s ⟨⟩; rfl
theorem vscanF32 (g : Grd) (src : Src) : Statement (.vscanF32 g src) := by rintro d h s ⟨⟩; rfl
theorem vscanI32 (g : Grd) (src : Src) : Statement (.vscanI32 g src) := by rintro d h s ⟨⟩; rfl
theorem vcmpact (g : Grd) (src : Src) : Statement (.vcmpact g src) := by rintro d h s ⟨⟩; rfl
theorem vcvtfI32 (g : Grd) (src : Src) : Statement (.vcvtfI32 g src) := by rintro d h s ⟨⟩; rfl
theorem vcvtiF32 (g : Grd) (src : Src) : Statement (.vcvtiF32 g src) := by rintro d h s ⟨⟩; rfl
theorem vcvtBf16 (g : Grd) (src : Src) : Statement (.vcvtBf16 g src) := by rintro d h s ⟨⟩; rfl
theorem vcvtF16 (g : Grd) (src : Src) : Statement (.vcvtF16 g src) := by rintro d h s ⟨⟩; rfl
theorem cmset (g : Grd) (src : Src) : Statement (.cmset g src) := by rintro d h s ⟨⟩; rfl
theorem cmaff (g : Grd) (src : Src) : Statement (.cmaff g src) := by rintro d h s ⟨⟩; rfl
theorem cmtrn (g : Grd) (src : Src) : Statement (.cmtrn g src) := by rintro d h s ⟨⟩; rfl
theorem cmst (g : Grd) (src : Src) : Statement (.cmst g src) := by rintro d h s ⟨⟩; rfl
theorem cmslc (g : Grd) (src : Src) : Statement (.cmslc g src) := by rintro d h s ⟨⟩; rfl
theorem cmidx (g : Grd) (src : Src) : Statement (.cmidx g src) := by rintro d h s ⟨⟩; rfl
theorem cmclr (g : Grd) (src : Src) : Statement (.cmclr g src) := by rintro d h s ⟨⟩; rfl
theorem vknfN32 (g : Grd) (src : Src) : Statement (.vknfN32 g src) := by rintro d h s ⟨⟩; rfl
theorem vknfF32 (g : Grd) (src : Src) : Statement (.vknfF32 g src) := by rintro d h s ⟨⟩; rfl
theorem nrcinc (g : Grd) (src : Src) : Statement (.nrcinc g src) := by rintro d h s ⟨⟩; rfl
theorem qand (g : Grd) (src : Src) : Statement (.qand g src) := by rintro d h s ⟨⟩; rfl
theorem qor (g : Grd) (src : Src) : Statement (.qor g src) := by rintro d h s ⟨⟩; rfl
theorem qxor (g : Grd) (src : Src) : Statement (.qxor g src) := by rintro d h s ⟨⟩; rfl
theorem qandn (g : Grd) (src : Src) : Statement (.qandn g src) := by rintro d h s ⟨⟩; rfl
theorem qcnt (g : Grd) (src : Src) : Statement (.qcnt g src) := by rintro d h s ⟨⟩; rfl
theorem qffs (g : Grd) (src : Src) : Statement (.qffs g src) := by rintro d h s ⟨⟩; rfl
theorem vbcast (g : Grd) (src : Src) : Statement (.vbcast g src) := by rintro d h s ⟨⟩; rfl
theorem exp (g : Grd) (src : Src) : Statement (.exp g src) := by rintro d h s ⟨⟩; rfl
theorem exp2 (g : Grd) (src : Src) : Statement (.exp2 g src) := by rintro d h s ⟨⟩; rfl
theorem log (g : Grd) (src : Src) : Statement (.log g src) := by rintro d h s ⟨⟩; rfl
theorem rcp (g : Grd) (src : Src) : Statement (.rcp g src) := by rintro d h s ⟨⟩; rfl
theorem rsqrt (g : Grd) (src : Src) : Statement (.rsqrt g src) := by rintro d h s ⟨⟩; rfl
theorem tanh (g : Grd) (src : Src) : Statement (.tanh g src) := by rintro d h s ⟨⟩; rfl
theorem sigm (g : Grd) (src : Src) : Statement (.sigm g src) := by rintro d h s ⟨⟩; rfl
theorem sin (g : Grd) (src : Src) : Statement (.sin g src) := by rintro d h s ⟨⟩; rfl
theorem cos (g : Grd) (src : Src) : Statement (.cos g src) := by rintro d h s ⟨⟩; rfl
theorem erf (g : Grd) (src : Src) : Statement (.erf g src) := by rintro d h s ⟨⟩; rfl
theorem vld (g : Grd) (src : Src) : Statement (.vld g src) := by rintro d h s ⟨⟩; rfl
theorem vldl (g : Grd) (src : Src) : Statement (.vldl g src) := by rintro d h s ⟨⟩; rfl
theorem vst (g : Grd) (src : Src) : Statement (.vst g src) := by rintro d h s ⟨⟩; rfl
theorem vldf (g : Grd) (src : Src) : Statement (.vldf g src) := by rintro d h s ⟨⟩; rfl
theorem vldfc (g : Grd) (src : Src) : Statement (.vldfc g src) := by rintro d h s ⟨⟩; rfl
theorem vstf (g : Grd) (src : Src) : Statement (.vstf g src) := by rintro d h s ⟨⟩; rfl
theorem vfe (g : Grd) (src : Src) : Statement (.vfe g src) := by rintro d h s ⟨⟩; rfl
theorem vfeclr (g : Grd) (src : Src) : Statement (.vfeclr g src) := by rintro d h s ⟨⟩; rfl
theorem vldq (g : Grd) (src : Src) : Statement (.vldq g src) := by rintro d h s ⟨⟩; rfl
theorem vstq (g : Grd) (src : Src) : Statement (.vstq g src) := by rintro d h s ⟨⟩; rfl
theorem mldt (g : Grd) (src : Src) : Statement (.mldt g src) := by rintro d h s ⟨⟩; rfl
theorem mstt (g : Grd) (src : Src) : Statement (.mstt g src) := by rintro d h s ⟨⟩; rfl
theorem mmov (g : Grd) (src : Src) : Statement (.mmov g src) := by rintro d h s ⟨⟩; rfl
theorem mzer (g : Grd) (src : Src) : Statement (.mzer g src) := by rintro d h s ⟨⟩; rfl
theorem mqs (g : Grd) (src : Src) : Statement (.mqs g src) := by rintro d h s ⟨⟩; rfl
theorem mqss (g : Grd) (src : Src) : Statement (.mqss g src) := by rintro d h s ⟨⟩; rfl
theorem mqsr (g : Grd) (src : Src) : Statement (.mqsr g src) := by rintro d h s ⟨⟩; rfl
theorem mfold (g : Grd) (src : Src) : Statement (.mfold g src) := by rintro d h s ⟨⟩; rfl
theorem mdrn (g : Grd) (src : Src) : Statement (.mdrn g src) := by rintro d h s ⟨⟩; rfl
theorem mkat (g : Grd) (src : Src) : Statement (.mkat g src) := by rintro d h s ⟨⟩; rfl
theorem msts (g : Grd) (src : Src) : Statement (.msts g src) := by rintro d h s ⟨⟩; rfl
theorem mcrr (g : Grd) (src : Src) : Statement (.mcrr g src) := by rintro d h s ⟨⟩; rfl
theorem xcvtBf16 (g : Grd) (src : Src) : Statement (.xcvtBf16 g src) := by rintro d h s ⟨⟩; rfl
theorem xcvtF16 (g : Grd) (src : Src) : Statement (.xcvtF16 g src) := by rintro d h s ⟨⟩; rfl
theorem xcvtE4m3 (g : Grd) (src : Src) : Statement (.xcvtE4m3 g src) := by rintro d h s ⟨⟩; rfl
theorem xcvtE5m2 (g : Grd) (src : Src) : Statement (.xcvtE5m2 g src) := by rintro d h s ⟨⟩; rfl
theorem xcvtE2m3 (g : Grd) (src : Src) : Statement (.xcvtE2m3 g src) := by rintro d h s ⟨⟩; rfl
theorem xcvtE3m2 (g : Grd) (src : Src) : Statement (.xcvtE3m2 g src) := by rintro d h s ⟨⟩; rfl
theorem xcvtE2m1 (g : Grd) (src : Src) : Statement (.xcvtE2m1 g src) := by rintro d h s ⟨⟩; rfl
theorem xcvtI8 (g : Grd) (src : Src) : Statement (.xcvtI8 g src) := by rintro d h s ⟨⟩; rfl
theorem xcvtN8 (g : Grd) (src : Src) : Statement (.xcvtN8 g src) := by rintro d h s ⟨⟩; rfl
theorem xcvtI4 (g : Grd) (src : Src) : Statement (.xcvtI4 g src) := by rintro d h s ⟨⟩; rfl
theorem xcvtN4 (g : Grd) (src : Src) : Statement (.xcvtN4 g src) := by rintro d h s ⟨⟩; rfl
theorem xexpBf16 (g : Grd) (src : Src) : Statement (.xexpBf16 g src) := by rintro d h s ⟨⟩; rfl
theorem xexpF16 (g : Grd) (src : Src) : Statement (.xexpF16 g src) := by rintro d h s ⟨⟩; rfl
theorem xexpE4m3 (g : Grd) (src : Src) : Statement (.xexpE4m3 g src) := by rintro d h s ⟨⟩; rfl
theorem xexpE5m2 (g : Grd) (src : Src) : Statement (.xexpE5m2 g src) := by rintro d h s ⟨⟩; rfl
theorem xexpE2m3 (g : Grd) (src : Src) : Statement (.xexpE2m3 g src) := by rintro d h s ⟨⟩; rfl
theorem xexpE3m2 (g : Grd) (src : Src) : Statement (.xexpE3m2 g src) := by rintro d h s ⟨⟩; rfl
theorem xexpE2m1 (g : Grd) (src : Src) : Statement (.xexpE2m1 g src) := by rintro d h s ⟨⟩; rfl
theorem xexpI8 (g : Grd) (src : Src) : Statement (.xexpI8 g src) := by rintro d h s ⟨⟩; rfl
theorem xexpN8 (g : Grd) (src : Src) : Statement (.xexpN8 g src) := by rintro d h s ⟨⟩; rfl
theorem xexpI4 (g : Grd) (src : Src) : Statement (.xexpI4 g src) := by rintro d h s ⟨⟩; rfl
theorem xexpN4 (g : Grd) (src : Src) : Statement (.xexpN4 g src) := by rintro d h s ⟨⟩; rfl
theorem xexpQ4k (g : Grd) (src : Src) : Statement (.xexpQ4k g src) := by rintro d h s ⟨⟩; rfl
theorem xtrnN8 (g : Grd) (src : Src) : Statement (.xtrnN8 g src) := by rintro d h s ⟨⟩; rfl
theorem xtrnN16 (g : Grd) (src : Src) : Statement (.xtrnN16 g src) := by rintro d h s ⟨⟩; rfl
theorem xtrnN32 (g : Grd) (src : Src) : Statement (.xtrnN32 g src) := by rintro d h s ⟨⟩; rfl
theorem xqntE4m3 (g : Grd) (src : Src) : Statement (.xqntE4m3 g src) := by rintro d h s ⟨⟩; rfl
theorem xqntE5m2 (g : Grd) (src : Src) : Statement (.xqntE5m2 g src) := by rintro d h s ⟨⟩; rfl
theorem xqntE2m3 (g : Grd) (src : Src) : Statement (.xqntE2m3 g src) := by rintro d h s ⟨⟩; rfl
theorem xqntE3m2 (g : Grd) (src : Src) : Statement (.xqntE3m2 g src) := by rintro d h s ⟨⟩; rfl
theorem xqntE2m1 (g : Grd) (src : Src) : Statement (.xqntE2m1 g src) := by rintro d h s ⟨⟩; rfl
theorem xqntI8 (g : Grd) (src : Src) : Statement (.xqntI8 g src) := by rintro d h s ⟨⟩; rfl
theorem xqntQ4k (g : Grd) (src : Src) : Statement (.xqntQ4k g src) := by rintro d h s ⟨⟩; rfl
theorem xzipN8 (g : Grd) (src : Src) : Statement (.xzipN8 g src) := by rintro d h s ⟨⟩; rfl
theorem xzipN16 (g : Grd) (src : Src) : Statement (.xzipN16 g src) := by rintro d h s ⟨⟩; rfl
theorem xunzN8 (g : Grd) (src : Src) : Statement (.xunzN8 g src) := by rintro d h s ⟨⟩; rfl
theorem xunzN16 (g : Grd) (src : Src) : Statement (.xunzN16 g src) := by rintro d h s ⟨⟩; rfl
theorem wind (g : Grd) (src : Src) : Statement (.wind g src) := by rintro d h s ⟨⟩; rfl
theorem spadv (g : Grd) (src : Src) : Statement (.spadv g src) := by rintro d h s ⟨⟩; rfl
theorem copy (g : Grd) (src : Src) : Statement (.copy g src) := by rintro d h s ⟨⟩; rfl
theorem gath (g : Grd) (src : Src) : Statement (.gath g src) := by rintro d h s ⟨⟩; rfl
theorem scat (g : Grd) (src : Src) : Statement (.scat g src) := by rintro d h s ⟨⟩; rfl
theorem kvg (g : Grd) (src : Src) : Statement (.kvg g src) := by rintro d h s ⟨⟩; rfl
theorem cmpx (g : Grd) (src : Src) : Statement (.cmpx g src) := by rintro d h s ⟨⟩; rfl
theorem xchg (g : Grd) (src : Src) : Statement (.xchg g src) := by rintro d h s ⟨⟩; rfl
theorem coll (g : Grd) (src : Src) : Statement (.coll g src) := by rintro d h s ⟨⟩; rfl
theorem drain (g : Grd) (src : Src) : Statement (.drain g src) := by rintro d h s ⟨⟩; rfl
theorem fence (g : Grd) (src : Src) : Statement (.fence g src) := by rintro d h s ⟨⟩; rfl
theorem prefh (g : Grd) (src : Src) : Statement (.prefh g src) := by rintro d h s ⟨⟩; rfl
theorem migr (g : Grd) (src : Src) : Statement (.migr g src) := by rintro d h s ⟨⟩; rfl
theorem enq (g : Grd) (src : Src) : Statement (.enq g src) := by rintro d h s ⟨⟩; rfl
theorem aaddI32 (g : Grd) (src : Src) : Statement (.aaddI32 g src) := by rintro d h s ⟨⟩; rfl
theorem aaddI64 (g : Grd) (src : Src) : Statement (.aaddI64 g src) := by rintro d h s ⟨⟩; rfl
theorem aaddF32 (g : Grd) (src : Src) : Statement (.aaddF32 g src) := by rintro d h s ⟨⟩; rfl
theorem aaddBf16 (g : Grd) (src : Src) : Statement (.aaddBf16 g src) := by rintro d h s ⟨⟩; rfl
theorem aminI32 (g : Grd) (src : Src) : Statement (.aminI32 g src) := by rintro d h s ⟨⟩; rfl
theorem aminI64 (g : Grd) (src : Src) : Statement (.aminI64 g src) := by rintro d h s ⟨⟩; rfl
theorem aminN32 (g : Grd) (src : Src) : Statement (.aminN32 g src) := by rintro d h s ⟨⟩; rfl
theorem aminN64 (g : Grd) (src : Src) : Statement (.aminN64 g src) := by rintro d h s ⟨⟩; rfl
theorem amaxI32 (g : Grd) (src : Src) : Statement (.amaxI32 g src) := by rintro d h s ⟨⟩; rfl
theorem amaxI64 (g : Grd) (src : Src) : Statement (.amaxI64 g src) := by rintro d h s ⟨⟩; rfl
theorem amaxN32 (g : Grd) (src : Src) : Statement (.amaxN32 g src) := by rintro d h s ⟨⟩; rfl
theorem amaxN64 (g : Grd) (src : Src) : Statement (.amaxN64 g src) := by rintro d h s ⟨⟩; rfl
theorem aandN32 (g : Grd) (src : Src) : Statement (.aandN32 g src) := by rintro d h s ⟨⟩; rfl
theorem aandN64 (g : Grd) (src : Src) : Statement (.aandN64 g src) := by rintro d h s ⟨⟩; rfl
theorem aorN32 (g : Grd) (src : Src) : Statement (.aorN32 g src) := by rintro d h s ⟨⟩; rfl
theorem aorN64 (g : Grd) (src : Src) : Statement (.aorN64 g src) := by rintro d h s ⟨⟩; rfl
theorem axorN32 (g : Grd) (src : Src) : Statement (.axorN32 g src) := by rintro d h s ⟨⟩; rfl
theorem axorN64 (g : Grd) (src : Src) : Statement (.axorN64 g src) := by rintro d h s ⟨⟩; rfl
theorem aswpN32 (g : Grd) (src : Src) : Statement (.aswpN32 g src) := by rintro d h s ⟨⟩; rfl
theorem aswpN64 (g : Grd) (src : Src) : Statement (.aswpN64 g src) := by rintro d h s ⟨⟩; rfl
theorem acasN32 (g : Grd) (src : Src) : Statement (.acasN32 g src) := by rintro d h s ⟨⟩; rfl
theorem acasN64 (g : Grd) (src : Src) : Statement (.acasN64 g src) := by rintro d h s ⟨⟩; rfl
theorem hinit (g : Grd) (src : Src) : Statement (.hinit g src) := by rintro d h s ⟨⟩; rfl
theorem hoffer (g : Grd) (src : Src) : Statement (.hoffer g src) := by rintro d h s ⟨⟩; rfl
theorem htake (g : Grd) (src : Src) : Statement (.htake g src) := by rintro d h s ⟨⟩; rfl
theorem balloc (g : Grd) (src : Src) : Statement (.balloc g src) := by rintro d h s ⟨⟩; rfl
theorem bfree (g : Grd) (src : Src) : Statement (.bfree g src) := by rintro d h s ⟨⟩; rfl
theorem msarm (g : Grd) (src : Src) : Statement (.msarm g src) := by rintro d h s ⟨⟩; rfl
theorem msarv (g : Grd) (src : Src) : Statement (.msarv g src) := by rintro d h s ⟨⟩; rfl
theorem msbind (g : Grd) (src : Src) : Statement (.msbind g src) := by rintro d h s ⟨⟩; rfl
theorem unwindSpool (g : Grd) (src : Src) : Statement (.unwindSpool g src) := by rintro d h s ⟨⟩; rfl

end Sys2Proof.Laws.TrigIds
end

