-- ==== Sys2Proof/Tests/Slice0.lean ====
section
/-! SUPPORT. Tests: words the spec writes out, the well-formedness checks, single bundles of the spec's examples, and for every statement with
hypotheses a concrete state and operands that meet them, clause by clause. -/

open Sys2Proof Sys2Proof.Machine

namespace Sys2Proof.Tests

set_option Elab.async false

/-! ### Encodings -/

/-- A term for each check of well-formedness, which the check refuses: an illegal guard (guard 0 inverted, R69), a destination that the slot does not reach (slot 1
and `va1`, Table 4-2), a source that it does not reach (slot 1 and `va1`), a trigger in a slot of another class (`faddF32` in slot 0), a wait with a guard (R69), a
spool port as a plain source, and the move of s0 to s0, whose word is the empty slot's (R68). -/
theorem test_illFormed : ¬WellFormed (.add ⟨1, 0, true⟩ (.imm 33)) ∧ ¬WellFormed (.move ⟨1, 0, false⟩ (.s 1) (.va 1)) ∧
    ¬WellFormed (.move ⟨1, 0, false⟩ (.va 1) (.s 1)) ∧ ¬WellFormed (.faddF32 ⟨0, 0, false⟩ (.va 2)) ∧ ¬WellFormed (.wait ⟨0, 1, false⟩ (.imm 32)) ∧
    ¬WellFormed (.move ⟨3, 0, false⟩ (.spool 1) (.va 1)) ∧ ¬WellFormed (.move ⟨0, 0, false⟩ (.s 0) (.s 0)) := by
  refine ⟨?_, ?_, ?_, ?_, ?_, ?_, ?_⟩ <;> (show ¬(_ = true); decide)
/-- A well-formed term beside them. -/
theorem test_wellFormed : WellFormed (.add ⟨1, 0, false⟩ (.imm 33)) ∧ WellFormed (.nop 3) ∧ WellFormed (.wait ⟨0, 0, false⟩ (.imm 32)) := by
  refine ⟨?_, ?_, ?_⟩ <;> (show _ = true; decide)

/-- Examples 3.1 and 21.2: guarded and plain moves of slot 1, and the moves to the injection registers. -/
theorem test_decode_moves : decodeSlot 1 0x301205 0 = .ok (.move ⟨1, 3, false⟩ (.s 5) (.s 9)) ∧
    decodeSlot 1 0x001327 0 = .ok (.move ⟨1, 0, false⟩ (.imm 39) (.s 9)) ∧
    decodeSlot 0 0x019404 0 = .ok (.move ⟨0, 0, false⟩ (.s 4) .errinjAddr) ∧
    decodeSlot 0 0x019605 0 = .ok (.writeErrinjCtl ⟨0, 0, false⟩ (.s 5)) := ⟨rfl, rfl, rfl, rfl⟩
/-- Examples 9.1 and 9.3: a guarded compare on `sa1`, and a wait with its flag-guarded moves. -/
theorem test_decode_control : decodeSlot 2 0x24A407 0 = .ok (.cmpltI64 ⟨2, 2, false⟩ (.s 7)) ∧
    decodeSlot 0 0x041322 0 = .ok (.wait ⟨0, 0, false⟩ (.imm 34)) ∧
    decodeSlot 1 0x310120 0 = .ok (.move ⟨1, 3, false⟩ (.imm 32) (.p 0)) ∧
    decodeSlot 2 0x500401 0 = .ok (.move ⟨2, 5, false⟩ (.s 1) (.s 2)) := ⟨rfl, rfl, rfl, rfl⟩
/-- Examples 10.2 and 11.1: a compaction by a lane predicate with its operand move, and an array product. -/
theorem test_decode_vector : decodeSlot 3 0x058892 0 = .ok (.vcmpact ⟨3, 0, false⟩ (.qa 2)) ∧
    decodeSlot 4 0x023845 0 = .ok (.move ⟨4, 0, false⟩ (.va 5) (.opnd .fa0 0)) ∧
    decodeSlot 7 0x06A928 0 = .ok (.mqs ⟨7, 0, false⟩ (.imm 40)) := ⟨rfl, rfl, rfl⟩
/-- Example 12.1: a compare-and-swap with its operands. -/
theorem test_decode_atomic : decodeSlot 0 0x07E80D 0 = .ok (.acasN32 ⟨0, 0, false⟩ (.s 13)) ∧
    decodeSlot 1 0x02180A 0 = .ok (.move ⟨1, 0, false⟩ (.s 10) (.opnd .am 0)) ∧
    decodeSlot 2 0x021BF0 0x64B014 = .ok (.move ⟨2, 0, false⟩ (.limm 0x64B014) (.opnd .am 1)) := ⟨rfl, rfl, rfl⟩
/-- One word of each other family, `to` × 2^9 + `from` with the ids of Tables 4-5 and 4-7: loop 0x206, pcrd 0x221, ld.i64 0x286, exp.f32 0x310, vld 0x330,
xcvt.bf16 0x380, drain 0x3BA. -/
theorem test_decode_families : decodeSlot 0 0x040C01 0 = .ok (.loop ⟨0, 0, false⟩ (.s 1)) ∧ decodeSlot 0 0x044320 0 = .ok (.pcrd ⟨0, 0, false⟩ (.imm 32)) ∧
    decodeSlot 1 0x050C0A 0 = .ok (.ldI64 ⟨1, 0, false⟩ (.s 10)) ∧ decodeSlot 3 0x062042 0 = .ok (.exp ⟨3, 0, false⟩ (.va 2)) ∧
    decodeSlot 3 0x066128 0 = .ok (.vld ⟨3, 0, false⟩ (.imm 40)) ∧ decodeSlot 7 0x070043 0 = .ok (.xcvtBf16 ⟨7, 0, false⟩ (.va 3)) ∧
    decodeSlot 0 0x077401 0 = .ok (.drain ⟨0, 0, false⟩ (.s 1)) := ⟨rfl, rfl, rfl, rfl, rfl, rfl, rfl⟩
/-- Example 19.1: the trigger of `fadd.f32` in slot 1 traps there with UNASSIGNED, and the trap word is the one written out. -/
theorem test_trap_word : decodeSlot 1 0x052005 0 = .error (.unassigned false 0x290) ∧
    trapWord 0x01 1 false false 0x290 0 = 0x0000029000000101 := ⟨rfl, by decide⟩
/-- Example 4.1: the 24 bytes of the bundle decode to its instructions. -/
theorem test_decode_bundle : decode [0x04, 0x20, 0x02, 0xF0, 0x81, 0x04, 0xA0, 0x86, 0x01, 0x42, 0x20, 0x05, 0x41, 0x38, 0x02, 0, 0, 0, 0, 0, 0, 0, 0, 0] =
    .ok [.move ⟨0, 0, false⟩ (.s 4) (.opnd .sa0 0), .add ⟨1, 0, false⟩ (.limm 100000), .faddF32 ⟨3, 0, false⟩ (.va 2),
      .move ⟨4, 0, false⟩ (.va 1) (.opnd .fa0 0), .nop 5, .nop 6, .nop 7] := rfl

/-! ### Statements have cases: encodings and the step -/

/-- Hypotheses of the two directions of decoding and encoding, at the least and at the greatest trigger id. -/
theorem witness_encodings : (WellFormed (.br ⟨0, 0, false⟩ (.s 1)) ∧ encode (.br ⟨0, 0, false⟩ (.s 1)) ≠ []) ∧
    (WellFormed (.msbind ⟨0, 15, true⟩ (.limm 0)) ∧ encode (.msbind ⟨0, 15, true⟩ (.limm 0)) ≠ []) ∧
    decodeSlot 0 0xFFFA01 0 = .ok (.msbind ⟨0, 15, true⟩ (.s 1)) ∧ decodeSlot 0 0x040001 0 = .ok (.br ⟨0, 0, false⟩ (.s 1)) := by
  refine ⟨⟨?_, by decide⟩, ⟨?_, by decide⟩, rfl, rfl⟩ <;> (show _ = true; decide)
/-- The bounds of the unassigned trigger ids are met by words. -/
theorem witness_unassigned : ∀ id ∈ [0x21C, 0x21F, 0x228, 0x23F, 0x262, 0x27F, 0x28F, 0x2DA, 0x30F, 0x31A, 0x32F, 0x33A, 0x34F, 0x35C, 0x37F, 0x3A5, 0x3AF,
    0x3BF, 0x3DF, 0x3FE, 0x3FF], bitsOf (BitVec.ofNat 24 (id * 2 ^ 9)).toNat 18 9 = id := by decide

/-! ### A machine to start from -/

/-- A running thread on place 0, whose s1 holds `x`: the first gibibyte of kernel addresses mapped onto itself for reads and writes, a kernel of 256 bundles, a
scratchpad of 1 MiB and an L1 of 512 KiB, with what `f` changes in the thread, `k` in the core and `d` in the device. -/
def lab (x : Word) (f : Thr → Thr := id) (k : Core → Core := id) (d : Dev → Dev := id) : Mach :=
  let m := State.reset.m.withWord 0
  { m with
    core := k { m.core with poolb := #v[0x80000, 0x180000, 0x200000] }
    thr0 := f { m.thr0 with s := m.thr0.s.set 1 x, win := setNth m.thr0.win 0 (0x4000, 0xB), kern := { m.thr0.kern with nprim := 256 } }
    dev := d m.dev }
/-- The machine with a bundle in progress. -/
def inB (m : Mach) : State := ⟨m, some m.start, []⟩
/-- A scalar unit's latch. -/
def sl (u : FU) (j : Nat) (w : Word) (t : Thr) : Thr :=
  { t with prim := { t.prim with sl := setNth t.prim.sl u.num (setNth (nth t.prim.sl u.num) j w) } }
/-- A vector unit's latch, every lane. -/
def vl (u : FU) (j : Nat) (w : Lane) (t : Thr) : Thr :=
  { t with prim := { t.prim with vl := setNth t.prim.vl (vlIx u) (setNth (nth t.prim.vl (vlIx u)) j { VVal.zero with lanes := Vec.splat w }) } }
/-- A move from s1 without a guard fires in any slot, with what s1 holds. -/
theorem fires (m : Mach) (n : Fin 8) : Fires (inB m) m.start ⟨n, 0, false⟩ (.s 1) allLanes (.sc (nth m.t.s 1)) := ⟨rfl, rfl, by decide, rfl⟩
/-- A move from va1 without a guard fires in any slot, with what va1 holds. -/
theorem firesV (m : Mach) (n : Fin 8) : Fires (inB m) m.start ⟨n, 0, false⟩ (.va 1) allLanes (.vec { nth m.t.va 1 with fromS := false }) :=
  ⟨rfl, rfl, by decide, rfl⟩

/-! ### Statements have cases: the rules of every slot -/

/-- A bundle of one `pcrd` at the program counter, with nothing else due. -/
theorem witness_step : let s := State.reset.withFetchWord 24 0x044320
    let m := s.m.haltTogether
    let n := m.due.at_ .p0
    let is := [Instr.pcrd ⟨0, 0, false⟩ (.imm 32), .nop 1, .nop 2, .nop 3, .nop 4, .nop 5, .nop 6, .nop 7]
    s.inputs = [] ∧ s.m.dev.powered = true ∧ s.m.urgent = none ∧ s.m.agentNow = none ∧ (nth m.dev.pwr m.core.die).tripped = none ∧ m.late = false ∧
    m.core.frozen = false ∧ m.due.thr0.paired = false ∧ (m.due.at_ .p1).reaches = false ∧ n.reaches = true ∧ n.t.inSection false n.st.pc = true ∧
    n.coreRange (n.t.kern.img + n.t.kern.boff + BitVec.ofNat 64 (24 * n.st.pc.toNat)) 24 false = .ok [(0x400080, 24)] ∧ n.dev.stops 0x400080 24 = false ∧
    decode (([(0x400080, 24)] : List (Nat × Nat)).flatMap fun p => n.dev.bytes p.1 p.2) = .ok is ∧ n.st.heldTo n.t.time = false ∧
    (bundleOf n is).verdict = .go := by
  refine ⟨rfl, rfl, ?_, ?_, ?_, ?_, ?_, ?_, ?_, ?_, ?_, ?_, ?_,
    (congrArg decode (show _ = [0x20, 0x43, 0x04] ++ List.replicate 21 0 from by decide +kernel)).trans (by rfl), ?_, ?_⟩ <;> decide +kernel
/-- A move under p1, which is false; one that traps at its source, an unbound spool, in a privileged thread, and in an ordinary one with a row that asks for no privilege;
a privileged row in a thread without privilege. -/
theorem witness_slots : (guardMask (lab 0) false ⟨0, 1, false⟩ = 0 ∧ (Instr.add ⟨1, 1, false⟩ (.s 1)).parts = some (0x240, ⟨1, 1, false⟩, .s 1)) ∧
    (guardMask (lab 0) false ⟨3, 0, false⟩ ≠ 0 ∧ (∀ b ∈ [true, false], (lab 0 fun t => { t with priv := b }).read (.spool 0) = .trap 6) ∧
      (Instr.faddF32 ⟨3, 0, false⟩ (.spool 0)).parts = some (0x290, ⟨3, 0, false⟩, .spool 0)) ∧
    (let g : Grd := ⟨3, 0, false⟩
     Instr.faddF32 g (.spool 0) ∉ [Instr.move g (.spool 0) .errinjAddr, .writeErrinjCtl g (.spool 0), .ivqw g (.spool 0), .errrd g (.spool 0), .ctxsv g (.spool 0), .ctxld g (.spool 0),
       .qsce g (.spool 0)] ++ [.spoolRead g 0 .errinjAddr]) ∧
    (guardMask (lab 0) false ⟨0, 0, false⟩ ≠ 0 ∧ (lab 0).t.priv = false) ∧ (inB (lab 0)).issue.isSome :=
  ⟨⟨by decide, rfl⟩, ⟨by decide, (fun b h => by cases b <;> rfl), rfl⟩, by decide, ⟨by decide, rfl⟩, rfl⟩
/-- A bundle with a failed privilege check, one that stalls in the secondary stream of a pair, by a wait and otherwise, one with an operation trap, and one that freezes the core. -/
theorem witness_verdicts : let b := (lab 0).start
    (b.privAt 2).priv = some ⟨2, 5, 0, false, 0⟩ ∧ (b.stallBy .other).priv = none ∧ (b.stallBy .other).stall = some .other ∧ (b.stallBy (.waiting [])).stall = some (.waiting []) ∧
    ({ lab 0 (fun t => { t with paired := true }) with cur := .p1 } : Mach).isSec = true ∧ (lab 0).isSec = false ∧ (∀ w, Hold.other ≠ .waiting w) ∧ Hold.other ≠ .full ∧
    (b.trapAt 1 6).priv = none ∧ (b.trapAt 1 6).stall = none ∧ (b.trapAt 1 6).trap = some ⟨1, 6, 0, false, 0⟩ ∧ b.trap = none ∧ b.priv = none ∧ b.stall = none ∧ b.freeze = false ∧
    ({ b with freeze := true } : Issue).freeze = true := by
  refine ⟨rfl, rfl, rfl, rfl, rfl, rfl, (fun _ h => by cases h), (fun h => by cases h), rfl, rfl, rfl, rfl, rfl, rfl, rfl, rfl⟩
/-- A slot instruction alone, and a step that goes on from reset. -/
theorem witness_whole : (Instr.pcrd ⟨0, 0, false⟩ (.imm 32)).parts = some (0x221, ⟨0, 0, false⟩, .imm 32) ∧ State.reset.issue = none ∧
    ∃ t, step State.reset = .next t := ⟨rfl, rfl, _, rfl⟩


/-! ### Statements have cases: moves, scalar operations, control -/

/-- A spool whose ring of four slots starts at 0, with its positions; `tot` vectors in dimension 0 of its pattern. -/
def ring (h : Bool) (w r : BitVec 32) (tot : Byte) (t : Thr) : Thr :=
  let one : Vector Byte 256 := [0x9C, 0xA0, 0xA4, 0xA8, 0xAC].foldl (fun v i => setNth v i 1) Spool.zero.blk
  { t with spools := t.spools.set 2 { Spool.zero with blk := (one.set 0x94 4).set 0x98 tot, bound := true, handle := h, wpos := w, rpos := r } }
/-- Moves under lane predicate qa1, which lets lanes 0 and 2 through. -/
theorem witness_lanes : Fires (inB (lab 0 fun t => { t with qa := t.qa.set 1 5 })) (lab 0 fun t => { t with qa := t.qa.set 1 5 }).start ⟨3, 1, false⟩ (.s 1) 5 (.sc 0) ∧
    (5 : BitVec 64) ≠ allLanes ∧ (lab 0 fun t => { t with priv := true }).t.priv = true ∧ FU.scalar .sa0 = true ∧ FU.scalar .fa0 = false :=
  ⟨⟨rfl, by decide, by decide, rfl⟩, by decide, rfl, rfl, rfl⟩
/-- A spool port to read: a handle, and a pattern at its last vector, each one slot ahead. -/
theorem witness_spool_read : ∀ h ∈ [true, false], let m := lab 0 (ring h 1 0 1)
    let x := nth m.t.spools 2
    guardMask m m.start.isWait ⟨3, 0, false⟩ = allLanes ∧ x.bound = true ∧ (x.handle = true ∨ x.rpos.toNat < x.total) ∧ x.wpos ≠ x.rpos ∧
    (m.probeSpad (unitsOf (x.slotOff x.rpos) 256 16)).t.spadPoisoned (x.slotOff x.rpos) 256 = false ∧ m.start.popped.contains 2 = false ∧
    { m.start with popped := [2] }.popped.contains 2 = true := by decide
/-- A spool port to write: a handle with its last slot empty, and a pattern at its last vector. -/
theorem witness_spool_write : (let x := nth (lab 0 (ring true 3 0 0)).t.spools 2; x.bound = true ∧ x.handle = true ∧ x.filled < x.nslot) ∧
    (let x := nth (lab 0 (ring false 0 0 1)).t.spools 2; x.bound = true ∧ x.wpos.toNat < x.total ∧ x.filled < x.nslot) := by decide
/-- A spool port that traps or waits: unbound, at the end of its pattern, empty, full. -/
theorem witness_spool_waits : (nth (lab 0 fun t => { t with priv := true }).t.spools 2).bound = false ∧
    (let x := nth (lab 0 (ring false 1 1 1)).t.spools 2; x.bound = true ∧ x.handle = false ∧ x.total ≤ x.rpos.toNat ∧ x.total ≤ x.wpos.toNat) ∧
    (let x := nth (lab 0 (ring true 0 0 0)).t.spools 2; x.bound = true ∧ x.handle = true ∧ x.wpos = x.rpos) ∧
    (let x := nth (lab 0 (ring true 4 0 0)).t.spools 2; x.bound = true ∧ x.handle = true ∧ x.nslot ≤ x.filled) := by decide
/-- A thread `n` loop levels deep, the innermost of them ending at the bundle. -/
def deep (n : Nat) (cnt : BitVec 32) (t : Thr) : Thr := { t with prim := { t.prim with loops := List.replicate n ⟨0, cnt, 0, 0⟩ } }
/-- Links at the depth of the stack and one above it. -/
theorem witness_ret : (lab (2 ^ 56) (deep 1 1)).t.s[1].toNat / 2 ^ 56 % 8 ≤ (lab 0 (deep 1 1)).st.loops.length ∧
    (lab 0 (deep 1 1)).st.loops.length < (lab (2 ^ 57) (deep 1 1)).t.s[1].toNat / 2 ^ 56 % 8 := by decide
/-- Ends of a loop at PC + 1 and at PC, the last bundle of the section and one beyond it; counts 0 and 1; five and six levels. -/
theorem witness_loop : let m := lab 0 (deep 5 1)
    let inside : Word → Prop := fun w => m.st.pc.toNat + 1 ≤ w.toNat ∧ m.t.inSection m.isSec w = true
    inside 1 ∧ inside 255 ∧ ¬inside 0 ∧ ¬inside 256 ∧ (m.start.sl .seq 0).setWidth 32 = 0#32 ∧ ((lab 0 (sl .seq 0 1)).start.sl .seq 0).setWidth 32 ≠ 0#32 ∧
    m.st.loops.length < 6 ∧ 6 ≤ (lab 0 (deep 6 1)).st.loops.length := by
  refine ⟨?_, ?_, ?_, ?_, ?_, ?_, ?_, ?_⟩ <;> decide
/-- `lend` with no level, of another level, and of the innermost level before and at its last iteration; cancelled by its guard. -/
theorem witness_lend : (lab 0).st.loops = [] ∧ (lab 0 (deep 2 2)).st.loops.getLast? = some ⟨0, 2, 0, 0⟩ ∧ (0 : Word).toNat + 1 ≠ (lab 0 (deep 2 2)).st.loops.length ∧
    (1 : Word).toNat + 1 = (lab 0 (deep 2 2)).st.loops.length ∧ (lab 0 (deep 2 2)).st.pc = 0 ∧ (0 : BitVec 32).toNat + 1 < (2 : BitVec 32).toNat ∧
    (1 : BitVec 32).toNat ≤ (0 : BitVec 32).toNat + 1 ∧ guardMask (lab 0) false ⟨0, 1, false⟩ = 0 := by decide
/-- `lbrk` of the depth of the stack and of its innermost level. -/
theorem witness_lbrk : (lab 0 (deep 2 1)).st.loops.length ≤ (2 : Word).toNat ∧ (lab 0 (deep 2 1)).st.loops[(1 : Word).toNat]? = some ⟨0, 1, 0, 0⟩ := by decide
/-- A bundle that neither halts nor aborts and has no trap. -/
theorem witness_boundary : (lab 0).start.halt = none ∧ (lab 0).start.abort = none ∧ (lab 0).start.trap = none := ⟨rfl, rfl, rfl⟩
/-- A wait with ANY and without, on a flag that is set and on one that is not; a wait with ANY and no flag guard. A bundle with a guard on flag 0, which is set, so that
it is consumed, and one whose guard keeps it; a thread with a read not yet bound and one without. -/
theorem witness_wait : let f : BitVec 32 := 1
    let holds : Nat × Nat × Bool → Prop := fun e => f.getLsbD e.2.1 ≠ e.2.2
    let ready : Word → List (Nat × Nat × Bool) → Prop := fun w l => if w.getLsbD 8 then l = [] ∨ ∃ e ∈ l, holds e else ∀ e ∈ l, holds e
    let takes : Word → List (Nat × Nat × Bool) → Nat → Bool := fun w l i => l.any fun e => e.2.1 = i && f.getLsbD i && !e.2.2 && !w.getLsbD (e.1 - 1)
    ((∃ i < 32, takes 0 [(1, 0, false)] i = true) ∧ (∀ i < 32, takes 1 [(1, 0, false)] i = false) ∧ ∀ e ∈ [(1, 0, false)], e.2.1 < 32) ∧
    (let t := (lab 0 fun t => { t with time := 1, land := [⟨.s 0, 9, allLanes, .home, 0, 0, false, none, none, 0, false, []⟩] }).t
     (∃ l ∈ t.land, l.issued < t.time ∧ l.data = none) ∧ (lab 0).t.hops = [] ∧ (lab 0).t.land = []) ∧
    ready 0 [(1, 0, false), (2, 1, true)] ∧ ¬ready 0 [(1, 0, false), (2, 1, false)] ∧ ready 0x100 [(1, 0, false), (2, 1, false)] ∧
    ¬ready 0x100 [(2, 1, false)] ∧ ready 0x100 [] := by
  refine ⟨⟨?_, ?_, ?_⟩, ⟨⟨_, List.mem_singleton.mpr rfl, by decide, rfl⟩, rfl, rfl⟩, ?_, ?_, ?_, ?_, ?_⟩ <;> decide
/-- `dual` of 0, 1, 64 and 65, with a T that is not 0 and with T = 0; `crabort` of an open region's id and of another. -/
theorem witness_sequencer : let m := lab 0 fun t => { t with T := 1, regions := [⟨0, 7, false, 0, 0⟩] }
    (1 ≤ (1 : Word).toNat ∧ (64 : Word).toNat ≤ 64 ∧ m.t.T ≠ 0 ∧ (lab 0).t.T = 0) ∧ ((0 : Word).toNat = 0 ∧ 64 < (65 : Word).toNat) ∧
    (∃ r ∈ m.t.regions, r.id = (7 : Word).setWidth 16) ∧ (∀ r ∈ m.t.regions, r.id ≠ (8 : Word).setWidth 16) := by
  refine ⟨⟨?_, ?_, ?_, ?_⟩, ⟨?_, ?_⟩, ⟨_, List.mem_singleton.mpr rfl, rfl⟩, ?_⟩ <;> decide
/-- Ids of special registers at the ends of their ranges. -/
theorem witness_rdsr : (0x0C0 : Word).toNat = 0x0C0 ∧ (0x0C9 : Word).toNat = 0x0C9 ∧ (0x0CA : Word).toNat = 0x0CA ∧ (0x0CB : Word).toNat = 0x0CB ∧
    (0x0CC ≤ (0x0CC : Word).toNat ∧ (0x0FF : Word).toNat ≤ 0x0FF) ∧ ((0x0BF : Word).toNat < 0x0C0 ∧ 0x0FF < (0x100 : Word).toNat) ∧
    (lab 0).t.priv = false ∧ (lab 0 fun t => { t with priv := true }).t.priv = true := by decide
/-- A single-stream thread, a pair with a stopped secondary, and its secondary stream. -/
theorem witness_secondary : (lab 0 fun t => { t with paired := true }).t.paired = true ∧ (lab 0 fun t => { t with paired := true }).isSec = false ∧
    ({ lab 0 (fun t => { t with paired := true }) with cur := .p1 } : Mach).isSec = true ∧ (lab 0).t.paired = false := by decide
/-- Three and four open regions; a handler in the section and one outside it; a top region with no command since and with one. -/
theorem witness_regions : let r : Region := ⟨0, 7, false, 0, 0⟩
    let m := fun n => lab 0 fun t => { t with regions := List.replicate n r }
    (m 3).t.regions.length < 4 ∧ 4 ≤ (m 4).t.regions.length ∧ (m 3).t.inSection (m 3).isSec 255 = true ∧ (m 3).t.inSection (m 3).isSec 256 = false ∧
    (m 1).t.regions = [r] ∧ r.id = (7 : Word).setWidth 16 ∧ r.id ≠ (8 : Word).setWidth 16 ∧ (m 1).cmdsSince 0 = false ∧
    (lab 0 (fun t => { t with regions := [r] }) id fun d => { d with cmds := [⟨0, (lab 0).t.ref, 0, .p0, 0, 0, .enq, ⟨none, false, none⟩, false, [], [], [], 0, false, [], [], []⟩] }).cmdsSince 0 = true ∧
    (m 0).t.regions = [] := by decide

/-- A branch target with bit 63 set stops no stream: its fetch is due, and it traps (R182). -/
theorem test_far_target : ({ (lab 0).start with jump := some (0x8000000000000005, 2) } : Issue).commit.st.pc = 0x4000000000000005 ∧
    ({ (lab 0).start with jump := some (0x8000000000000005, 2) } : Issue).commit.st.stopped = false := by decide +kernel

/-! ### Statements have cases: home operations, scalar memory, vectors -/

/-- An aligned object with a window entry, D of 1 with fifteen landings outstanding; NORET. -/
theorem witness_atomics : (0x100 : Word).toNat % 8 = 0 ∧ (lab 0).t.win? 0x100 8 true true = some 0x100 ∧ (1 : Word).getLsbD 23 = false ∧ (1 : Word).toNat % 2 ^ 12 ≠ 0 ∧
    (lab 0 fun t => { t with land := List.replicate 15 ⟨.s 0, 9, allLanes, .home, 0, 0, false, none, none, 0, false, []⟩ }).t.landings false < 16 ∧
    (0x800000 : Word).getLsbD 23 = true ∧ AtomOp.addI ≠ .cas := by decide
/-- Counts and buffers of the home operations at the ends of their ranges. -/
theorem witness_home : let m := lab 0
    (m.t.win? 0x40 (64 + 8 * 4096) true true = some 0x40 ∧ (1 : Word).toNat % 2 ^ 13 = 1 ∧ (4096 : Word).toNat % 2 ^ 13 = 4096) ∧ (0 : Word).getLsbD 50 = false ∧
    ((0x100000 : Word).toNat / 2 ^ 8 % 2 ^ 13 = 4096 ∧ 0xF7FF0 % 16 = 0 ∧ 0xF7FF0 + 16 + 8 * 4096 ≤ m.spadSize) ∧
    ((0x1000 : Word).toNat / 2 ^ 6 % 2 ^ 7 = 64 ∧ (0x40 : Word).toNat / 2 ^ 6 % 2 ^ 7 = 1 ∧ 0xFFEF0 + 16 + 4 * 64 ≤ m.spadSize) ∧
    (m.probeSpad (unitsOf 0xFFFF0 4 16)).t.spadPoisoned 0xFFFF0 4 = false ∧ (m.t.win? 0x10 16 true true = some 0x10 ∧ (1 : Word).toNat % 2 ^ 24 ≠ 0) ∧
    (m.t.win? 0x18 8 true false = some 0x18 ∧ (0x18 : Word).toNat % 8 = 0) := by decide
/-- Next-tile requests, launches, joins and leaves that enter the order. -/
theorem witness_home_control : let b := (lab 0x40).start.latched (.s 1) .seq 2 (.sc 0x40)
    (b.now.t.wout < 4 ∧ b.now.t.landings b.now.isSec < 16) ∧ b.now.launchFull = false ∧ (0x40 : Word).toNat < 2 ^ 38 ∧ b.now.t.memberAt 0x40 = none ∧
    b.now.t.freeMember = some 0 ∧ (lab 0x40 fun t => { t with skeins := t.skeins.set 3 (some ⟨1, 0x40⟩) }).t.memberAt 0x40 = some 3 := by decide
/-- Addresses that an object operation traps on: not aligned, and aligned beyond the window; the other words with their bits. -/
theorem witness_objects : (8 : Word).toNat % 16 ≠ 0 ∧ (0x40000000 : Word).toNat % 16 = 0 ∧ (lab 0).t.win? 0x40000000 16 true true = none ∧
    (lab 0).t.win? 0x40000000 8 true true = none ∧ (lab 0).t.win? 0x40000000 64 true true = none := by decide
/-- The privileged system operations: a queue with its last place free, a thread on place 0 and an empty place, another die; an area on a page that is not resident, ones whose
header has no MAGIC and has it with SAVED set, and one of which the device keeps a saved thread. -/
theorem witness_privileged : let m := lab 0x20 (fun t => { t with priv := true }) id fun d => { d with ivq := d.ivq.set 0 (List.replicate 63 ⟨0, 0, 0, 0, ⟨0, 0, none⟩, none, 0, false⟩), dies := 15 }
    let area := lab 0 id id fun d => { d with mem := Mem.writeN (Mem.writeN d.mem 0x10000 (leBytes 8 0x146580001)) 0x200008 (leBytes 8 0x16) }
    let hdr := fun (a : Word) => match area.coreRange a 256 false with | .ok ps => some (leNat ((ps.flatMap fun p => area.dev.bytes p.1 p.2).take 8)) | _ => none
    m.t.priv = true ∧ (nth m.dev.ivq m.core.die).length < 64 ∧ m.t.win? 0x20 32 true false = some 0x20 ∧ m.xlate 0 0x20 false true = .ok 0x20 0x17 30 ∧
    m.t.win? 0 16 false true = some 0 ∧ m.xlate 0 0 true true = .ok 0 0x17 30 ∧ (m.onPlace 0).isSome = true ∧ (m.onPlace 575).isSome = false ∧
    ((0x10000 : Word).toNat % 0x10000 = 0 ∧ (0x40000000 : Word).toNat % 0x10000 = 0 ∧ hdr 0x20000 = some 0 ∧ hdr 0x10000 = some 0x146580001 ∧
      (match area.coreRange 0x40000000 256 false with | .absent _ => true | _ => false) = true ∧ (area.dev.saved.find? fun x => x.area = 0x10000 && x.asid = area.t.asid) = none) ∧
    m.dev.dies.getLsbD 3 = true ∧ (3 : Word).toNat ≠ m.core.die :=
  by
  refine ⟨?_, ?_, ?_, ?_, ?_, ?_, ?_, ?_, ⟨?_, ?_, ?_, ?_, ?_, ?_⟩, ?_, ?_⟩ <;> decide +kernel
/-- A core whose L1 holds line 0, with or without a fill outstanding, and whose first-level buffer has the page. -/
def held (bits : BitVec 128) (k : Core) : Core := { k with l1 := [⟨0, Vector.replicate 128 7, bits, false, 0, [], ⟨0, 0, none⟩, 0⟩], tlb := [⟨0, 0, 30, 0x17⟩] }
/-- A core with no L1. -/
def noL1 (k : Core) : Core := { k with poolb := #v[0x80000, 0x180000, 0x180000] }
/-- A misaligned address, one beyond the window; no L1, a translation miss, a line miss, a hit; for stores too. -/
theorem witness_scalar_memory : let m := lab 0 id (held (BitVec.allOnes 128))
    (lab 0).core.lsFree ≤ (lab 0).core.cyc ∧ (1 : Word).toNat % 2 ≠ 0 ∧ (lab 0).t.win? 0x40000000 1 true false = none ∧ (lab 0).t.win? 0x40000000 8 false true = none ∧
    (lab 0).t.win? 0x3FFFFFF8 8 true false = some 0x3FFFFFF8 ∧ (lab 0).t.win? 120 8 false true = some 120 ∧ (lab 0 id noL1).l1Lines = 0 ∧
    tlbHit (lab 0).core.tlb 0 0 = none ∧ m.l1Lines ≠ 0 ∧ tlbHit m.core.tlb 0 120 = some ⟨0, 0, 30, 0x17⟩ ∧ m.dev.leaf 0x17 30 120 false m.t.priv = .ok 120 0x17 30 ∧
    m.dev.leaf 0x17 30 128 false m.t.priv = .ok 128 0x17 30 ∧ m.core.line 1 = none ∧ m.core.line 0 = some ⟨0, Vector.replicate 128 7, BitVec.allOnes 128, false, 0, [], ⟨0, 0, none⟩, 0⟩ ∧
    m.xlate 0 120 true m.t.priv = .ok 120 0x17 30 ∧ inMgmt 120 = false :=
  by
  refine ⟨?_, ?_, ?_, ?_, ?_, ?_, ?_, ?_, ?_, ?_, ?_, ?_, ?_, ?_, ?_, ?_⟩ <;> decide +kernel
/-- Store misses: seven outstanding and eight; a free way of the set; `prefl` of a held and of an absent line. -/
theorem witness_allocation : let lines := fun n => (List.range n).map fun i => (⟨i + 1, Vector.replicate 128 0, 1, true, 0, [], ⟨0, 0, none⟩, 0⟩ : L1Line)
    let m := fun n => lab 0 (sl .ls 0 0) fun k => { k with l1 := lines n }
    let now := ((m 7).start.latched (.s 1) .ls 2 (.sc 0)).now.cacheXlate 0 0 (.ok 0 0x17 30)
    ((m 7).core.l1.filter fun l => l.have_ ≠ BitVec.allOnes 128 && l.dirty).length < 8 ∧ 8 ≤ ((m 8).core.l1.filter fun l => l.have_ ≠ BitVec.allOnes 128 && l.dirty).length ∧
    (m 8).core.line 0 = none ∧ (m 8).xlate 0 0 true (m 8).t.priv = .ok 0 0x17 30 ∧ ((m 7).start.latched (.s 1) .ls 2 (.sc 0)).now.core.poolb = (m 7).core.poolb ∧
    ((m 7).start.latched (.s 1) .ls 2 (.sc 0)).now.t.fusedl1 = (m 7).t.fusedl1 ∧ (now.core.l1.filter fun l => l.line % 512 = 0).length < 8 ∧ max ((m 7).l1Lines / 8) 1 = 512 :=
  ⟨by decide +kernel, by decide +kernel, rfl, by decide +kernel, rfl, rfl, by decide +kernel, by decide +kernel⟩
/-- Ranges of 0 and 2^24 bytes and one byte more; lines that are whole. -/
theorem witness_cache : 2 ^ 24 < (0x1000001 : Word).toNat ∧ (0x1000000 : Word).toNat ≤ 2 ^ 24 ∧ (lab 0).linesOf 0 0 = some [] ∧
    (∃ rs, (lab 0 id (held (BitVec.allOnes 128))).linesOf 0 0x1000000 = some rs) ∧
    ∀ l ∈ (lab 0 id (held (BitVec.allOnes 128))).core.l1, l.have_ = BitVec.allOnes 128 :=
  ⟨by decide, by decide, rfl, Option.isSome_iff_exists.mp (by decide +kernel), fun _ h => by cases List.mem_singleton.mp h; rfl⟩
/-- An `ls` that is free and one that is occupied. -/
theorem witness_landing_load : (lab 0).core.lsFree ≤ (lab 0).core.cyc ∧ (lab 0 id fun k => { k with lsFree := 1 }).core.cyc < (lab 0 id fun k => { k with lsFree := 1 }).core.lsFree ∧
    (4095 : Word).toNat % 2 ^ 12 ≠ 0 ∧ (0 : Word).toNat % 2 ^ (0xC0000 / 2 ^ 18 % 4) = 0 := by decide
/-- The four modes of a reduction. -/
theorem witness_modes : (0 : Lane).toNat % 4 = 0 ∧ (1 : Lane).toNat % 4 = 1 ∧ (2 : Lane).toNat % 4 = 2 ∧ (3 : Lane).toNat % 4 = 3 := by decide
/-- Map images that obey the rules and break them; the four states; entries below and at NMOV; dimensions below and at the rank. -/
theorem witness_maps : let one : MapD := { MapD.none with st := .affine, rank := 1, nmov := 1 }
    (mapOfLanes fun _ => 0).setOk 64 = true ∧ (mapOfLanes fun i => if i = 0 then 1 else 0).setOk 64 = false ∧ MapD.opaque_.st = .opq ∧ MapD.none.st = .none ∧ one.st = .affine ∧
    ({ one with st := .indexed } : MapD).st = .indexed ∧
    ({ one with mov := Vector.ofFn fun _ => movOf 64, nmov := BitVec.ofNat 3 1 } : MapD).setOk 64 = true ∧
    ({ one with mov := Vector.ofFn fun _ => movOf 0, nmov := BitVec.ofNat 3 7 } : MapD).setOk 64 = false ∧
    (0 < one.nmov.toNat ∧ one.nmov.toNat ≤ 1) ∧ (0 < one.rank.toNat ∧ one.rank.toNat ≤ 1) := by decide
/-- A vector access at offset 0 and one that ends with the scratchpad; granules that are full and empty; nothing poisoned. -/
theorem witness_vector_memory : ∀ w ∈ [(0 : Lane), 0xFFF00], let m := lab 0 fun t => { t with fe := List.range 16 }
    let k : Ctx := ⟨m, 3, .vma, allLanes, .sc 0⟩
    ∃ f, vmAddrs w VVal.zero = .ok f ∧ k.checkAddrs f = none ∧ (∀ a ∈ k.words f, (m.probeSpad (granules (k.words f))).t.spadPoison.contains (a / 16) = false) ∧
      k.empties f = (w != 0) := by
  intro w hw
  rcases List.mem_cons.mp hw with rfl | hw
  · exact ⟨_, rfl, by decide, by decide, by decide⟩
  · cases List.mem_singleton.mp hw
    exact ⟨_, rfl, by decide, by decide, by decide⟩
/-- `vfe` and `vfeclr`: aligned and not, a descriptor, counts of 0, 1, 4,096 and 4,097, up to the end of the scratchpad and past it. -/
theorem witness_full_empty : (0 : Lane).getLsbD 31 = false ∧ (0x80000000 : Lane).getLsbD 31 = true ∧ (0xFFFF0 : Lane).toNat % 2 ^ 21 % 16 = 0 ∧ (8 : Lane).toNat % 2 ^ 21 % 16 ≠ 0 ∧
    (0 : Lane).toNat % 2 ^ 13 = 0 ∧ (4096 : Lane).toNat % 2 ^ 13 = 4096 ∧ 4096 < (4097 : Lane).toNat % 2 ^ 13 ∧ 0xFFFF0 + 16 * 1 ≤ (lab 0).spadSize ∧ (lab 0).spadSize < 0xFFFF0 + 16 * 2 := by decide
/-- Records at the end of the scratchpad; landing vectors of cluster SRAM at its end and of device memory. -/
theorem witness_records : let m := lab 0
    let x : VVal := { VVal.zero with lanes := (Vec.splat 0).set 0 2 }
    let k : Ctx := ⟨m, 3, .vma, allLanes, .sc 0⟩
    x.desc.map.st = .indexed ∧ x.desc.base % 16 = 0 ∧ x.desc.base + 1024 ≤ m.spadSize ∧
    (∀ l < 64, allLanes.getLsbD l = true → 0xFFC00 + 16 * l + 16 ≤ m.spadSize) ∧ k.checkAddrs (fun l => ((4 * l : Nat) : Int)) = none ∧
    (0x400000 : Lane).getLsbD 22 = true ∧ 0x7FFF00 + 0 * 0 + 256 ≤ 0x800000 ∧ m.t.win? (BitVec.ofNat 64 0x3FFFFF00) 256 true false = some 0x3FFFFF00 ∧
    m.start.now.t.landings m.start.now.isSec < 16 := by decide
/-- Plain offsets off their grain; descriptors that R233 forbids and allows; lanes off their alignment and one that ends past the scratchpad; `vldq` with a map that is not INDEXED, a BASE off its grain,
records past the end, and lane addresses off their grain; a granule that is poisoned. -/
theorem witness_vector_traps : let m := lab 0 fun t => { t with spadPoison := [0] }
    let k : Ctx := ⟨m, 3, .vma, allLanes, .sc 0⟩
    let x : List (Nat × Lane) → VVal := fun l => { VVal.zero with lanes := l.foldl (fun v e => setNth v e.1 e.2) (Vec.splat 0) }
    ((8 : Lane).getLsbD 31 = false ∧ (8 : Lane).toNat % 2 ^ 21 % 16 ≠ 0 ∧ (0x80000000 : Lane).getLsbD 31 = true ∧ (x [(0, 2)]).desc.map.descOk = false) ∧
    (∃ f, vmAddrs 0x80000000 (x [(34, 2)]) = .ok f ∧ f 0 % 4 ≠ 0) ∧
    (∃ f, vmAddrs 0xFFF10 VVal.zero = .ok f ∧ (∀ l < 64, f l % 4 = 0) ∧ (m.spadSize : Int) < f 63 + 4 ∧ m.tgMoves = 0 ∧ k.empties f = true) ∧
    (∃ f, vmAddrs 0 VVal.zero = .ok f ∧ k.checkAddrs f = none ∧ ∃ a ∈ k.words f, (m.probeSpad (granules (k.words f))).t.spadPoison.contains (a / 16) = true) ∧
    ((x []).desc.map.st ≠ .indexed ∧ (x [(0, 2), (34, 8)]).desc.base % 16 ≠ 0 ∧ m.spadSize < (x [(0, 2), (34, 0xFFC10)]).desc.base + 16 * 63 + 16 ∧ (x [(0, 2), (35, 2)]).desc.bstr 0 % 4 ≠ 0 ∧
      (x [(0, 2), (34, 0xFFC00)]).desc.base + 16 * 63 + 16 ≤ m.spadSize) := by
  refine ⟨by decide, ⟨_, rfl, by decide⟩, ⟨_, rfl, by decide, by decide, by decide, by decide⟩, ⟨_, rfl, by decide, ⟨0, by decide, by decide⟩⟩, by decide⟩

/-! ### Statements have cases: tiles, the transform unit, engines -/

/-- A machine and a trigger in slot 7. -/
def mx (m : Mach) : Ctx := ⟨m, 7, .mx, allLanes, .sc 0⟩
/-- A thread whose sparse metadata name four elements in order, in a format for `mqss`. -/
def sparse (t : Thr) : Thr := { t with fmt := 0x210000, kern := { t.kern with moff := 0x100, mlen := 4 }, spad := Mem.writeN [] 0 (List.replicate 1536 0xE4) }
/-- Control words of array operations at the bound; tiles that are free; operands that fit FMT and that do not; sparse metadata. -/
theorem witness_array : (lab 0).core.arrLast = none ∧ (2 ^ 11 ≤ (0x800 : Lane).toNat ∧ (0x7FF : Lane).toNat < 2 ^ 11) ∧
    (∀ i : Fin 8, (lab 0).t.busyFor (.t i) [.arrRead] = false ∧ (lab 0).t.busyFor (.c i) [.arrAcc] = false) ∧
    (mx (lab 0)).arrayOk (lab 0).t.fmt false false OTile.zero [OTile.zero] [0, 1, 0] = true ∧
    (mx (lab 0 fun t => { t with fmt := 0x10 })).arrayOk 0x200002 false false OTile.zero [OTile.zero] [0, 1, 0] = false ∧ (tileNo 0 3).val % 2 = 0 ∧
    (mx (lab 0 sparse)).arrayOk (lab 0 sparse).t.fmt true false OTile.zero [OTile.zero, OTile.zero] [0, 0, 1, 0] = true := by decide +kernel
/-- Array triggers after the interval of the previous one, before LAT[10] has passed, and between the two. -/
theorem witness_hazard : let m := fun (cyc n : Nat) => lab 0 id fun k => { k with arrLast := some (0, n), cyc := cyc }
    (∀ e n, (m 128 128).core.arrLast = some (e, n) → n ≤ (m 128 128).core.cyc - e ∧ (nth (lab 0).t.kern.lat 10).toNat ≤ (m 128 128).core.cyc - e) ∧
    (127 - 0 < (nth (m 127 128).t.kern.lat 10).toNat ∧ (nth (m 128 296).t.kern.lat 10).toNat ≤ 128 - 0 ∧ 128 - 0 < 296) ∧ (m 127 128).core.arrLast = some (0, 128) ∧
    (m 128 296).core.arrLast = some (0, 296) ∧ (m 128 296).start.trap = none := by
  refine ⟨fun e n h => ?_, by decide, rfl, rfl, rfl⟩
  have h : (0, 128) = (e, n) := Option.some.inj h
  cases h; decide
/-- Sparse metadata that `mqss` takes, clean and poisoned. -/
theorem witness_sparse : (match sparseMeta (mx (lab 0 sparse)) with | .ok x => x.bad == none | .error _ => false) = true ∧
    (match sparseMeta (mx (lab 0 fun t => { sparse t with spadPoison := [0x10] })) with | .ok x => x.bad.isSome | .error _ => false) = true := by decide +kernel
/-- A tile of the core's other place, in the same launch and not poisoned; a place where no thread of the launch is; operands that fit and that do not. -/
theorem witness_remote : let m := { lab 0 with thr1 := (lab 0).thr0 }
    (8 : Lane).toNat < 2 ^ 4 ∧ (8 : Lane).getLsbD 3 = true ∧ bitsOf (8 : Lane).toNat 2 0 = m.core.num % 8 ∧ (m.placed .p1).live = true ∧ (m.placed .p1).ref.launch = m.t.ref.launch ∧
    (mx m).arrayOk m.t.fmt false false (nth (m.placed .p1).ot 0) [OTile.zero] [0, 0, 0] = true ∧ m.setPoisoned .p1 = false ∧ ((lab 0).placed .p1).live = false ∧
    (mx m).arrayOk m.t.fmt false false (zeroRemote m.t.fmt) [OTile.zero] [0, 0, 0] = true ∧
    (mx (lab 0)).arrayOk 0x200002 false false (zeroRemote 0x200002) [{ OTile.zero with kc := 2 }] [0, 0, 0] = false := by decide +kernel
/-- A word is its two halves. -/
theorem word_halves (w : Word) : w = w.extractLsb' 32 32 ++ w.extractLsb' 0 32 := by
  apply BitVec.eq_of_getElem_eq
  intro i hi
  rw [BitVec.getElem_append]
  split
  · simp [BitVec.getLsbD_eq_getElem, hi]
  · simp [BitVec.getElem_extractLsb', BitVec.getLsbD_eq_getElem, hi, show 32 + (i - 32) = i by omega]
/-- A chain that is open, and none; a tile that is not busy; a fold that is over; control words at their bounds. -/
theorem witness_array_registers : (lab 0).t.arr.chainN = 0 ∧ (lab 0 fun t => { t with arr := { t.arr with chainN := 1 } }).t.arr.chainN ≠ 0 ∧ (15 : Lane).toNat < 2 ^ 4 ∧
    (31 : Lane).toNat < 2 ^ 5 ∧ (7 : Lane).toNat < 2 ^ 3 ∧ (lab 0).t.busyFor (.c 7) [] = false ∧ (lab 0).t.arr.foldAt ≤ (lab 0).t.time ∧ (lab 0).t.busy = [] ∧
    (∀ x, katSig x = (katSig x).extractLsb' 32 32 ++ (katSig x).extractLsb' 0 32) ∧ ∀ x, katSig x ≠ katSig x + 1 :=
  ⟨rfl, by decide, by decide, by decide, by decide, rfl, by decide, rfl, fun x => word_halves _, fun x h => by bv_omega⟩
/-- Tiles and scratchpad: an operand tile and an accumulator at the end of the scratchpad, with their control words at the bound. -/
theorem witness_tiles : let m := lab 0
    (∀ w ∈ [(0, 128, 0xFD000, false, 0), (0x1FF, 384, 0xF7000, true, 1)], w.1 < 2 ^ 9 ∧ w.2.1 = rowBytes w.2.2.2.1 0) ∧
    sclOk false 0 0 = true ∧ sclOk true 0 0 = true ∧ sclOk true 3 0 = false ∧ (addressing m (BitVec.ofNat 32 (0xFD000 + 16 * 2 ^ 21)) 96 128 16 0).toOption = some (0xFD000, 128) ∧
    0xFD000 + m.tileCopies 0 * 0 + tileReach false 0 0 128 ≤ m.spadSize ∧ (addressing m (BitVec.ofNat 32 (0xF7000 + 48 * 2 ^ 21)) 96 384 16 0).toOption = some (0xF7000, 384) ∧
    0xF7000 + m.tileCopies 0 * 0 + tileReach true 0 0 384 ≤ m.spadSize ∧ ({ MapD.none with st := .none } : MapD).setOk 9216 = true ∧ m.t.spadPoison = [] ∧
    (nth m.t.ot 0).scl.toNat = 0 ∧ ((0x7FFF : Lane).toNat < 2 ^ 15 ∧ 143 < 144 ∧ 47 < 48) := by decide +kernel
/-- Drains of one row, the last, and of all rows; to registers and to the scratchpad. -/
theorem witness_drains : let m := lab 0
    (0x7FFFFF : Lane).toNat < 2 ^ 23 ∧ m.t.busyFor (.c 0) [] = false ∧ 95 + 1 ≤ 96 ∧ 0 + 96 ≤ 96 ∧ drainFmt 0 = some (.flt f32, 32) ∧ m.dual = false ∧ m.tgMoves = 0 ∧
    (m.t.drainRow (.flt f32) MapD.none (nth m.t.tsC 0) (nth (nth m.t.ct 0).rows 95) 95).2.2 = false ∧
    (addressing m (BitVec.ofNat 32 (0x0 + 48 * 2 ^ 21)) 96 (12 * 32) 16 (12 * 32)).toOption = some (0, 384) := by decide +kernel
/-- A transform unit that is free and one whose beat has just passed; groups below and at the bound; both stages of a quantisation. -/
theorem witness_transform : (∀ e n, (lab 0).core.xfLast = some (e, n) → n ≤ (lab 0).core.cyc - e) ∧
    (∀ e n, (lab 0 id fun k => { k with xfLast := some (0, 2), cyc := 2 }).core.xfLast = some (e, n) → n ≤ (lab 0 id fun k => { k with xfLast := some (0, 2), cyc := 2 }).core.cyc - e) ∧
    ((7 : Lane).toNat < 8 ∧ 7 < 32 / 4 ∧ 32 / 16 ≤ 2 ∧ 8 ≤ (8 : Lane).toNat) ∧ ((15 : Lane).toNat < 16 ∧ 3 < 4) ∧ (0 : Lane).toNat = 0 ∧ (1 : Lane).toNat = 1 ∧
    MapD.opaque_.transposed 8 8 = none ∧ 511 < 2 * 256 ∧
    (let q : MapD := { MapD.none with st := .affine, rank := 2, nmov := 2, mov := #v[⟨0, 0, 8⟩, ⟨1, 0, 8⟩, ⟨0, 0, 0⟩, ⟨0, 0, 0⟩] }
     (q.transposed 8 8).isSome = true ∧ (q.advance 1 8).same (q.advance (nth q.mov 1).dim.toNat 8) = true ∧ q.same (q.advance (nth q.mov 1).dim.toNat 8) = false) := by
  refine ⟨fun e n h => by simp [lab, State.reset, Mach.withWord, Core.zero] at h, fun e n h => ?_, by decide, by decide, by decide, by decide, by decide, by decide, by decide⟩
  have : (0, 2) = (e, n) := Option.some.inj h
  cases this; decide

/-- Numbers (offset, size, value) written into the scratchpad. -/
def put (l : List (Nat × Nat × Nat)) (t : Thr) : Thr := { t with spad := l.foldl (fun m e => Mem.writeN m e.1 (leBytes e.2.1 e.2.2)) [] }
/-- A queue with room, an aligned block, no milestone; a winder block of 2 slots with counts 1 and 65,535, and a handle that fills the scratchpad. -/
theorem witness_wind : let one := [(0x94, 4, 2), (0x98, 4, 65535), (0x9C, 4, 1), (0xA0, 4, 1), (0xA4, 4, 1), (0xA8, 4, 1), (0xAC, 4, 1)]
    let m := lab 0 (put one)
    let sp := spoolOf (Mem.readN m.t.spad 0 256) true false 0
    let h := spoolOf (Mem.readN (lab 0 (put [(0x94, 4, 4096)])).t.spad 0 256) false true 0
    m.queueFull = false ∧ (m.cmdMs 0 0).toOption = some none ∧ (nth m.t.spools 0).bound = false ∧ sp.ring % 256 = 0 ∧ sp.nslot = 2 ∧ sp.ring + 256 * sp.nslot ≤ m.spadSize ∧
    (∀ d < 6, 1 ≤ sp.cnt d ∧ sp.cnt d ≤ 65535 ∧ (sp.f8 (0xB0 + 8 * d)).toNat % 64 = 0) ∧ (sp.f8 0x88).toNat % 64 = 0 ∧
    (mapOfBytes ((Mem.readN m.t.spad 0 256).take 136)).setOk 64 = true ∧ (sp.dva m.t 0).isSome ∧ h.nslot = 4096 ∧ h.ring + 256 * h.nslot ≤ m.spadSize := by decide +kernel
/-- Copies of 1 and of 14 dimensions: of no elements, and of 64 bytes between two kinds of memory. -/
theorem witness_copy : let m := lab 0
    [0, 5].foldl (· * ·) 1 = 0 ∧ (List.replicate 14 1).foldl (· * ·) 1 ≠ 0 ∧ (List.replicate 14 1).foldl (· * ·) 1 < 2 ^ 40 ∧ m.t.winSpan 0x100 ([].zip []) 64 true false = some 0x100 ∧
    localSpan (0xFFFC0 : Word).toNat ([].zip []) 64 m.spadSize = true ∧ localSpan (0x7FFFC0 : Word).toNat ([].zip []) 64 0x800000 = true := by decide +kernel
/-- Gathers and scatters of one row of 4 bytes and of 65,536 bytes, the second of two rows skipped; with row records and without. -/
theorem witness_rows : ∀ len ∈ [4, 65536], let m := lab 0 (put [(0x10, 4, 64), (0x14, 4, 2), (0x20, 4, len), (0x24, 4, 0xFFFF0), (64, 4, 0), (68, 4, 0xFFFFFFFF)])
    let f : Nat → Nat → Nat := fun i k => leNat (((Mem.readN m.t.spad 0 64).drop i).take k)
    f 0x14 4 = 2 ∧ f 0x20 4 = len ∧ f 0x10 4 % 4 = 0 ∧ f 0x10 4 + 4 * 2 ≤ m.spadSize ∧ f 0x18 4 + len ≤ m.spadSize ∧ m.t.win? 0 len true false = some 0 ∧
    m.t.win? 0 len false true = some 0 ∧ Mem.num m.t.spad (f 0x10 4 + 4 * 1) 4 = 0xFFFFFFFF ∧ f 0x24 4 ≠ 0xFFFFFFFF ∧ f 0x24 4 % 16 = 0 ∧ f 0x24 4 + 16 * 1 ≤ m.spadSize := by decide +kernel
/-- A gather by block map of one token of 16 bytes, whose block map entry is at home and names block 0. -/
theorem witness_tokens : let m := lab 0 (put [(0x1C, 4, 16), (0x24, 4, 1), (0x30, 4, 0xFFFFFFFF)])
    let r := m.start.now.mapEntries m.t.time 0 1
    m.t.win? 0 4 true false = some 0 ∧ (∀ p, EntryR.wait p ∉ r.1) ∧
    (m.tokenRow (Mem.readN m.t.spad 0 64) r.1 0 0).toOption.isSome = true := by
  have h : let m := lab 0 (put [(0x1C, 4, 16), (0x24, 4, 1), (0x30, 4, 0xFFFFFFFF)])
      ((m.start.now.mapEntries m.t.time 0 1).1.any fun e => match e with | .wait _ => true | _ => false) = false := by decide +kernel
  refine ⟨by decide +kernel, fun p hp => ?_, by decide +kernel⟩
  exact Bool.false_ne_true (h ▸ List.any_eq_true.mpr ⟨_, hp, rfl⟩)
/-- Compression of 1 and of 4,096 blocks, to the end of the scratchpad and of cluster SRAM. -/
theorem witness_cmpx : ∀ n ∈ [1, 4096], let m := lab 0 (put [(0, 4, 0x100000 - 256 * n), (4, 4, 0x800000 - n * 64), (8, 4, n)])
    let f : Nat → Nat → Nat := fun i k => leNat (((Mem.readN m.t.spad 0 16).drop i).take k)
    f 0 4 % 256 = 0 ∧ f 4 4 % 32 = 0 ∧ f 8 4 = n ∧ (0 : Nat) / 2 ^ 17 % 8 ≠ 7 ∧ f 0 4 + 256 * n ≤ m.spadSize ∧ f 4 4 + n * (64 + 32 * 0) ≤ 0x800000 := by decide +kernel
/-- An exchange of one row of 16,384 elements; a collective of 4 bytes in a skein joined. -/
theorem witness_xchg_coll : let m := lab 0 (put [(0x14, 4, 1), (0x18, 4, 16384), (0x20, 4, 35), (0x28, 4, 16896)])
    let c := lab 0 (fun t => put [(0, 8, 0x40), (8, 8, 0x80), (16, 8, 0x80), (24, 8, 4)] { t with skeins := t.skeins.set 0 (some ⟨1, 0x40⟩) })
    let f : Nat → Nat → Nat := fun i k => leNat (((Mem.readN m.t.spad 0 64).drop i).take k)
    f 0x18 4 = 16384 ∧ f 0x18 4 % 128 = 0 ∧ f 0x20 4 % 64 < 36 ∧ f 0x28 4 % 4 = 0 ∧ f 0x18 4 / 128 * 132 ≤ f 0x28 4 ∧ f 0x24 4 + 16896 ≤ 0x800000 ∧
    m.t.win? 0 (16384 * 4) true false = some 0 ∧ c.t.win? 0x40 64 true false = some 0x40 ∧ (c.t.memberAt 0x40).isSome ∧ (4 : Nat) % 4 = 0 ∧
    c.t.win? 0x80 4 true false = some 0x80 ∧ c.t.win? 0x80 4 false true = some 0x80 := by decide +kernel
/-- Plain commands: a spool with as many slots as NWAIT, NADV at NWAIT; pages of a window; spools to unbind: a write spool with a filled slot, an unbound one, a read spool. -/
theorem witness_plain : let m := lab 0 (ring true 1 0 0)
    m.queueFull = false ∧ (nth m.t.spools 2).bound = true ∧ 1 ≤ (nth m.t.spools 2).filled ∧ 3 ≤ (nth m.t.spools 2).nslot - (nth m.t.spools 2).filled ∧
    ((0x40 : Word).getLsbD 6 = true ∧ (0 : Word).toNat / 2 ^ 19 % 4 < 2 ∧ (0x80000 : Word).toNat / 2 ^ 19 % 4 < 2) ∧
    m.t.win? 0 (0x4000 * 0x10000) true false = some 0 ∧ (0x10000 : Word).toNat % 0x10000 = 0 ∧ m.t.win? 0x10000 0x10000 true false = some 0x10000 ∧
    (let y := nth (lab 0 fun t => { t with spools := t.spools.set 0 { Spool.zero with bound := true, dir := true, wpos := 1 } }).start.now.t.spools 0
     y.bound = true ∧ y.dir = true ∧ y.handle = false ∧ y.filled ≠ 0) ∧ (nth m.start.now.t.spools 0).bound = false ∧ (nth (lab 0 (ring false 0 0 1)).start.now.t.spools 2).dir = false := by
  decide +kernel

/-! ### Statements have cases: firmware, launches, scheduling -/

/-- A space's memory with a kernel of one empty bundle at 5 MiB, and an empty context image at 5 MiB + 64 KiB, saved or not. -/
def images (saved : Bool) (d : Dev) : Dev :=
  let w := fun (m : Mem) (e : Nat × Nat × Nat) => Mem.writeN m e.1 (leBytes e.2.1 e.2.2)
  { d with mem := [(0x500000, 4, 0x46584B01), (0x500004, 2, 1), (0x500008, 8, 1), (0x500018, 8, 0x80), (0x500030, 12, 0x28801810060C080402040301), (0x500040, 12, 0x1C00000018000000080000),
      (0x50004C, 4, (crc32c (List.replicate 24 0)).toNat), (0x510000, 4, 0x46580001), (0x510004, 4, 0x1C0 % 64 + if saved then 1 else 0), (0x600004, 4, 0), (0x600008, 8, 0x28)].foldl w d.mem }
/-- A packet for one thread of that kernel, with its save area at 5 MiB + 128 KiB. -/
def packet : Packet :=
  ⟨leBytes 8 0x500000 ++ leBytes 8 0x510000 ++ leBytes 4 1 ++ leBytes 4 0 ++ leBytes 8 0x520000 ++ leBytes 4 0x800000 ++ List.replicate 28 0, 0, 1, false, none, false, none, 0, false⟩
/-- The supply that is there and gone; a trip of 100 ms; an action other than package reset that waits. -/
theorem witness_supply : State.reset.m.dev.powered = true ∧ (lab 0 id id fun d => { d with powered := false }).dev.powered = false ∧
    (nth (lab 0 id id fun d => { d with milepost := 400000000, pwr := d.pwr.set 3 ⟨520, 0, none, none, some 0, none⟩ }).dev.pwr 3).tripped = some 0 ∧
    0 + 400000000 ≤ (lab 0 id id fun d => { d with milepost := 400000000 }).dev.milepost ∧ Instr.supplyLoss ≠ .packageReset := by
  refine ⟨rfl, rfl, by decide +kernel, by decide +kernel, fun h => by cases h⟩
/-- Clocks free and tripped; adjustments due and too early, held and doubled; images that fail their check; a mailbox that asks, of a device at stage 5, for a report into bytes of memory that
nothing protects. -/
theorem witness_firmware : (nth (lab 0).dev.pwr 3).tripped = none ∧ 1 < (nth (lab 0).dev.pwr 3).aclk.toNat ∧ (nth (lab 0).dev.pwr 3).capped = none ∧
    (lab 0).dev.mpNext ≤ (lab 0).dev.acyc ∧ (lab 0 id id fun d => { d with mpNext := 1 }).dev.acyc < (lab 0 id id fun d => { d with mpNext := 1 }).dev.mpNext ∧
    ((nth (lab 0).dev.pwr 0).aclk = 4000 ∧ (lab 0).dev.mpFrac = 0 ∧ (lab 0).dev.mpHold = false ∧ (lab 0).dev.mpMore = false) ∧
    (lab 0).dev.boot.check (lab 0).dev.boot.slotA ≠ 0 ∧ 2 ≤ (lab 0 id id fun d => { d with stageNo := 5 }).dev.stageNo ∧
    (let d := (lab 0 id id fun d => { d with stageNo := 5, attmb := (d.attmb.set 32 1).set 42 0x60 }).dev
     nth d.attmb 32 = 1 ∧ leNat ((d.attmb.toList.drop 40).take 8) = 0x600000 ∧ d.mem.wf = true ∧ ¬(nth (lab 0).dev.attmb 32 = 1 ∧ (lab 0).dev.stageNo = 5) ∧
     ((unitsOf 0x600000 0x3E18 0x1000).all fun u => d.paOk (max 0x600000 (0x1000 * u)) && !inMgmt (0x1000 * u)) = true ∧ d.isProtected (0x600000 + 0x3E17) = false) := by
  decide +kernel
/-- The stages of bring-up: the stage before each and another; keys derived; dies to start and none. -/
theorem witness_stages : let m := fun (n : Nat) => (lab 0 id id fun d => { d with stageNo := n, dies := 15, boot := { d.boot with udsLocked := true } }).dev
    ((m 1).stageNo = 1 ∧ (m 1).boot.udsLocked = true ∧ (1 : BitVec 4).getLsbD 0 = true ∧ ¬(2 : BitVec 4).getLsbD 0 = true) ∧
    ((m 2).stageNo = 2 ∧ (m 2).dies &&& 1 ≠ 0 ∧ ¬(m 2).dies &&& 0 ≠ 0) ∧ ((m 3).stageNo = 3 ∧ (m 2).stageNo ≠ 3) ∧ ((m 4).stageNo = 4 ∧ (m 3).stageNo ≠ 4) ∧
    (State.reset.m.dev.boot.check State.reset.m.dev.boot.slotA ≠ 0) := by decide +kernel
/-- A lane of 16 entries at 6 MiB, one entry behind `w`. -/
def laneAt (r w : BitVec 32) (es : List LEntry) (d : Dev) : Dev :=
  images false { d with lnrdy := true, lanes := [(0, { Lane_.zero with lbase := 0x600000, lcfg := 0x40001, widx := w, ridx := r, entries := es })] }
/-- Lanes at 16 entries and lapped; LNRDY clear; aligned accesses and others; a lane off, stopped and empty. -/
theorem witness_lanes_registers : let l := (lab 0 id id (laneAt 0 1 [])).dev.lane 0
    (lab 0 id id (laneAt 0 1 [])).dev.lnrdy = true ∧ (lab 0).dev.lnrdy = false ∧ Lane_.lapped { l with widx := 16 } = false ∧ Lane_.lapped { l with widx := 17 } = true ∧
    (0x10 : BitVec 32).toNat % 8 = 0 ∧ (0x14 : BitVec 32).toNat % 8 ≠ 0 ∧ (0x00FFFFF8 : BitVec 32).toNat < 0x01000000 ∧ (1 : Word).getLsbD 0 = true ∧
    ((lab 0).dev.lane 0).en = false ∧ l.en = true ∧ l.stopped = false ∧ { l with seqerr := true }.stopped = true ∧ l.widx ≠ l.ridx := by decide +kernel
/-- Entries in sequence and out of it; one on a page that is not in place; a lane that was lapped. -/
theorem witness_lane_entries : let d := (lab 0 id id (laneAt 0 1 [])).dev
    d.readsStop 0 [(0x600000, 128)] = false ∧ (d.lane 0).lapped = false ∧ ((lab 0 id id (laneAt 0 17 [])).dev.lane 0).lapped = true ∧ ((lab 0 id id (laneAt 0 17 [])).dev.lane 0).en = true ∧
    (match ({ d with mem := Mem.writeN d.mem 0x200008 (leBytes 8 0x16) } : Dev).imgAt 0 0x40000000 128 with | .error (some _) => true | _ => false) = true ∧
    (match d.imgAt 0 0x90000000 128 with | .error none => true | _ => false) = true ∧
    ((d.imgAt 0 0x600000 128).toOption.map fun b => b.num 0 4) = some 0 ∧ ((d.imgAt 0 (0x600000 + BitVec.ofNat 64 (1 % 16 * 128)) 128).toOption.map fun b => b.num 0 4) = some 0 ∧
    (1 : BitVec 32).toNat ≠ 0 := by decide +kernel
/-- An entry with one dependence on the milestone at 6 MiB, which is done. -/
def entry (f : Nat) (seen : List (Nat × Bool)) : LEntry := ⟨0, leBytes 4 0 ++ leBytes 4 f ++ leBytes 8 0x600000 ++ List.replicate 48 0 ++ packet.bytes, [], seen, false⟩
theorem witness_dependences : let d := (lab 0 id id (laneAt 0 1 [entry 4 []])).dev
    (d.lane 0).entries = [entry 4 []] ∧ 0 < (entry 4 []).ndep ∧ d.xlate 0 (BitVec.ofNat 64 (bf (entry 4 []).bytes 8 8)) false = .ok 0x600000 0x17 30 ∧
    (d.num (0x600000 + 8) 8).testBit 5 = true := by decide +kernel
/-- A launch that passes its checks and ones that do not: reserved, no thread, too many, a TGSTR off its grain. -/
theorem witness_launch_checks : let d := (lab 0 id id (images false)).dev
    d.readsStop 0 (d.launchReads packet) = false ∧ d.measured.contains 0 = false ∧ ({ d with measured := [0] } : Dev).measured.contains 0 = true ∧
    (match ((lab 0 id id (images false)).probeAll 0 (d.launchReads packet)).dev.checkLaunch packet with | .ok _ => true | .error _ => false) = true ∧
    (match ({ d with mem := Mem.writeN d.mem 0x200008 (leBytes 8 0x16) } : Dev).checkLaunch { packet with bytes := leBytes 8 0x40000000 ++ packet.bytes.drop 8 } with
      | .error (.page _) => true | _ => false) = true ∧
    (match d.checkLaunch { packet with reserved := true } with | .error (.reason 1) => true | _ => false) = true ∧
    (packet.num 0x38 8 = 0 ∧ fld packet.aff 31 18 = 0 ∧ fld packet.aff 15 14 = 0) ∧ { packet with bytes := [] }.nthr = 0 ∧
    2 ^ 24 < { packet with bytes := List.replicate 64 2 }.nthr ∧ { packet with bytes := List.replicate 64 2 }.tgstr.toNat % 64 ≠ 0 := by decide +kernel
/-- Entries that wait for a dependence and behind a barrier, a MARK, a poisoned dependence, and one whose launch starts. -/
theorem witness_lane_starts : ((∃ i < (entry 4 []).ndep, ∀ x ∈ (entry 4 []).seen, x.1 ≠ i) ∧ (entry 2 []).eflags.testBit 1 = true ∧ [0] ≠ ([] : List Nat)) ∧
    (¬(∃ i < (entry 5 [(0, false)]).ndep, ∀ x ∈ (entry 5 [(0, false)]).seen, x.1 ≠ i) ∧ (entry 5 [(0, false)]).eflags.testBit 0 = true ∧ (entry 5 [(0, false)]).eflags.testBit 1 = false) ∧
    ((entry 4 [(0, true)]).eflags.testBit 0 = false ∧ ∃ x ∈ (entry 4 [(0, true)]).seen, x.2 = true) ∧
    (∀ x ∈ (entry 4 [(0, false)]).seen, x.2 = false) ∧
    ((lab 0 id id (images false)).startLaunch { packet with lane := some (0, 0) }).toOption.isSome = true ∧
    (match (lab 0 id id fun d => let d := images false d; { d with mem := Mem.writeN d.mem 0x200008 (leBytes 8 0x16) }).startLaunch
      { packet with bytes := leBytes 8 0x40000000 ++ packet.bytes.drop 8 } with | .error (some _) => true | _ => false) = true := by
  refine ⟨⟨⟨0, by decide +kernel⟩, by decide +kernel, by decide⟩, ⟨by decide +kernel, by decide +kernel, by decide +kernel⟩,
    ⟨by decide +kernel, ⟨_, List.mem_singleton.mpr rfl, rfl⟩⟩, by decide +kernel, by decide +kernel, by decide +kernel⟩
/-- Launch queues with their last place free, and full. -/
theorem witness_queues : let d := (lab 0 id id fun d => { d with lqueue := d.lqueue.set 0 (List.replicate 255 packet), lover := d.lover.set 0 [packet] }).dev
    let f := (lab 0 id id fun d => { d with lqueue := d.lqueue.set 0 (List.replicate 256 packet) }).dev
    (nth d.lover 0).length = 1 ∧ (nth d.lqueue 0).length < 256 ∧ 256 ≤ (nth f.lqueue 0).length := by decide +kernel
/-- A core without threads whose boundaries are those of the kernel, its device, and a thread saved or launched for it. -/
def idle (d : Dev → Dev) : Mach := lab 0 (fun t => { t with status := .empty }) (fun k => { k with poolb := #v[0x80000, 0x90000, 0x90000] }) fun x =>
  d { x with stageNo := 5 }
/-- A launch of the packet whose one thread waits. -/
def waits : Launch := ⟨0, packet, { Kern.zero with pool := #v[0x80000, 0x90000, 0x90000] }, 1, 0, 0, 0, 0, 0, false, 0, 0⟩
/-- A thread saved at the context image, of the kernel's boundaries. -/
def aside : Saved := ⟨⟨9, 0, none⟩, 0, 0x510000, 1, false, { Kern.zero with pool := #v[0x80000, 0x90000, 0x90000] }, true, 0, [], 0, 0, [], [], false, [], ⟨0, 0, [], [], [], [], ([], [])⟩⟩
/-- A core with other boundaries. -/
def other (d : Dev → Dev) : Mach := { idle d with core := { (idle d).core with poolb := #v[0x80000, 0x180000, 0x180000] } }
/-- No thread to place; a launch with a thread to place on a free place, by a context that reads, and where the boundaries differ; a child of a parked parent; a saved thread likewise; one thread left
and none. -/
theorem witness_placement : (idle id).claims.length = 0 ∧
    (∀ f ∈ [idle, other], let m := f fun d => images false { d with launches := [waits] }
      m.claims.length = 1 ∧ (m.claims.all fun c => !m.dev.claimHeld c && match c with | .launch l => l == waits | _ => false) = true ∧ (m.dev.ctxt 0 0x510000).toOption.isSome = true ∧
      m.dev.launch? 0 = some waits) ∧
    (let m := fun (f : (Dev → Dev) → Mach) => f fun d => images false { d with launches := [waits] }
     ((m idle).placeFor ((m idle).dev.wantOf waits)).isSome = true ∧ (m other).placeFor ((m other).dev.wantOf waits) = none) ∧
    (let x := { waits with pkt := { packet with parent := some (⟨9, 0, none⟩, none, true) } }
     let m := idle fun d => images false { d with launches := [x] }
     (m.dev.wantOf x).child.isSome = true ∧ (m.placeFor (m.dev.wantOf x)).isSome = true) ∧
    (let m := fun (f : (Dev → Dev) → Mach) => f fun d => images true { d with saved := [aside] }
     ((m idle).claims.all fun c => !(m idle).dev.claimHeld c && match c with | .saved k x => k == 0 && x == aside | _ => false) = true ∧ (m idle).claims.length = 1 ∧
     (m idle).placeFor ((m idle).dev.wantSaved aside) = some .p0 ∧ (m other).claims.length = 1 ∧ (m other).placeFor ((m other).dev.wantSaved aside) = none) ∧
    waits.ended < waits.nthr ∧ { waits with ended := 1 }.nthr ≤ { waits with ended := 1 }.ended := by
  refine ⟨by decide +kernel, fun f h => ?_, by decide +kernel, by decide +kernel, by decide +kernel, by decide, by decide⟩
  rcases List.mem_cons.mp h with rfl | h
  · decide +kernel
  · cases List.mem_singleton.mp h
    decide +kernel
/-- A context that does not read, of a launch that a debugger is attached to and of one that it is not. -/
theorem witness_no_context : (idle fun d => d).dev.dbg.attached = [] ∧ (idle fun d => { d with dbg := { d.dbg with attached := [0] } }).dev.dbg.attached.contains 0 = true ∧
    (((idle id).probeAll 0 ((idle id).dev.ctxtReads 0 0x80000000)).dev.ctxt 0 0x80000000).toOption.isNone = true := by decide +kernel
/-- A pool change before its time and at it, on a core without threads, with a clean and a dirty line. -/
theorem witness_pools : let m := lab 0 (fun t => { t with status := .empty }) (fun k => { k with reconf := some (16384, #v[0x80000, 0x180000, 0x180000]) }) fun d => { d with acyc := 16384 }
    m.core.reconf = some (16384, #v[0x80000, 0x180000, 0x180000]) ∧ ¬m.dev.acyc < 16384 ∧ (idle id).dev.acyc < 16384 ∧ m.thr0.live = false ∧ m.thr1.live = false ∧ m.core.l1 = [] ∧
    (lab 0).thr0.live = true := by decide +kernel
/-- A thread with a rival and one without. -/
theorem witness_yield : (lab 0).isSec = false ∧ ((lab 0).dev.waiting 0 0).length = 0 ∧
    (let m := lab 0 (fun t => { t with prio := 1, kern := { t.kern with pool := #v[0x80000, 0x90000, 0x90000] } }) id fun d => { d with launches := [waits] }
     ((m.dev.waiting m.core.die (m.core.cluster % 9)).any fun w => m.t.prio ≤ w.1 && w.2.pool = m.t.kern.pool) = true) := by decide +kernel
/-- A quantum that ends with nobody waiting, and with a launch of level 1 waiting for a place where a thread of level 0 stands, or one of its level for long or not for long; waits of 2^24 cycles
and less. -/
theorem witness_quanta : let m := fun (n : Nat) (s : Nat) => lab 0 (fun t => { t with prio := n }) id fun d => { d with acyc := 65536, launches := [waits], slice := s }
    (m 0 16).dev.quantum < (m 0 16).dev.acyc / 65536 ∧ (lab 0).dev.acyc / 65536 ≤ (lab 0).dev.quantum ∧ ((List.range 9).flatMap fun c => (lab 0).dev.waiting 0 c).length = 0 ∧
    (((List.range 9).flatMap fun c => (m 0 16).dev.waiting 0 c).all fun w => w.1 == 1) = true ∧ ((List.range 9).flatMap fun c => (m 0 16).dev.waiting 0 c).length = 9 ∧
    ((m 0 16).placedThr.all fun t => t.prio < 1) = true ∧ (m 0 16).placedThr.length = 1 ∧
    ((m 1 1).placedThr.all fun t => t.prio == 1 && t.placedAt + (m 1 1).dev.slice * 65536 ≤ (m 1 1).dev.acyc) = true ∧
    ((m 1 16).placedThr.all fun t => 1 ≤ t.prio && !(t.placedAt + (m 1 16).dev.slice * 65536 ≤ (m 1 16).dev.acyc)) = true ∧
    (aside.auto = true ∧ aside.kids = 0 ∧ aside.since + 2 ^ 24 * (aside.boost + 1) ≤ 2 ^ 24 ∧ 2 ^ 24 - 1 < aside.since + 2 ^ 24 * (aside.boost + 1) ∧ aside.level < 3) ∧
    (waits.nextTid < waits.nthr ∧ waits.since + 2 ^ 24 * (waits.boost + 1) ≤ 2 ^ 24 ∧ waits.prio < 3) := by decide +kernel
/-- A thread ready to be saved, whose area is there on dies that run, and one that is not; a saved context to restore, and an image that is none. -/
theorem witness_saves : (let m := (lab 0 fun t => { t with status := .saving, save := 0x800000 }).at_ .p0
     m.thr0.paired = false ∧ m.t.saveReady = true ∧ m.dev.milepost < m.t.saveFrom + 2 ^ 26 ∧
     (match m.dev.engRange m.t.asid m.t.save m.areaSize true with | .ok ps => ps.all fun p => !m.dev.stops p.1 p.2 | _ => false) = true) ∧ ((lab 0).at_ .p0).t.saveReady = false ∧
    (let m := idle fun d => images true { d with saved := [aside] }
     let n := m.probeAll 0 [(aside.area, ctxSize 0), (aside.area + BitVec.ofNat 64 (spOff 0), aside.spad + aside.spad / 128)]
     (m.dev.wantSaved aside).T = 0 ∧ ((n.dev.ctxt 0 0x510000).toOption.map fun c => (c.hdr.num 0 4, c.flags.getLsbD 0, c.T)) = some (0x46580001, true, 0) ∧
     n.dev.rangePoisoned 0 0x510000 (spOff 0 + aside.spad + aside.spad / 128) = false ∧ (n.dev.areaSpad aside 0 aside.spad).toOption.isSome = true) ∧
    (let d := (idle fun d => images false { d with saved := [aside] }).dev
     ((d.ctxt 0 0x510000).toOption.map fun c => c.flags.getLsbD 0) = some false) := by decide +kernel
/-- Threads at the waypoint bounds, running and in a debug halt, with a request and without; saves whose area faults, that meet an error and that are not done in time. -/
theorem witness_fatal : (lab 0).t.status = .running ∧ (lab 0).t.halted = none ∧ (lab 0 fun t => { t with preq := true, wayp := 2 ^ 22 }).t.preq = true ∧
    2 ^ 22 ≤ (lab 0 fun t => { t with preq := true, wayp := 2 ^ 22 }).t.wayp ∧ 2 ^ 24 ≤ (lab 0 fun t => { t with wayp := 2 ^ 24, halted := some .breakpoint }).t.wayp ∧
    (∀ c v, StopK.breakpoint ≠ .fault c v) ∧
    ((lab 0 fun t => { t with preq := true, wayp := 2 ^ 22 - 1 }).t.wayp < 2 ^ 22) ∧ (lab 0 fun t => { t with status := .saving }).t.status = .saving ∧
    (let m := lab 0 fun t => { t with status := .saving, save := 0x40000000 }
     (match m.dev.engRange 0 m.t.save m.areaSize true with | .fault _ => true | _ => false) = true) ∧ 0 + 2 ^ 26 ≤ (lab 0 id id fun d => { d with milepost := 2 ^ 26 }).dev.milepost := by
  refine ⟨rfl, rfl, rfl, by decide, by decide, (fun _ _ h => by cases h), by decide, rfl, by decide +kernel, by decide⟩
/-- A thread that is ready to end, and one that is not. -/
theorem witness_ends : ((lab 0 fun t => { t with status := .ending 0 none }).at_ .p0).endReady = true ∧
    ((lab 0 fun t => { t with status := .ending 0 none, land := [⟨.s 0, 9, allLanes, .home, 0, 0, false, none, none, 0, false, []⟩] }).at_ .p0).endReady = false ∧ (lab 0).thr0.paired = false := by decide +kernel

/-! ### Statements have cases: what reaches a core, engines at work, traps, pages, errors, debug stops -/

/-- Results in flight to `sa0.r`: one due, a later one due, one not due. -/
theorem witness_results : let q := fun n : Nat => (⟨.inl .sa0r, n, n, allLanes, BitVec.ofNat 64 n, VVal.zero⟩ : Pend)
    let a := (lab 0 fun t => { t with time := 5, prim := { t.prim with pend := [q 4, q 5, q 6] } }).at_ .p0
    a.t.live = true ∧ a.st.tau = none ∧ a.st.pend = [q 4] ++ q 5 :: [q 6] ∧ (q 5).due ≤ a.t.time ∧ a.t.time < (q 6).due ∧ (∀ r ∈ [q 4], r.due ≤ (q 5).due) ∧ (q 5).port ≠ .inl .sa1r := by
  decide +kernel
/-- Bundles held by nothing, by an interlock, and by a wait released and not. -/
theorem witness_held : let h := fun x : Hold => (lab 0 fun t => { t with prim := { t.prim with hold := x } }).due.at_ .p0
    (h .none).st.hold = .none ∧ (h .other).st.hold = .other ∧ (h (.waiting [3])).st.hold = .waiting [3] ∧ (h (.waiting [])).st.hold = .waiting [] ∧ Hold.other ≠ .none ∧
    ∀ r, Hold.other ≠ .waiting r := by
  refine ⟨?_, ?_, ?_, ?_, by decide, fun _ h => by cases h⟩ <;> decide +kernel
/-- A tile operation due, one A-cycle early, and in a halted thread. -/
theorem witness_tile_operation : let a := fun (n : Nat) (h : Option StopK) => (lab 0 fun t => { t with time := n, halted := h, tops := [⟨5, .zeroA 7⟩] }).at_ .p0
    (a 4 none).t.live = true ∧ (a 4 none).t.tops = [⟨5, .zeroA 7⟩] ∧ (a 4 none).t.time < 5 ∧ 5 ≤ (a 5 none).t.time ∧ (a 0 (some .peer)).t.halted ≠ none ∧ 5 ≤ (a 0 (some .peer)).t.time + 2 ^ 40 ∧
    (lab 0).dev.dbg.tileWrites = [] ∧ (a 4 none).t.halted = none := ⟨rfl, rfl, by decide, by decide, by decide, by decide, rfl, rfl⟩
/-- A landing of a source, due at `n`, without its data or with it. -/
def landing (src : LandSrc) (n : Nat) (v : Option VVal) : Landing := ⟨.s 3, n, allLanes, src, 0, 0, false, v, none, 0, false, []⟩
/-- Landings that may be read, that have their data, that are due, and that are late. -/
theorem witness_landings : let a := fun (l : Landing) => (lab 0 fun t => { t with time := 5, land := [l] }).at_ .p0
    let l := landing (.scalar 120 8 true) 5 none
    (a l).t.land[0]? = some l ∧ l.data = none ∧ (a l).mayBind l = true ∧ (a l).core.armed = none ∧ (a l).dev.repl = [] ∧
    (match (a l).coreRange 120 8 false with | .ok r => r == [(120, 8)] | _ => false) = true ∧ 120 % 128 + 8 ≤ 128 ∧ inMgmt 120 = false ∧ (a (landing (.cluster 0 []) 5 none)).mayBind (landing (.cluster 0 []) 5 none) = true ∧
    (a l).t.runs = true ∧ (a l).lateOn .p0 = true ∧ (landing .home 5 (some VVal.zero)).data.isSome = true ∧ (a (landing .home 5 (some VVal.zero))).lateOn .p0 = false ∧
    (a (landing .home 5 (some VVal.zero))).t.land.filter (fun l => l.due ≤ 5 && l.data.isSome && l.dst ≠ .lsr && l.poison.isNone) = [landing .home 5 (some VVal.zero)] ∧
    (lab 0 fun t => { t with status := .empty }).thr0.runs = false := by decide +kernel
/-- A line whose fill is outstanding and not held up, an absent line, an `ls` free and occupied. -/
theorem witness_fills : let m := lab 0 id (held 1)
    (m.core.line 0).isSome = true ∧ (⟨0, Vector.replicate 128 7, 1, false, 0, [], ⟨0, 0, none⟩, 0⟩ : L1Line).filling = true ∧ m.lineHeld 0 = false ∧ m.core.line 1 = none := by decide +kernel
/-- The second gibibyte of the space has a leaf whose page is not in place. -/
def away (d : Dev) : Dev := { d with mem := Mem.writeN d.mem 0x200008 (leBytes 8 0x16) }
/-- A home operation that may perform, and none; a home atomic on a word of memory; ones on a page that is not in place and on one that no leaf names. -/
theorem witness_performs : let h : Hop := ⟨0, 0, 0, false, 0x40, .atom .addI 8 false 1 0 0 0⟩
    let m := (lab 0 fun t => { t with hops := [h], land := [landing .home 9 none] }).at_ .p0
    m.t.hops.filter m.hopReady = [h] ∧ ((lab 0).at_ .p0).t.hops = [] ∧ (match m.hopParts h with | .ok r => r == [(0x40, 8)] | _ => false) = true ∧ m.dev.poisoned 0x40 8 = false ∧ m.dev.mem.wf = true ∧
    (∀ i < 8, m.dev.isProtected (0x40 + i) = false) ∧ (landing .home 9 none).src = .home ∧ (landing .home 9 none).seq = h.seq ∧ (landing .home 9 none).issued = h.time ∧
    (2 ^ 64 - 1 < 2 ^ (8 * 8) ∧ 2 ^ 32 - 1 < 2 ^ (8 * 4)) ∧ m.core.armed = none ∧ inMgmt 0x40 = false ∧
    (match (lab 0 id id away).hopParts { h with dva := 0x40000000 } with | .absent _ => true | _ => false) = true ∧
    (match m.hopParts { h with dva := 0x80000000 } with | .fault _ => true | _ => false) = true := by decide +kernel
/-- Monitors hit, not hit, polled with a word that differs and one that does not; bindings whose milestone is done, poisoned, and not done; replicas left behind and not. -/
theorem witness_monitors : let r := (lab 0).t.ref
    let d := (lab 0 id id (images false)).dev
    let p := ({ d with mem := Mem.writeN d.mem 0x600008 (leBytes 8 0x60) } : Dev)
    d.num 0x600040 8 = (0 : Word).toNat ∧ d.num 0x600008 8 ≠ (0 : Word).toNat ∧ (d.num 0x600008 8).testBit 5 = true ∧ (d.num 0x600008 8).testBit 6 = false ∧
    (p.num 0x600008 8).testBit 5 = true ∧ (p.num 0x600008 8).testBit 6 = true ∧ (d.num 0x600048 8).testBit 5 = false ∧
    (⟨0x600000, r, 1, none, true, false, 0x600000, 0⟩ : Bind).peer = false ∧ (⟨0x600040, r, 1, 8, 0, true, false⟩ : Mon).hit = false ∧ (lab 0).thr0.live = true ∧
    (lab 0).thr0.status = .running := by decide +kernel
/-- A command of the thread on place 0, at A-cycle 0. -/
def cmd (kind : CmdK) (started : Bool) (done failed : List Nat) (ans : List (Nat × Bool)) (d : Dev) : Dev :=
  { d with cmds := [⟨7, State.reset.m.thr0.ref, 0, .p0, 3, 3, kind, ⟨none, false, none⟩, started, done, failed, ans, 0, false, [], [], []⟩] }
/-- A copy of 64 bytes of memory from `a` to 0. -/
def copies (a : Word) : CmdK := .copy 0 1 a 0 [64] [] []
/-- A command that may start, one that is held by an earlier landing, by an earlier operation and by a write-back in the other place's order; an exchange with the lay-by queue full;
a copy with a segment, an `unwind` and a copy with nothing to write; clocks that run. -/
theorem witness_starts : let m := lab 0 id id (cmd (copies 0) false [] [] [])
    let n := lab 0 (fun t => { t with hops := [⟨0, 3, 0, false, 0, .consume⟩], land := [landing .home 9 none] }) id (cmd (copies 0) false [] [] [])
    let k := { m with thr1 := { m.thr1 with ref := ⟨5, 0, none⟩, hops := [⟨0, 3, 0, false, 0, .writeBack [] 0 [m.t.ref]⟩] } }
    (m.dev.cmds.find? fun c => c.pl = .p0 && !c.started).isSome = true ∧ (m.thrOf m.t.ref).isSome = true ∧ m.t.hops = [] ∧ m.t.land = [] ∧ m.strayed m.t.ref m.core.cyc = false ∧
    ((n.thrOf n.t.ref).map fun t => (t.hops.any fun h => h.time ≤ 3, t.land.any fun l => l.issued < 3 && l.data.isNone)) = some (true, true) ∧ k.strayed k.t.ref k.core.cyc = true ∧
    256 ≤ (lab 0 id fun k => { k with layby := List.replicate 256 ⟨7, 0, [], [], 0⟩ }).core.layby.length ∧ (nth m.dev.pwr m.core.die).tripped.isSome = false ∧
    (nth (lab 0 id id fun d => { d with pwr := d.pwr.set 0 ⟨520, 0, none, none, some 0, none⟩ }).dev.pwr 0).tripped.isSome = true ∧
    (copies 0).segs ≠ 0 ∧ (CmdK.copy 0 1 0 0 [0] [] []).segs = 0 ∧ Spool.zero.filled = 0 := by decide +kernel
/-- Segments of a copy: pages in place, a fault, a page that is not resident, a stopped die; a row; pages of `prefh` and `migr`, in place and faulting, an earlier `migr` of the page;
failed and done segments; retries and none; a granule that has not landed. -/
theorem witness_segments : let m := lab 0 id id fun d => away (cmd (copies 0) true [] [] [] d)
    let stopped := lab 0 id id fun d => { cmd (copies 0x600000) true [] [] [] d with pwr := setNth d.pwr 3 ⟨520, 0, none, none, some 0, none⟩ }
    let on := fun (k : CmdK) => (m.dev.cmd? 7).map fun c => (match m.movesRange c (k.moves 0) with | .ok _ => 0 | .absent _ => 1 | .fault _ => 2, m.sidesStop c (k.moves 0))
    on (copies 0) = some (0, false) ∧ on (copies 0x40000000) = some (1, false) ∧ on (copies 0x80000000) = some (2, false) ∧ on (.gath [(some 0, 0)] 0 0 4 none) = some (0, false) ∧
    ((stopped.dev.cmd? 7).map fun c => stopped.sidesStop c ((copies 0x600000).moves 0)) = some true ∧ m.dev.retrying 7 0 = false ∧
    (grainsOf ((copies 0).moves 0))[2]?.isSome = true ∧ ((0, 2) : Nat × Nat) ∉ ([] : List (Nat × Nat)) ∧
    ((lab 0).dev.cmd? 7) = none ∧ ((lab 0 id id (cmd .enq true [0] [1] [])).dev.cmd? 7).map (fun c => (c.done, c.failed, c.started)) = some ([0], [1], true) ∧
    (match m.dev.walk 0 (0 + BitVec.ofNat 64 (65536 * 1)) false false with | .ok pa _ _ => pa == 65536 | _ => false) = true ∧ m.dev.walk 0 (0x80000000 + BitVec.ofNat 64 (65536 * 0)) false false = .fault ∧
    (m.dev.cmds.any fun c => m.dev.migrBefore c 0) = false ∧
    (let d := cmd (.migr 0 1 false) true [] [] [] m.dev
     let e : Dev := { d with cmds := d.cmds ++ d.cmds.map fun c => { c with id := 8 } }
     e.cmds.map fun c => e.migrBefore c 0) = [false, true] := by
  decide +kernel
/-- A device with nothing that waits; a command without a retry, one whose retry is due and one whose retry is not. -/
theorem witness_retries : let m := fun (at_ : Word) => lab 0 id id fun d => { cmd (copies 0) true [] [] [] d with retryAt := [(7, 0, at_)] }
    (lab 0).dev.later = [] ∧ (lab 0).runLater.dev.cmd? 7 = none ∧ (m 0).runLater.dev.retrying 7 1 = false ∧
    ((m 0).runLater.dev.cmd? 7).map (fun c => c.id) = some 7 ∧ (m 0).runLater.dev.retryAt.find? (fun e => e.1 = 7 && e.2.1 = 0) = some (7, 0, 0) ∧
    (nth (m 0).runLater.dev.pwr 0).tripped = none ∧ (0 : Word).toNat ≤ (m 0).runLater.dev.milepost ∧ (m 1).runLater.dev.milepost < (1 : Word).toNat := by decide +kernel
/-- A block that a compression fits into its space. -/
theorem witness_compresses : let m := lab 0 id id (cmd (.cmpx false 0 0 1 64) true [] [] [])
    (m.dev.cmds.head?.map fun c => (match (m.cmpBlock c 0).1 with | .ok _ => true | _ => false)) = some true ∧
    (m.dev.cmds.head?.map fun c => match m.movesRange c [(.spad 0, .cs 0, 256)], m.movesRange c [(.cs 0, .spad 0, 256)] with | .ok _, .ok _ => true | _, _ => false) = some true := by decide +kernel
/-- 256 bytes that pack into 32, and bytes that do not pack. -/
theorem witness_packs : (List.replicate 256 (0 : Byte)).length = 256 ∧ (packed (List.replicate 256 0)).length ≤ 32 ∧ (packed (List.replicate 256 1)).take 32 = List.replicate 32 0xFF := by decide +kernel
/-- Winders: a read spool with a free slot and its next vector, a full one; a write spool with a filled slot, an empty one; a translation that the last level keeps. -/
theorem witness_winders : let m := fun (w r : BitVec 32) (dir : Bool) => lab 0 (fun t => let u := ring false w r 2 t; { u with spools := u.spools.set 2 { u.spools[2] with dir := dir } }) id (fun d => { d with tlb := [⟨0, 0, 30, 0x17⟩] })
    let x := fun (w r : BitVec 32) (dir : Bool) => nth (m w r dir).thr0.spools 2
    ((m 0 0 false).cur = .p0 ∧ (m 0 0 false).t.live = true ∧ (nth (m 0 0 false).dev.pwr (m 0 0 false).core.die).tripped = none ∧ (m 0 0 false).dev.cmds = [] ∧ (x 0 0 false).bound = true ∧
      (x 0 0 false).handle = false ∧ (m 0 0 false).dev.repl = [] ∧ (m 0 0 false).core.armed = none ∧ inMgmt 0 = false ∧ (m 0 0 false).dev.stops 0 256 = false ∧
      (tlbHit (m 0 0 false).dev.tlb 0 0).isSome = true ∧ (m 0 0 false).t.spad.wf = true ∧ (m 0 0 false).dev.mem.wf = true) ∧
    ((x 0 0 false).next.toNat < (x 0 0 false).total ∧ (x 0 0 false).filled < (x 0 0 false).nslot ∧ (x 0 0 false).dva (m 0 0 false).t 0 = some 0) ∧
    (match (m 0 0 false).dev.engRange 0 0 256 false with | .ok r => r == [(0, 256)] | _ => false) = true ∧ (match (m 0 0 false).dev.engRange 0 0 256 true with | .ok r => r == [(0, 256)] | _ => false) = true ∧
    ((x 1 0 true).filled ≠ 0 ∧ (x 1 0 true).dir = true ∧ (x 1 0 true).skip = [] ∧ (x 1 0 true).dva (m 1 0 true).t 0 = some 0) ∧ (x 4 0 false).nslot ≤ (x 4 0 false).filled ∧ (x 0 0 true).filled = 0 ∧
    (∀ i < 256, (lab 0).dev.isProtected (0 + i) = false) := by decide +kernel
/-- A device number that is not this one's. -/
theorem abroad : ∃ n, (CmdK.xchg false [0] 128 n 0 0 132 0).abroad = true := by
  refine ⟨(Config.deviceNo + 1) % 4096, ?_⟩
  simp only [CmdK.abroad, Bool.and_eq_true, decide_eq_true_eq, ne_eq]
  omega
/-- An exchange on this device, with its row quantised. -/
def exchange (ans : List (Nat × Bool)) (d : Dev) : Dev :=
  let d := cmd (.xchg false [0] 128 0xFFFFFFFF 0 0 132 0) true [] [] ans d
  { d with cmds := d.cmds.map fun c => { c with rows := [(0, List.replicate 132 0, [])] } }
/-- An exchange on this device with a row to send, answered and not; a row for another device, with a port to leave by; a queue of parked rows that is empty, holds one, is full; rows to replay now
and later, of a command that is there and of none. -/
theorem witness_exchange : let m := lab 0 id id (exchange [])
    ((m.dev.cmd? 7).map fun c => (m.maySend c 0, m.maySend c 1, c.kind.abroad, (c.rows.find? fun e => e.1 = 0).isSome, (c.rows.find? fun e => e.1 = 1).isSome, c.id)) =
      some (true, false, false, true, false, 7) ∧
    m.dev.dmsAbsent 0 0 = false ∧ (m.dev.send m.core.die 5 (.row 0 0 (List.replicate 132 0) [] 0 0)).isSome = true ∧
    (((lab 0 id id (exchange [(0, true)])).dev.cmd? 7).map fun c => (c.kind.abroad = false ∧ ((0, true) : Nat × Bool) ∈ c.ans : Bool)) = some true ∧ ((0, true) : Nat × Bool) ∉ ([] : List (Nat × Bool)) ∧
    (((lab 0 id id (exchange [(0, false)])).dev.cmd? 7).map fun c => (c.kind.abroad = false ∧ ((0, false) : Nat × Bool) ∈ c.ans : Bool)) = some true ∧
    m.core.layby = [] ∧ m.core.layby.length < 256 ∧ 256 ≤ (List.replicate 256 (⟨7, 0, [], [], 0⟩ : LayRow)).length ∧
    2048 ≤ (lab 0 id id fun d => { d with milepost := 2048 }).dev.milepost ∧ m.dev.milepost < 2048 ∧ m.dev.cmd? 8 = none ∧ (nth m.dev.pwr m.core.die).tripped = none ∧
    (∃ n, (CmdK.xchg false [0] 128 n 0 0 132 0).abroad = true) := by
  refine ⟨?_, ?_, ?_, ?_, ?_, ?_, ?_, ?_, ?_, ?_, ?_, ?_, ?_, abroad⟩ <;> decide +kernel
/-- Rows sent 16,000,000 A-cycles ago and later, once and twice, quantised; landings without data as old as that, sent once and twice, of a thread and of a command's block table. -/
theorem witness_timeouts : let m := fun (n : Nat) (d : Nat) (dst : LandDst) => lab 0 (fun t => { t with land := [{ landing (.scalar 0 8 false) 9 none with dst := dst, again := n = 2 }] }) id (fun x =>
        let x := cmd (.xchg false [0] 128 d 0 0 132 0) true [] [0] [] x
        { x with acyc := 16000000, cmds := x.cmds.map fun c => { c with rows := [(0, List.replicate 132 0, [])], sends := [(0, 0, n = 2)] } })
    0 + 16000000 ≤ (m 1 0 (.s 3)).dev.acyc ∧ ¬0 + 16000000 ≤ (lab 0).dev.acyc ∧
    (∀ n ∈ [1, 2], (m n 0 (.s 3)).t.land[0]?.map (fun l => (l.data, l.sentAt, l.again, l.dst)) = some (none, 0, decide (n = 2), .s 3) ∧
      (m n 0 (.table 7)).t.land[0]?.map (fun l => (l.data, l.sentAt, l.again, l.dst)) = some (none, 0, decide (n = 2), .table 7) ∧ ((m n 0 (.table 7)).dev.cmd? 7).isSome = true) ∧
    (((m 1 0 (.s 3)).dev.cmd? 7).bind fun c => c.sends.find? fun e => e.1 = 1) = none ∧
    ((lab 0 id id fun _ => (m 1 0 (.s 3)).dev).dev.send 0 5 (.row 0 0 [] [] 0 0)).isSome = true ∧
    (({ (lab 0).dev with ports := Vector.replicate 30 ⟨8, true, false, 0, 0, [], none⟩ } : Dev).send 0 5 (.row 0 0 [] [] 0 0)).isNone = true ∧
    ∃ d, ∀ n ∈ [1, 2], ((m n d (.s 3)).dev.cmd? 7).map (fun c => (c.kind.abroad, c.sends.find? (fun e => e.1 = 0), (c.rows.find? fun e => e.1 = 0).isSome)) =
      some (true, some (0, 0, decide (n = 2)), true) := by
  obtain ⟨d, h⟩ := abroad
  refine ⟨by decide +kernel, by decide +kernel, fun n hn => ?_, by decide +kernel, by decide +kernel, by decide +kernel, d, fun n hn => ?_⟩
  · rcases List.mem_cons.mp hn with rfl | hn
    · decide +kernel
    · cases List.mem_singleton.mp hn; decide +kernel
  · rcases List.mem_cons.mp hn with rfl | hn
    · exact congrArg (fun b => some (b, some (0, 0, false), true)) h
    · cases List.mem_singleton.mp hn; exact congrArg (fun b => some (b, some (0, 0, true), true)) h
/-- A skein of the thread alone at 0x40, with a collective command. -/
def team (d : Dev) : Dev :=
  { cmd (.coll 0 0 2 0x40 0x80 0x80 4) true [] [] [] d with skeins := [⟨0x40, 1, false, [State.reset.m.thr0.ref], false, []⟩] }
/-- An instance of that skein, with commands, or poisoned. -/
def inst (parts : List TRef) (cmds : List (TRef × Nat)) (bad : Bool) : CollInst := ⟨0x40, 0, 1, parts, (0, 0, 2, 4), cmds, [], bad⟩
/-- A collective whose first command performs and a later one; instances that are complete, wait, are poisoned with a command, with nobody left; buffers in place, on an absent page, on a stopped die. -/
theorem witness_collectives : let m := lab 0 id id team
    let r := m.t.ref
    let n := lab 0 id id fun d => { team d with insts := [inst [r] [(r, 7)] false] }
    ((m.dev.cmd? 7).bind fun c => (m.collReady c).map fun p => (p.1, p.2.turn c.own)) = some (0x40, 0) ∧ m.dev.insts = [] ∧ (inst [r] [] false).skein = 0x40 ∧ (inst [r] [] false).k = 0 ∧
    ((m.dev.cmd? 7).map fun c => ((m.collHeld 1 c).isNone, m.sidesStop c (c.collEnds 1), m.dev.retrying c.id 0)) = some (true, false, false) ∧
    (let k := lab 0 id id fun d => away (cmd (.coll 0 0 2 0x40 0x40000000 0x80 4) true [] [] [] d)
     ((k.dev.cmd? 7).map fun c => ((k.collHeld 1 c).isSome, k.sidesStop c (c.collEnds 1))) = some (true, false)) ∧
    (let k := lab 0 id id fun d => { cmd (.coll 0 0 2 0x40 0x600000 0x80 4) true [] [] [] d with pwr := setNth d.pwr 3 ⟨520, 0, none, none, some 0, none⟩ }
     ((k.dev.cmd? 7).map fun c => k.sidesStop c (c.collEnds 1)) = some true) ∧
    (n.dev.insts.find? fun i => i.skein = 0x40 && i.k = 0) = some (inst [r] [(r, 7)] false) ∧ (inst [r] [] false).has r = false ∧ (inst [r] [(r, 7)] false).parts = [r] ∧
    (inst [r] [(r, 7)] true).poisoned = true ∧ (inst [] [] true).parts = [] ∧ (inst [] [] true).cmds = [] ∧ (inst [] [] true).far = [] ∧
    (nth m.dev.pwr m.core.die).tripped = none := by decide +kernel
/-- Traps with a debugger attached, with a region and with none, in a thread of a pair. -/
theorem witness_traps : (lab 0).t.ref.launch ∉ (lab 0).dev.dbg.attached ∧ 0 ∈ (lab 0 id id fun d => { d with dbg := { d.dbg with attached := [0] } }).dev.dbg.attached ∧ (lab 0).t.regions = [] ∧
    (lab 0 fun t => { t with regions := [⟨8, 7, false, 0, 0⟩] }).t.regions = ⟨8, 7, false, 0, 0⟩ :: [] ∧ (lab 0 fun t => { t with paired := true }).t.paired = true := by decide +kernel
/-- Threads running, stopping and ending with a fault or an unwinding that is due, or none; with a region that the unwinding targets and without; by poison, by an uncorrected error, by a checksum
failure and by a `crabort`. -/
theorem witness_unwinds : let t := fun (st : ThrSt) (c : Nat) (rs : List Region) => (lab 0 fun t => { t with status := st, regions := rs, xfaults := [⟨0x40, none⟩], unw := [⟨c, 7, none, 0, 0⟩] }).t
    (∀ st ∈ [ThrSt.running, .saving, .ending 0 none], (t st 0x80 []).xready = some ⟨0x40, none⟩ ∧ (t st 0x80 []).status = st) ∧
    (∀ st ∈ [ThrSt.running, .saving], ∀ c ∈ [0x41, 0x80, 0x81, 0x82, 0x83, 0x85],
      (t st c []).unw.filter (fun u => u.due ≤ (t st c []).time) = [⟨c, 7, none, 0, 0⟩] ∧ (t st c []).halted = none ∧ (t st c []).target ⟨c, 7, none, 0, 0⟩ = none ∧
      (t st c [⟨8, 7, false, 0, 0⟩]).target ⟨c, 7, none, 0, 0⟩ = some (⟨8, 7, false, 0, 0⟩, [])) ∧
    ([(⟨0x81, 7, none, 0, 0⟩ : Unw)].filter fun x => x.cause = 0x81) = ⟨0x81, 7, none, 0, 0⟩ :: [] ∧
    (lab 0).t.xready = none ∧ (lab 0).t.unw = [] ∧ (lab 0 fun t => { t with halted := some .peer }).t.halted ≠ none ∧ (lab 0 fun t => { t with status := .empty }).t.status = .empty ∧
    (lab 0 fun t => { t with status := .ending 0 none }).t.status ≠ .running := by
  decide +kernel
/-- A leaf entry that lies beside the pages it names: with these bits, of one gibibyte at 0. -/
def leafy (e : Nat) (d : Dev) : Dev := { d with mem := Mem.writeN (Mem.writeN d.mem 0x1000 (leBytes 8 0x80200001)) 0x80200000 (leBytes 8 e) }
/-- Leaves present, absent, marked for firmware, pinned, and pinned while they leave; pages that move a gibibyte on, and one that is asked to the second tier. -/
theorem witness_pages : (∀ e ∈ [0x16, 0x17, 0x57, 0x97, 0xD7], let m := lab 0 id id (leafy e)
      m.dev.leafAt 0 0 = some (0x80200000, 30) ∧ m.dev.num 0x80200000 8 = e ∧ m.dev.moversOn 0 (0, 2 ^ 30) = [] ∧ m.inFlight 0 (2 ^ 30) = false ∧ m.core.l1 = [] ∧ m.dev.cmds = [] ∧
      m.dev.later = [] ∧ m.dev.heaps = [] ∧ m.dev.mem.wf = true) ∧
    ((0x16 : Word).getLsbD 0 = false ∧ (0x17 : Word).getLsbD 0 = true ∧ (0x17 : Word).getLsbD 6 = false ∧ (0x57 : Word).getLsbD 6 = true ∧ (0x17 : Word).getLsbD 7 = false ∧
      ((0x97 : Word).getLsbD 7 = true ∧ (0x97 : Word).getLsbD 6 = false) ∧ ((0xD7 : Word).getLsbD 7 = true ∧ (0xD7 : Word).getLsbD 6 = true)) ∧
    (0x40000000 % 2 ^ 30 = 0 ∧ (lab 0).dev.paOk 0x40000000 = true ∧ (lab 0).dev.paOk (0x40000000 + 2 ^ 30 - 1) = true ∧ inMgmt 0x40000000 = false ∧ inMgmt 0 = false ∧
      0x40000000 + 2 ^ 30 ≤ 0x80200000) ∧
    (let d := (lab 0 id id fun d => { d with cxl := 1, cxlPages := 2 ^ 15 }).dev
     0x200000000000 % 2 ^ 30 = 0 ∧ d.paOk 0x200000000000 = true ∧ d.paOk (0x200000000000 + 2 ^ 30 - 1) = true ∧ inMgmt 0x200000000000 = false) := by decide +kernel
/-- A wait before its time and at it, of a core without threads; commands that are well formed and malformed, with users of translations and without, whose milestone is in place, on an absent page
and on none; a landing that waits for an absent page. -/
theorem witness_page_waits : let m := lab 0 (fun t => { t with status := .empty }) id fun d => { away d with pageWaits := [⟨0, 0, 0, false⟩], milepost := 2 ^ 28 }
    let q : Ivq := ⟨0, 0, 0x600000, 0, m.t.ref, some 0x600000, 0, false⟩
    (m.dev.pageWaits.find? fun w => w.asid = 0 && w.va.toNat / 0x10000 = 0 && !w.failed) = some ⟨0, 0, 0, false⟩ ∧ 0 + 2 ^ 28 ≤ m.dev.milepost ∧ 2 ^ 28 - 1 < 0 + 2 ^ 28 ∧ m.thr0.live = false ∧
    m.thr1.live = false ∧ m.dev.retryAt = [] ∧ m.dev.cmds = [] ∧ m.dev.insts = [] ∧ m.dev.later = [] ∧ m.dev.saved = [] ∧ m.dev.launches = [] ∧ m.dev.lanes = [] ∧ (∀ k < 4, nth m.dev.lqueue k = []) ∧
    m.dev.ivqBad q = false ∧ m.dev.ivqBad { q with w3 := 1 } = true ∧ m.usersOut = false ∧ (lab 0 id (held 1)).usersOut = true ∧ ({ q with msDva := none } : Ivq).msDva = none ∧
    (∀ e ∈ [((0x600000 : Word), 0), (0x40000000, 1), (0x80000000, 2)], (match (m.invalidate 0 none).dev.xlate 0 e.1 true with | .ok _ _ _ => 0 | .absent => 1 | .fault => 2) = e.2) ∧
    (let n := lab 0 (fun t => { t with land := [landing (.scalar 0x40000000 8 false) 9 none] }) id away
     n.t.land = [landing (.scalar 0x40000000 8 false) 9 none] ∧ (match n.coreRange 0x40000000 8 false with | .absent x => x.toNat / 0x10000 == 0x4000 | _ => false) = true) := by decide +kernel
/-- Units and parts of errors; a failing core; parts on this core and on none; lanes of a port that are left after retirements: 7, 3, none. -/
theorem witness_errors : ((lab 0).dev.inHbm 0 = true ∧ (0 : Word).toNat = (lab 0).core.num ∧ (1 : Word).toNat ≠ (lab 0).core.num ∧ (lab 0 id fun k => { k with failing := true }).core.failing = true ∧
      (lab 0).core.failing = false ∧ (lab 0).core.retired = false ∧ (0x8000000000000000 : Word).getLsbD 63 = true ∧ 2 ^ 63 ≤ (0x8000000000000000 : Word).toNat) ∧
    (∀ e ∈ [([(3, 0, 23)], 7), (List.replicate 5 (3, 0, 23), 3), ([(3, 0, 0x100000017)], 0)], (lab 0 id id fun d => { d with retired := e.1 }).dev.lanesLeft 23 = e.2) ∧
    (23 : Word).toNat % 32 < 30 ∧ (nth (lab 0).dev.ports 23).lanes = 8 := by decide +kernel
/-- Ports that run, retrain and are retired; a flit in sequence and one out of it; packets at the age bound and above, of the live generation and another; memory that is there, on a stopped die, and
no memory; a port alone on its die; generation numbers in quarantine and out of it. -/
theorem witness_twine : let p := fun (x : Port) => (lab 0 id id fun d => { d with ports := d.ports.set 23 x }).dev
    (let x := nth (lab 0).dev.ports 23
     x.lanes ≠ 0 ∧ x.retrain = false ∧ x.badOnce = false ∧ x.rseq = 0 ∧ (1 : BitVec 12) ≠ x.rseq) ∧ portDie 23 = 23 / 6 ∧
    (nth (p ⟨8, true, true, 0, 0, [], none⟩).ports 23).retrain = true ∧ (nth (p ⟨8, false, true, 0, 0, [], none⟩).ports 23).badOnce = true ∧ (nth (p ⟨0, false, false, 0, 0, [], none⟩).ports 23).lanes = 0 ∧
    (¬255 < 255 + 31249 / 31250 ∧ 255 < 255 + 31250 / 31250) ∧ (lab 0).dev.liveGen 5 = 0 ∧ (1 : BitVec 16) ≠ (lab 0).dev.liveGen 5 ∧
    (pktRange (.read 0x40 8) = some (0x40, 8) ∧ pktRange (.rowAck true) = none ∧ (lab 0).dev.memRange 0x40 8 = true ∧ (lab 0).dev.stops 0x40 8 = false ∧
      (lab 0).dev.memRange 0x100000000000 8 = false ∧ (lab 0 id id fun d => { d with pwr := Vector.replicate 4 ⟨520, 0, none, none, some 0, none⟩ }).dev.stops 0x40 8 = true) ∧
    ((lab 0).dev.dmsAbsent 0 0 = false ∧ ((lab 0 id id team).dev.skein? 0x40).isSome = true) ∧
    (let d := (lab 0 id id fun d => { d with ports := (Vector.replicate 30 ⟨0, false, false, 0, 0, [], none⟩).set 23 ⟨8, true, false, 0, 0, [], none⟩ }).dev
     (d.running.all fun q => q / 6 ≠ 3 || q = 23) = true ∧ (∃ q ∈ (p ⟨8, true, false, 0, 0, [], none⟩).running, q / 6 = 3 ∧ q ≠ 23) ∧
     (d.advanceGen 3).egen[3] ≠ d.egen[3] ∧ ({ d with genOld := [(3, 1, 0)] } : Dev).inQuarantine 3 1 = true ∧ ({ d with genOld := [(3, 1, 0)], acyc := 16000000 } : Dev).inQuarantine 3 1 = false) := by
  decide +kernel
/-- A core with a thread and one without; engines at work and not; a whole device, and one that has dropped a die; write-backs on their way; a memory with an image of its second tier. -/
theorem witness_die_drop : ((lab 0).thr0.live = true ∧ (idle id).thr0.live = false ∧ (idle id).thr1.live = false ∧ (idle id).dev.cmds = [] ∧
      (idle (cmd (copies 0) true [] [] [])).dev.cmds.all (fun c => match c.kind with | .wind _ => true | .coll _ _ _ _ _ _ _ => true | _ => false) = false) ∧
    (lab 0).dev.dies = 0xF ∧ (lab 0 id id fun d => { d with dies := 7 }).dev.dies ≠ 0xF ∧ (lab 0).core.die = 0 ∧ (lab 0).core.die < 4 ∧ (lab 0).writesOut = false ∧
    (lab 0 fun t => { t with hops := [⟨0, 0, 0, false, 0, .writeBack [] 0 []⟩] }).writesOut = true ∧
    (lab 0).dev.mem.wf = true ∧ (let d := (lab 0 id id fun d => { d with ckSafe := some ⟨[(0x200000000000, 1)], []⟩ }).dev
      d.ckSafe = some ⟨[(0x200000000000, 1)], []⟩ ∧ Mem.wf [(0x200000000000, 1)] = true ∧ 0x200000000000 / 0x10000 ∉ d.written) ∧ (lab 0).dev.ckSafe = none ∧
    ((linkDies 24).1 = 0 ∧ (linkDies 29).2 = 3) := by decide +kernel
/-- A thread at a breakpoint of its launch; halted threads for each reason, and one that is not; launches attached and not, breakpoints set and not. -/
theorem witness_debug : let a := (lab 0 id id (fun d => { d with dbg := { d.dbg with attached := [0], bps := [(0, 0)] } })).at_ .p0
    (a.reaches = true ∧ a.t.ref.launch ∈ a.dev.dbg.attached ∧ (a.t.ref.launch, a.st.pc.toNat) ∈ a.dev.dbg.bps ∧ (Place.p0, a.t.ref, a.st.pc.toNat) ∉ a.dev.dbg.skip ∧ ((lab 0).at_ .p0).t.halted = none ∧
      0 ∉ (lab 0).dev.dbg.attached ∧ (0, 0) ∉ (lab 0).dev.dbg.bps) ∧
    (∀ k ∈ [StopK.breakpoint, .step, .peer, .brkp 1, .trap 1 0, .fault 0x80 0], (lab 0 fun t => { t with halted := some k }).thr0.halted = some k ∧
      (lab 0 fun t => { t with halted := some k }).thr0.live = true) ∧
    (∀ c w, StopK.peer ≠ .fault c w) ∧ (lab 0).thr1.halted = none := by
  refine ⟨by decide +kernel, by decide +kernel, (fun _ _ h => by cases h), rfl⟩
/-- Registers that the debugger writes and registers that are constant, of a halted thread; a spool bound and filled; a privileged thread; latches and ports of scalar and of vector units; a latch
moved whole from s5. -/
theorem witness_debugger_writes :
    let st := { Strm.zero with lsrc := setNth Strm.zero.lsrc FU.sa0.num (Vector.replicate 3 (some (.s 5, allLanes))) }
    let a := (lab 0 fun t => { ring false 4 0 2 t with halted := some .peer, prim := st }).at_ .p0
    a.t.halted ≠ none ∧ (nth a.t.spools 2).bound = true ∧ (nth a.t.spools 2).filled ≠ 0 ∧ (lab 0 fun t => { t with priv := true }).t.priv = true ∧ FU.scalar .sa0 = true ∧ FU.scalar .fa0 = false ∧
    (scalarPort .sa0).isSome = true ∧ a.t.paired = false ∧ nth (nth a.st.lsrc FU.sa0.num) (2 : Fin 3).val = some (.s 5, allLanes) := by
  refine ⟨by decide +kernel, by decide +kernel, by decide +kernel, rfl, rfl, rfl, rfl, rfl, rfl⟩
/-- A context image without sections; memories that are canonical; a step between bundles. -/
theorem witness_reset : (∀ k : Nat, nth (⟨#[], Vector.replicate 12 none⟩ : Ctxt).secs k = none) ∧ State.reset.m.memOk ∧ State.reset.issue = none ∧ ∃ t, step State.reset = .next t :=
  ⟨fun k => by simp [nth], ⟨rfl, trivial, trivial, fun k => by simp [State.reset, Dev.zero, nth, Mem.wf, Mem.wfFrom], rfl, rfl, rfl⟩, rfl, _, rfl⟩
/-- A finite number with a significand, integers and even powers of two among the numbers. -/
theorem witness_special_values : (match fp 0x40400000 with | .fin false m _ => m ≠ 0 | _ => false) = true ∧ (fp 0x40400000).eq (.ofInt 3) = true ∧ (fp 0x40800000).eq (.fin false 1 (2 * 1)) = true ∧
    (fp 0x3F800000).eq (.fin false 1 (2 * 0)) = true ∧ (0 : Lane) < 0x7F800000 ∧ ((fp 0).isZero = true) := by decide +kernel

/-! ### Statements have cases: what waits, what is poisoned, what a stopped die holds back -/

/-- A block table entry that waits for an earlier operation of the thread, whose page is in place. -/
theorem witness_late_table : let m := lab 0 (fun t => { put [(0x1C, 4, 16), (0x24, 4, 1), (0x30, 4, 0xFFFFFFFF)] t with time := 1, hops := [⟨0, 0, 0, false, 0, .atom .addI 4 false 1 0 0 0⟩] })
    ((m.start.now.mapEntries m.t.time 0 1).1.any fun e => match e with | .wait _ => true | _ => false) = true ∧
    ((m.start.now.mapEntries m.t.time 0 1).1.all fun e => match e with | .wait p => p.isNone | _ => true) = true := by decide +kernel
/-- Landings in a next-tile register and in vector registers, whole and in part, with the old value's map and another; a read of poisoned bytes. -/
theorem witness_landing_registers : let a := fun (d : LandDst) (k : BitVec 64) (x : MapD) =>
      let l : Landing := ⟨d, 5, k, .home, 0, 0, false, some ⟨Vec.splat 1, x, [], false⟩, none, 0, false, []⟩;
      let m := (lab 0 fun t => { t with time := 5, land := [l] }).at_ Place.p0;
      m.t.runs = true ∧ (m.lateOn Place.p0) = false ∧ m.t.land.filter (fun l => l.due ≤ m.t.time && l.data.isSome && l.dst ≠ .lsr && l.poison.isNone) = [l]
    a (.w 3) allLanes MapD.none ∧ a (.v .a 5) 5 MapD.none ∧ a (.v .b 5) 5 MapD.opaque_ ∧ a (.v .b 31) allLanes MapD.opaque_ ∧
    (MapD.none.same (nth (lab 0).t.va 5).map = true ∧ MapD.opaque_.same (nth (lab 0).t.vb 5).map = false) ∧
    (lab 0 id id fun d => { d with poison := [1] }).dev.poisoned 120 8 = true ∧ (lab 0).dev.poisoned 120 8 = false := by decide +kernel
/-- A member of a skein that ends: its page is in place on a die that runs; a command whose block table is not read yet. -/
theorem witness_leaves : let a := ((lab 0 (fun t => { t with status := .ending 0 none, skeins := t.skeins.set 0 (some ⟨1, 0x40⟩) }) id fun d => { d with skeins := (team d).skeins }).at_ .p0)
    let q := a.ordered (.drain 1 none none)
    a.endReady = true ∧ a.t.skeins.toList.filterMap (fun k => k.map fun k => k.obj) = [] ++ (0x40 : Word) :: [] ∧ q.dev.xlate a.t.asid 0x40 true = .ok 0x40 0x17 30 ∧ q.dev.stops 0x40 1 = false ∧
    (q.dev.skein? 0x40).isSome = true ∧ (∃ l ∈ (lab 0 fun t => { t with land := [{ landing (.table 0 1) 9 none with dst := .table 7 }] }).t.land, l.dst = .table 7) := by
  refine ⟨?_, ?_, ?_, ?_, ?_, _, List.mem_singleton.mpr rfl, rfl⟩ <;> decide +kernel
/-- Blocks to expand: one that is no marker, a marker with its entry and one without; 256 bytes that take more space than there is. -/
theorem witness_expands : let z := fun (bs : List Byte) (ovf : List (Nat × List Byte)) => lab 0 id id fun d =>
      { cmd (.cmpx true 0 0 1 64) true [] [] [] d with csram := setNth d.csram 0 (Mem.writeN (nth d.csram 0) 0 bs), ovf := setNth d.ovf 0 ovf }
    let r := fun (m : Mach) => (m.dev.cmd? 7).map fun c =>
      let x := m.readSide c (.cs 0) 64
      (decide (x.1.take 32 = List.replicate 32 0xFF), ((nth x.2.2.dev.ovf x.2.2.core.cluster).find? fun e => e.1 = leNat ((x.1.drop 32).take 4)).isSome)
    let marker := List.replicate 32 0xFF ++ leBytes 4 9
    r (z [1] []) = some (false, false) ∧ r (z marker [(9, List.replicate 256 7)]) = some (true, true) ∧ r (z marker []) = some (true, false) ∧ 64 < (packed (List.replicate 256 1)).length := by
  decide +kernel
/-- Rows whose cluster or whose milestone's home is stopped, whose count-down faults, and whose milestone's page is not in place. -/
theorem witness_row_ends : let m := lab 0 id id fun d => away { d with pwr := setNth d.pwr 3 ⟨520, 0, none, none, some 0, none⟩ }
    m.dev.rowStops 27 0 0 = true ∧ m.dev.rowStops 0 0 0x600000 = true ∧ m.dev.rowStops 0 0 0 = false ∧ m.dev.rowStops 26 0 0x80000000 = false ∧
    m.dev.dmsFault 0 0x80000000 = true ∧ m.dev.dmsFault 0 0x40000000 = false ∧ m.dev.dmsAbsent 0 0x40000000 = true ∧ m.dev.dmsFault 0 0 = false ∧ m.dev.dmsAbsent 0 0 = false := by decide +kernel
/-- A skein that halts together; a port whose replay buffer holds packets, one of them of an old generation, and one whose flit failed at the far end; packets that wait for room. -/
theorem witness_replays : let s : Nat → BitVec 16 → Sent := fun die g => ⟨5, die, g, 0, 0, .rowAck true⟩
    let d := (lab 0 id id fun d => { team d with ports := setNth d.ports 23 ⟨8, false, false, 0, 2, [(0, 1, s 3 0), (1, 1, s 3 1)], some 1⟩, waitOut := [(3, 5, .rowFault)] }).dev
    ((d.skein? 0x40).map fun k => ({ k with ht := true }.ht, k.halted)) = some (true, false) ∧ (nth d.ports 23).sbad = some 1 ∧ (nth (lab 0).dev.ports 23).sbad ≠ some 1 ∧
    (d.drops (s 3 0) = false ∧ d.drops (s 3 1) = true ∧ ({ d with acyc := 31250 * 256 } : Dev).drops (s 3 0) = true) ∧ (nth d.ports 23).unack.length = 2 ∧ d.waitOut ≠ [] ∧ (lab 0).dev.waitOut = [] ∧
    ackCovers 1 1 = true ∧ ackCovers 0 1 = false := by decide +kernel
/-- A monitored word, a bound milestone and a dependence of a lane entry on a stopped die; a command of the invalidation queue that has been carried out and whose milestone's home is stopped. -/
theorem witness_stopped_polls : let m := lab 0 id id fun d => { laneAt 0 1 [entry 4 []] d with pwr := setNth d.pwr 3 ⟨520, 0, none, none, some 0, none⟩ }
    m.dev.stops 0x600040 8 = true ∧ m.dev.stops 0x600000 16 = true ∧ m.dev.xlate 0 0x600000 false = .ok 0x600000 0x17 30 ∧ m.dev.xlate 0 0x600000 true = .ok 0x600000 0x17 30 ∧
    m.dev.stops 0 32 = false ∧ ((⟨0, 0, 0x600000, 0, m.t.ref, some 0x600000, 0, true⟩ : Ivq)).done = true := by decide +kernel
/-- An image of the second tier after another safe tier was taken; a core that waits for no injection. -/
theorem witness_safe_tier : (lab 0 id id fun d => { d with ckNew := true }).dev.ckNew = true ∧ (lab 0).dev.ckNew = false ∧ (lab 0).core.armed = none := by decide +kernel
end Sys2Proof.Tests
end

section
/-! SUPPORT. Vectors of equal elements, and the outcomes of a step of the device. -/

namespace Sys2Proof.Machine

/-- Every element of a constant vector, at any index. -/
@[simp] theorem nth_replicate {α : Type} {n : Nat} (x : α) (i : Nat) : nth (Vector.replicate (n + 1) x) i = x := by
  simp [nth]

/-- A vector built of equal elements. -/
theorem ofFn_const {α : Type} (n : Nat) (x : α) : (Vector.ofFn fun _ : Fin n => x) = Vector.replicate n x := by
  ext1 i hi
  simp

/-- A step of the device that changes nothing. -/
theorem event_same {f : Mach → Mach} {s : State} (h : f s.m = s.m) : event f s = .next s := by
  simp [event, h]
/-- A step of the device that leads to a machine. -/
theorem event_on {f : Mach → Mach} {s : State} {m : Mach} (h : f s.m = m) : event f s = .next (s.on m) := by
  simp [event, State.on, h]

/-- Equal outcomes of a step of the device hold equal devices. -/
theorem next_on_dev {s : State} {m m' : Mach} (h : (Host.Outcome.next (s.on m) : Host.Outcome State Fault Refusal) = .next (s.on m')) :
    m.dev = m'.dev :=
  congrArg (fun t : State => t.m.dev) (Host.Outcome.next.inj h)

end Sys2Proof.Machine
end

section
/-! The state after reset and the thread of an image without sections (O59). -/

namespace Sys2Proof.Machine

/-- A section that an image lacks gives its default. -/
theorem Ctxt.sec_absent {c : Ctxt} {k : Nat} (h : nth c.secs k = none) {α : Type} (absent : α) (f : Img → α) :
    c.sec k absent f = absent := by
  simp [Ctxt.sec, h]

/-- At reset every memory is empty, hence canonical. -/
theorem reset_memOk : State.reset.m.memOk := by
  refine ⟨rfl, trivial, trivial, fun k => ?_, rfl, rfl, rfl⟩
  simp [State.reset, Dev.zero, Mem.wf, Mem.wfFrom]

/-- Settles O59: the reset state is closed data, and each field of a thread comes from a section whose absence gives the value of Table 2-3. -/
theorem resetState : Obligations.ResetState := by
  refine ⟨⟨rfl, rfl, rfl, ?_, ?_, rfl, ?_, rfl, rfl, rfl, rfl, reset_memOk⟩, fun c b hsecs => ?_⟩
  · intro d _ k _
    simp [State.reset, Dev.zero]
  · intro d _
    simp [State.reset, Dev.zero]
  · intro k _
    simp [State.reset, Dev.zero]
  · have absent : ∀ (k : Nat) {α : Type} (x : α) (f : Img → α), c.sec k x f = x := fun k => Ctxt.sec_absent (hsecs k)
    simp only [Ctxt.thread, Ctxt.strm, absent, ite_self, ofFn_const]
    refine ⟨rfl, rfl, rfl, rfl, trivial, trivial, rfl, rfl, trivial, trivial, ?_, ?_, trivial, rfl, trivial⟩
    all_goals
      intro i _
      simp [Thr.zero, Spool.zero]

end Sys2Proof.Machine
end

section
/-! Clocks, caps and the time service (O37). -/

namespace Sys2Proof.Machine

/-! ### What exec does with the steps of a die's clock -/

theorem exec_powerCapThrottle (die : Nat) (s : State) : exec (.powerCapThrottle die) s = execPowerCapThrottle die s := rfl
theorem exec_currentLimit (die : Nat) (s : State) : exec (.currentLimit die) s = execCurrentLimit die s := rfl
theorem exec_thermalTrip (die : Nat) (s : State) : exec (.thermalTrip die) s = execThermalTrip die s := rfl
theorem exec_thermalRelease (die : Nat) (s : State) : exec (.thermalRelease die) s = execThermalRelease die s := rfl
theorem exec_pcapWrite (die : Nat) (v : BitVec 32) (s : State) : exec (.pcapWrite die v) s = execPcapWrite die v s := rfl
theorem exec_timeServiceAdjust (ahead : Bool) (s : State) : exec (.timeServiceAdjust ahead) s = execTimeServiceAdjust ahead s := rfl

/-! ### Clocks -/

/-- The clock chosen for a slowed die lies below the one it ran on. -/
theorem Dev.lower_lt (d : Dev) (die : Nat) (h : 1 < (nth d.pwr die).aclk.toNat) : d.lower die < (nth d.pwr die).aclk.toNat := by
  have := Nat.mod_lt (Config.slowClock d.free) (show max ((nth d.pwr die).aclk.toNat - 1) 1 > 0 by omega)
  unfold Dev.lower
  omega

/-- Without a cap or a current limit that holds it down, a running die's clock is the full one. -/
theorem Pwr.reclock_full {p : Pwr} (ht : p.tripped = none) (hc : p.capped = none) (ho : p.overCur = none) : p.reclock.aclk = 4000 := by
  simp [Pwr.reclock, ht, hc, ho]

/-- A running die's clock is at most the bound that its cap sets. -/
theorem Pwr.reclock_capped_le {p : Pwr} (ht : p.tripped = none) (k : Nat) : ({ p with capped := some k } : Pwr).reclock.aclk.toNat ≤ k := by
  simp only [Pwr.reclock, ht, Option.isSome_none, Option.getD_some]
  exact Nat.le_trans (Nat.mod_le _ _) (by omega)

/-- A running die's clock is at most the bound that its current limit sets. -/
theorem Pwr.reclock_overCur_le {p : Pwr} (ht : p.tripped = none) (k : Nat) : ({ p with overCur := some k } : Pwr).reclock.aclk.toNat ≤ k := by
  simp only [Pwr.reclock, ht, Option.isSome_none, Option.getD_some]
  exact Nat.le_trans (Nat.mod_le _ _) (by omega)

@[simp] theorem Pwr.cap_pcap (p : Pwr) (v : BitVec 32) : (p.cap v).pcap = v := rfl
/-- A new cap brings no limit of its own. -/
theorem Pwr.cap_full {p : Pwr} (v : BitVec 32) (ht : p.tripped = none) (hc : p.capped = none) (ho : p.overCur = none) :
    (p.cap v).aclk = 4000 := by
  refine Pwr.reclock_full ht ?_ ho
  simp [hc]

/-- The power block that a thermal release leaves, before its clock is set again: the trip is over and a cap that was written meanwhile holds. -/
def Pwr.restart (p : Pwr) : Pwr :=
  match p.pcapNext with
  | some v => ({ p with tripped := none, pcapNext := none } : Pwr).cap v
  | none => { p with tripped := none, pcapNext := none }

theorem Pwr.restart_tripped (p : Pwr) : p.restart.tripped = none := by unfold Pwr.restart; split <;> rfl
theorem Pwr.restart_pcapNext (p : Pwr) : p.restart.pcapNext = none := by unfold Pwr.restart; split <;> rfl
theorem Pwr.restart_overCur (p : Pwr) : p.restart.overCur = p.overCur := by unfold Pwr.restart; split <;> rfl
theorem Pwr.restart_pcap (p : Pwr) : p.restart.pcap = p.pcapNext.getD p.pcap := by
  unfold Pwr.restart
  split <;> simp [*]
theorem Pwr.restart_capped {p : Pwr} (h : p.capped = none) : p.restart.capped = none := by
  unfold Pwr.restart
  split <;> simp [Pwr.cap, Pwr.reclock, h]

/-- An instruction slows the clock of a running die, and changes nothing else but the counter of free values. -/
def SlowsClock (i : Instr) (die : Nat) (s : State) : Prop :=
  ∃ p : Pwr, exec i s = .next (s.on (s.m.modD fun d => { d with pwr := setNth d.pwr die p, free := d.free + 1 })) ∧
    (1 < (nth s.m.dev.pwr die).aclk.toNat → p.aclk.toNat < (nth s.m.dev.pwr die).aclk.toNat) ∧
    p.pcap = (nth s.m.dev.pwr die).pcap ∧ p.tripped = none

section
variable {s : State} {die : Nat}

/-- The cap's bound is chosen below the present clock, and the clock keeps to it (R21). -/
theorem powerCapThrottle_slows (hdie : die < 4) (ht : (nth s.m.dev.pwr die).tripped = none) : SlowsClock (.powerCapThrottle die) die s := by
  refine ⟨({ nth s.m.dev.pwr die with capped := some (s.m.dev.lower die) } : Pwr).reclock, ?_, fun h => ?_, rfl, ht⟩
  · rw [exec_powerCapThrottle, execPowerCapThrottle]
    exact event_on (if_neg (by simp [ht, hdie]))
  · exact Nat.lt_of_le_of_lt (Pwr.reclock_capped_le ht _) (Dev.lower_lt _ _ h)

/-- The current limit's bound is chosen below the present clock, and the clock keeps to it (R391). -/
theorem currentLimit_slows (hdie : die < 4) (ht : (nth s.m.dev.pwr die).tripped = none) : SlowsClock (.currentLimit die) die s := by
  refine ⟨({ nth s.m.dev.pwr die with overCur := some (s.m.dev.lower die) } : Pwr).reclock, ?_, fun h => ?_, rfl, ht⟩
  · rw [exec_currentLimit, execCurrentLimit]
    exact event_on (if_neg (by simp [ht, hdie]))
  · exact Nat.lt_of_le_of_lt (Pwr.reclock_overCur_le ht _) (Dev.lower_lt _ _ h)

/-- While a trip is in force no limit and no further trip changes anything. -/
theorem limits_of_tripped (ht : (nth s.m.dev.pwr die).tripped.isSome) :
    ∀ i ∈ [Instr.powerCapThrottle die, .currentLimit die, .thermalTrip die], exec i s = .next s := by
  simp only [List.forall_mem_cons, exec_powerCapThrottle, execPowerCapThrottle, exec_currentLimit, execCurrentLimit, exec_thermalTrip,
    execThermalTrip]
  exact ⟨event_same (by simp [ht]), event_same (by simp [ht]), event_same (by simp [ht]), by simp⟩

/-- A trip stops a running die's clock and notes its milepost. -/
theorem thermalTrip_stops (hdie : die < 4) (ht : (nth s.m.dev.pwr die).tripped = none) :
    exec (.thermalTrip die) s = .next (s.on (s.m.modD fun d =>
      { d with pwr := setNth d.pwr die { nth s.m.dev.pwr die with tripped := some d.milepost, aclk := 0 } })) := by
  rw [exec_thermalTrip, execThermalTrip]
  exact event_on (if_neg (by simp [ht, hdie]))

/-- A release of a die that runs does nothing. -/
theorem thermalRelease_of_running (ht : (nth s.m.dev.pwr die).tripped = none) : exec (.thermalRelease die) s = .next s := by
  rw [exec_thermalRelease, execThermalRelease]
  exact event_same (by simp [ht])

/-- A release starts a stopped die's clock under the cap that was written meanwhile (R391, R402). -/
theorem thermalRelease_starts (hdie : die < 4) (ht : (nth s.m.dev.pwr die).tripped.isSome) :
    ∃ p : Pwr, exec (.thermalRelease die) s = .next (s.on (s.m.modD fun d => { d with pwr := setNth d.pwr die p })) ∧
      p.tripped = none ∧ p.pcapNext = none ∧ p.pcap = (nth s.m.dev.pwr die).pcapNext.getD (nth s.m.dev.pwr die).pcap ∧
      ((nth s.m.dev.pwr die).capped = none → (nth s.m.dev.pwr die).overCur = none → p.aclk = 4000) := by
  refine ⟨(nth s.m.dev.pwr die).restart.reclock, ?_, Pwr.restart_tripped _, Pwr.restart_pcapNext _, Pwr.restart_pcap _,
    fun hc ho => Pwr.reclock_full (Pwr.restart_tripped _) (Pwr.restart_capped hc) ((Pwr.restart_overCur _).trans ho)⟩
  rw [exec_thermalRelease, execThermalRelease]
  exact event_on (if_neg (by simp [hdie, Option.isSome_iff_ne_none.mp ht]))

/-- A cap that is written to a stopped die waits for the restart (R402). -/
theorem pcapWrite_of_tripped (hdie : die < 4) (v : BitVec 32) (ht : (nth s.m.dev.pwr die).tripped.isSome) :
    exec (.pcapWrite die v) s = .next (s.on (s.m.modD fun d =>
      { d with pwr := setNth d.pwr die { nth s.m.dev.pwr die with pcapNext := some (BitVec.ofNat 32 (max 100 (min 520 v.toNat))) } })) := by
  rw [exec_pcapWrite, execPcapWrite]
  exact event_on (by simp [hdie, Mach.modD, Dev.writePcap, ht, clampTo])

/-- A cap that is written to a running die holds at once, between 100 and 520 W (R390). -/
theorem pcapWrite_of_running (hdie : die < 4) (v : BitVec 32) (ht : (nth s.m.dev.pwr die).tripped = none) :
    ∃ p : Pwr, exec (.pcapWrite die v) s = .next (s.on (s.m.modD fun d => { d with pwr := setNth d.pwr die p })) ∧
      p.pcap = BitVec.ofNat 32 (max 100 (min 520 v.toNat)) ∧ p.tripped = none ∧
      ((nth s.m.dev.pwr die).capped = none → (nth s.m.dev.pwr die).overCur = none → p.aclk = 4000) := by
  refine ⟨(nth s.m.dev.pwr die).cap (BitVec.ofNat 32 (max 100 (min 520 v.toNat))), ?_, rfl, ht, fun hc ho => Pwr.cap_full _ ht hc ho⟩
  rw [exec_pcapWrite, execPcapWrite]
  exact event_on (by simp [hdie, Mach.modD, Dev.writePcap, ht, clampTo])

end

/-- What limits a die's clock. -/
theorem clocksAndCaps : Parts.ClocksAndCaps := by
  intro s die v hdie
  refine ⟨fun ht => ?_, limits_of_tripped, thermalTrip_stops hdie, thermalRelease_of_running, thermalRelease_starts hdie,
    pcapWrite_of_tripped hdie v, pcapWrite_of_running hdie v⟩
  simp only [List.forall_mem_cons]
  exact ⟨powerCapThrottle_slows hdie ht, currentLimit_slows hdie ht, by simp⟩

/-! ### The time service -/

/-- A die at full clock with no part of a reference cycle left over counts one reference cycle for an A-cycle. -/
theorem Dev.clock_full {d : Dev} {die : Nat} (hclk : (nth d.pwr die).aclk = 4000) (hfrac : d.mpFrac = 0) :
    d.clock die = { d.mileposts 1 with mpFrac := 0, mpClk := 4000, acyc := d.acyc + 1 } := by
  simp [Dev.clock, hclk, hfrac]

/-- The time service moves the counter by one reference cycle, in the next A-cycle, at most once in 4,096 A-cycles (R19). -/
theorem milepostAdjustment : Parts.MilepostAdjustment := by
  refine ⟨fun s ahead => ⟨fun hdue => ?_, fun hwait => ?_⟩, fun d die hclk hfrac => ?_⟩
  · rw [exec_timeServiceAdjust, execTimeServiceAdjust]
    exact event_on (if_neg (Nat.not_lt.mpr hdue))
  · rw [exec_timeServiceAdjust, execTimeServiceAdjust]
    exact event_same (if_pos hwait)
  · rw [Dev.clock_full hclk hfrac]
    refine ⟨rfl, rfl, rfl, rfl, fun hh hm => ?_, fun hh hm => ?_, fun hh hm => ?_⟩ <;> simp [Dev.mileposts, hh, hm]

/-- Settles O37: the clauses on a die's clock, and those on the milepost counter. -/
theorem clocksCapsAndTime : Obligations.ClocksCapsAndTime := ⟨clocksAndCaps, milepostAdjustment⟩

end Sys2Proof.Machine
end

section
/-! Loss of the supply, package reset and the stages of bring-up (O38). -/

namespace Sys2Proof.Machine

/-! ### Loss of the supply (R22, R391) -/

theorem exec_supplyLoss (s : State) : exec .supplyLoss s = event Mach.unpowered s := rfl
theorem exec_thermalShutdown (die : Nat) (s : State) : exec (.thermalShutdown die) s = execThermalShutdown die s := rfl
theorem exec_packageReset (s : State) : exec .packageReset s = event Mach.rom s := rfl

/-- A die above its trip for 100 ms takes the supply from the whole device. -/
theorem thermalShutdown_of_tripped {s : State} {die t : Nat} (hdie : die < 4) (ht : (nth s.m.dev.pwr die).tripped = some t) :
    exec (.thermalShutdown die) s = if t + 400000000 ≤ s.m.dev.milepost then exec .supplyLoss s else .next s := by
  rw [exec_thermalShutdown, execThermalShutdown, exec_supplyLoss]
  simp only [event, if_neg (Nat.not_le.mpr hdie), ht]
  split
  · rfl
  · rfl

/-- Package reset alone is the step that the model lets pass without the supply. -/
theorem isReset_eq_false {i : Instr} (h : i ≠ .packageReset) : isReset i = false := by
  unfold isReset
  split
  · exact absurd rfl h
  · rfl

/-- Without the supply and without anything from outside a step stops. -/
theorem step_unpowered_idle {s : State} (hp : s.m.dev.powered = false) (hi : s.inputs = []) : step s = .fault .supplyOff := by
  simp [step, hi, hp]

/-- Without the supply all that comes from outside is lost but package reset. -/
theorem step_unpowered_input {s : State} (hp : s.m.dev.powered = false) {i : Instr} {is : List Instr} (hi : s.inputs = i :: is)
    (hr : i ≠ .packageReset) : step s = .next { s with inputs := is } := by
  simp [step, hi, hp, isReset_eq_false hr]

/-- What the loss of the supply leaves. -/
theorem supplyIsLost : Parts.SupplyIsLost := by
  intro s
  refine ⟨⟨s.m.unpowered, exec_supplyLoss s, rfl, rfl, rfl, rfl, rfl, rfl, rfl, rfl, rfl, rfl, rfl, rfl, rfl⟩,
    fun _ _ hdie => thermalShutdown_of_tripped hdie, fun hp => ⟨step_unpowered_idle hp, fun _ _ => step_unpowered_input hp⟩⟩

/-! ### Generations and ports: what they leave of the device (R14, R385) -/

/-- Advancing generations changes the generations and their quarantines alone. -/
theorem Dev.advanceGens_frame (dies : List Nat) (d : Dev) :
    ∃ (old : List (Nat × BitVec 16 × Nat)) (gen : Vector (BitVec 16) 4),
      dies.foldl Dev.advanceGen d = { d with genOld := old, egen := gen } := by
  induction dies generalizing d with
  | nil => exact ⟨d.genOld, d.egen, rfl⟩
  | cons die dies ih => exact ih (d.advanceGen die)

/-- Training a port changes the ports, the retired parts and the generations alone. -/
theorem Dev.trainPort_frame (d : Dev) (p n : Nat) :
    ∃ (ret : List (Nat × Nat × Word)) (ps : Vector Port 30) (old : List (Nat × BitVec 16 × Nat)) (gen : Vector (BitVec 16) 4),
      d.trainPort p n = { d with retired := ret, ports := ps, genOld := old, egen := gen } := by
  simp only [Dev.trainPort, Dev.portLanes]
  split
  · exact ⟨_, _, _, _, rfl⟩
  · exact ⟨_, _, _, _, rfl⟩

/-- Training ports one by one changes no more than training one. -/
theorem Dev.trainPorts_frame (lanes : List (Nat × Nat)) (d : Dev) :
    ∃ (ret : List (Nat × Nat × Word)) (ps : Vector Port 30) (old : List (Nat × BitVec 16 × Nat)) (gen : Vector (BitVec 16) 4),
      lanes.foldl (fun d e => if e.1 < 30 then d.trainPort e.1 e.2 else d) d =
        { d with retired := ret, ports := ps, genOld := old, egen := gen } := by
  induction lanes generalizing d with
  | nil => exact ⟨_, _, _, _, rfl⟩
  | cons e lanes ih =>
    rw [List.foldl_cons]
    split
    · obtain ⟨ret, ps, old, gen, he⟩ := d.trainPort_frame e.1 e.2
      rw [he]
      obtain ⟨ret', ps', old', gen', hrest⟩ := ih { d with retired := ret, ports := ps, genOld := old, egen := gen }
      exact ⟨ret', ps', old', gen', hrest⟩
    · exact ih d

/-! ### Package reset and the ROM's stage (R397, R399) -/

/-- The boot state that a reset finds, with the security version that takes effect. -/
def Boot.atReset (b : Boot) : Boot :=
  { b.cold with fusedSvn := max b.fusedSvn b.nextSvn, nextSvn := max b.fusedSvn b.nextSvn }

/-- What a reset does not touch, over the state without supply: fuses and flash, retired parts, generations. -/
def Mach.kept (m : Mach) : Dev :=
  { Dev.zero with
    devid := m.dev.devid
    free := m.dev.free
    boot := m.dev.boot.atReset
    retired := m.dev.retired
    egen := m.dev.egen
    gens := m.dev.gens
    genOld := m.dev.genOld.map fun e => (e.1, e.2.1, 0) }

/-- A reset advances the generation of every endpoint and brings the ports up on the lanes that are left. -/
theorem Mach.fresh_dev (m : Mach) :
    m.fresh.dev = { (List.range 4).foldl Dev.advanceGen m.kept with
      ports := Vector.ofFn fun i => { Port.up with lanes := runLanes (m.kept.lanesLeft i.val) } } := rfl

/-- Of what a reset keeps it changes the generations, their quarantines and the ports alone. -/
theorem Mach.fresh_frame (m : Mach) :
    ∃ (old : List (Nat × BitVec 16 × Nat)) (gen : Vector (BitVec 16) 4) (ps : Vector Port 30),
      m.fresh.dev = { m.kept with genOld := old, egen := gen, ports := ps } := by
  obtain ⟨old, gen, he⟩ := Dev.advanceGens_frame (List.range 4) m.kept
  rw [Mach.fresh_dev, he]
  exact ⟨old, gen, _, rfl⟩

/-- Stage 1 before the ROM has checked a slot. -/
def Mach.romStart (m : Mach) : Mach := m.fresh.modD fun d => { d with stageNo := 1 }

/-- Everything that the clauses on package reset name stands at its reset value, with the boot state of a reset. -/
theorem Mach.romStart_dev (m : Mach) :
    m.romStart.dev.boot = m.dev.boot.atReset ∧ m.romStart.dev.powered = true ∧ m.romStart.dev.mem = [] ∧ m.romStart.dev.milepost = 0 ∧
      m.romStart.dev.launches = [] ∧ m.romStart.dev.lnrdy = false ∧ m.romStart.dev.berr = 0 ∧ m.romStart.dev.berra = 0 ∧
      m.romStart.dev.meas = Vector.replicate 3 0 := by
  obtain ⟨old, gen, ps, h⟩ := m.fresh_frame
  simp only [Mach.romStart, Mach.modD_dev, h]
  exact ⟨rfl, rfl, rfl, rfl, rfl, rfl, rfl, rfl, rfl⟩

/-- Both slots were checked, and what the checks found is shown. -/
def Mach.romFound (m : Mach) (b : Boot) : Mach :=
  m.modD fun d => { d with berra := (b.check b.slotA).setWidth 4, berr := b.check b.slotB }
/-- The ROM's choice of a slot, over a boot state. -/
def Mach.romChoice (m : Mach) (b : Boot) : Mach :=
  if b.check b.slotA = 0 then m.bootFrom b.slotA false
  else if b.check b.slotB = 0 then (m.romFound b).bootFrom b.slotB true else m.romFound b

theorem Mach.romChoice_slotA (m : Mach) {b : Boot} (ha : b.check b.slotA = 0) : m.romChoice b = m.bootFrom b.slotA false := if_pos ha
theorem Mach.romChoice_slotB (m : Mach) {b : Boot} (ha : b.check b.slotA ≠ 0) (hb : b.check b.slotB = 0) :
    m.romChoice b = (m.romFound b).bootFrom b.slotB true := (if_neg ha).trans (if_pos hb)
theorem Mach.romChoice_neither (m : Mach) {b : Boot} (ha : b.check b.slotA ≠ 0) (hb : b.check b.slotB ≠ 0) :
    m.romChoice b = m.romFound b := (if_neg ha).trans (if_neg hb)

/-- The ROM chooses by the boot state of the reset. -/
theorem Mach.rom_eq (m : Mach) : m.rom = m.romStart.romChoice m.dev.boot.atReset := by
  have hrom : m.rom = m.romStart.romChoice m.romStart.dev.boot := rfl
  rw [hrom, m.romStart_dev.1]

/-- An image of firmware runs: its keys are derived and its payload is measured. -/
def Mach.Runs (uds : BitVec 256) (m : Mach) (i : FwImage) : Prop :=
  let meas := Config.sha256 (fwBody i)
  m.dev.boot.udsLocked = true ∧ nth m.dev.meas 0 = meas ∧ nth m.dev.meas 1 = 0 ∧ nth m.dev.meas 2 = 0 ∧
    m.dev.boot.aliasSeed = Config.hkdf48 uds (infoAl ++ bytes32 meas)

/-- The slot that the ROM starts runs. -/
theorem Mach.bootFrom_runs {m : Mach} {uds : BitVec 256} (huds : m.dev.boot.uds = uds) (hmeas : m.dev.meas = Vector.replicate 3 0)
    (i : FwImage) (slotB : Bool) : Mach.Runs uds (m.bootFrom i slotB) i := by
  subst huds
  refine ⟨rfl, nth_setNth_self _ _ _, ?_, ?_, rfl⟩ <;> simp [Mach.bootFrom, hmeas, nth_setNth]

/-- What every outcome of the ROM has in common. -/
theorem Mach.rom_common (m : Mach) :
    m.rom.dev.powered = true ∧ m.rom.dev.boot.fusedSvn = max m.dev.boot.fusedSvn m.dev.boot.nextSvn ∧ m.rom.dev.mem = [] ∧
      m.rom.dev.milepost = 0 ∧ m.rom.dev.launches = [] ∧ m.rom.thr0 = Thr.zero ∧ m.rom.thr1 = Thr.zero ∧ m.rom.dev.stageNo = 1 ∧
      m.rom.dev.lnrdy = false := by
  obtain ⟨hboot, hpow, hmem, hmp, hlaunch, hlnrdy, -⟩ := m.romStart_dev
  have hsvn : m.romStart.dev.boot.fusedSvn = max m.dev.boot.fusedSvn m.dev.boot.nextSvn := congrArg Boot.fusedSvn hboot
  rw [Mach.rom_eq, Mach.romChoice]
  split
  · exact ⟨hpow, hsvn, hmem, hmp, hlaunch, rfl, rfl, rfl, hlnrdy⟩
  · split
    · exact ⟨hpow, hsvn, hmem, hmp, hlaunch, rfl, rfl, rfl, hlnrdy⟩
    · exact ⟨hpow, hsvn, hmem, hmp, hlaunch, rfl, rfl, rfl, hlnrdy⟩

section
variable {m : Mach}

/-- Slot A passes. -/
theorem Mach.rom_of_slotA (ha : m.dev.boot.atReset.check m.dev.boot.slotA = 0) :
    m.rom.dev.slotB = false ∧ m.rom.dev.berr = 0 ∧ m.rom.dev.berra = 0 ∧ Mach.Runs m.dev.boot.uds m.rom m.dev.boot.slotA := by
  obtain ⟨hboot, -, -, -, -, -, hberr, hberra, hmeas⟩ := m.romStart_dev
  rw [Mach.rom_eq, Mach.romChoice_slotA _ ha]
  exact ⟨rfl, hberr, hberra, Mach.bootFrom_runs (congrArg Boot.uds hboot) hmeas _ false⟩

/-- Slot A fails: what both slots were found to be is shown. -/
theorem Mach.rom_berr (ha : m.dev.boot.atReset.check m.dev.boot.slotA ≠ 0) :
    m.rom.dev.berra = (m.dev.boot.atReset.check m.dev.boot.slotA).setWidth 4 ∧ m.rom.dev.berr = m.dev.boot.atReset.check m.dev.boot.slotB := by
  rw [Mach.rom_eq]
  by_cases hb : m.dev.boot.atReset.check m.dev.boot.slotB = 0
  · rw [Mach.romChoice_slotB _ ha hb]
    exact ⟨rfl, rfl⟩
  · rw [Mach.romChoice_neither _ ha hb]
    exact ⟨rfl, rfl⟩

/-- Slot A fails and slot B passes. -/
theorem Mach.rom_of_slotB (ha : m.dev.boot.atReset.check m.dev.boot.slotA ≠ 0) (hb : m.dev.boot.atReset.check m.dev.boot.slotB = 0) :
    m.rom.dev.slotB = true ∧ Mach.Runs m.dev.boot.uds m.rom m.dev.boot.slotB := by
  obtain ⟨hboot, -, -, -, -, -, -, -, hmeas⟩ := m.romStart_dev
  rw [Mach.rom_eq, Mach.romChoice_slotB _ ha hb]
  exact ⟨rfl, Mach.bootFrom_runs (m := m.romStart.romFound m.dev.boot.atReset) (congrArg Boot.uds hboot) hmeas _ true⟩

/-- Both slots fail: nothing is derived. -/
theorem Mach.rom_of_neither (ha : m.dev.boot.atReset.check m.dev.boot.slotA ≠ 0) (hb : m.dev.boot.atReset.check m.dev.boot.slotB ≠ 0) :
    m.rom.dev.boot.udsLocked = false := by
  rw [Mach.rom_eq, Mach.romChoice_neither _ ha hb]
  exact congrArg Boot.udsLocked m.romStart_dev.1

end

/-! ### The stages of bring-up after the ROM's (R401) -/

theorem exec_bringUp (off : BitVec 32) (size : Nat) (auth : Bool) (b : BootStep) (s : State) :
    exec (.mgmtRegisterWrite off size (.bringUp b) auth) s = event (fun m => m.stage b) s := rfl

/-- The number whose binary digits are the values of a function, by its digits. -/
theorem testBit_foldr_digits (n : Nat) (f : Nat → Bool) (j : Nat) :
    ((List.range n).foldr (fun i a => 2 * a + if f i then 1 else 0) 0).testBit j = (decide (j < n) && f j) := by
  induction n generalizing f j with
  | zero => simp
  | succ n ih =>
    rw [List.range_succ_eq_map, List.foldr_cons, List.foldr_map]
    cases j with
    | zero => cases h : f 0 <;> simp [Nat.testBit_zero]
    | succ j =>
      have hshift : ∀ a : Nat, (2 * a + if f 0 then 1 else 0).testBit (j + 1) = a.testBit j := by
        intro a
        rw [Nat.testBit_succ]
        congr 1
        split <;> omega
      rw [hshift, ih (fun i => f (i + 1)) j]
      simp

/-- The bits of a bit vector that is given bit by bit. -/
theorem getLsbD_bitsBy (n : Nat) (f : Nat → Bool) (i : Nat) : (bitsBy n f).getLsbD i = (decide (i < n) && f i) := by
  rw [bitsBy, BitVec.getLsbD_ofNat, testBit_foldr_digits]
  simp

/-- What training leaves of the dies and of the expanders (R13, R144). -/
theorem Dev.train_ports (d : Dev) (lanes : List (Nat × Nat)) (cxl : BitVec 8) (sizes : List Nat) :
    (d.train lanes cxl sizes).dies = d.dies ∧
      ∀ i < 8, nth (d.train lanes cxl sizes).cxlSize i = min (sizes.getD i 0) 67108864 ∧
        ((d.train lanes cxl sizes).cxl.getLsbD i = true ↔
          cxl.getLsbD i = true ∧ sizes.getD i 0 ≠ 0 ∧ d.dies.getLsbD (i / 2) = true) := by
  obtain ⟨ret, ps, old, gen, he⟩ := Dev.trainPorts_frame lanes d
  simp only [Dev.train, he]
  refine ⟨rfl, fun i hi => ?_⟩
  have hsize : nth (Vector.ofFn fun k : Fin 8 => min (sizes.getD k.val 0) maxExpander) i = min (sizes.getD i 0) 67108864 := by
    simp [nth, Nat.mod_eq_of_lt hi, maxExpander]
  refine ⟨hsize, ?_⟩
  simp only [Dev.over, getLsbD_bitsBy, bit, hsize, hi, decide_true, Bool.true_and, Bool.and_eq_true, decide_eq_true_eq, and_assoc]
  refine and_congr_right fun _ => and_congr_left fun _ => ?_
  omega

/-- A lane that was replaced. -/
theorem Dev.lane_setLane_self (d : Dev) (n : Nat) (x : Lane_) : (d.setLane n x).lane n = x := by
  have hfind : (insertLane n x d.lanes).find? (fun e => e.1 = n) = some (n, x) := by
    induction d.lanes with
    | nil => simp [insertLane]
    | cons e r ih =>
      unfold insertLane
      split
      · simp
      · split
        · simp
        · next hne => simpa [List.find?_cons, Ne.symm hne] using ih
  simp only [Dev.lane, Dev.setLane, hfind]

/-- The one lane that firmware configures. -/
theorem Dev.lane_configure (d : Dev) (base len lbase lcfg : Word) {n : Nat} (hn : n < laneCount) :
    (d.configure base len [(n, lbase, lcfg)]).lane n =
      { d.lane n with lbase := lbase &&& 0xFFFFFFFFFFFFFF80, lcfg := lcfg &&& lcfgMask } := by
  rw [Dev.configure, List.foldl_cons, List.foldl_nil, if_pos hn]
  exact Dev.lane_setLane_self d n _

/-- A stage takes place. -/
theorem bringUp_on {off : BitVec 32} {size : Nat} {auth : Bool} {b : BootStep} {s : State} {m : Mach} (h : s.m.stage b = m) :
    exec (.mgmtRegisterWrite off size (.bringUp b) auth) s = .next (s.on m) := by
  rw [exec_bringUp]
  exact event_on h
/-- A stage that is out of order does nothing. -/
theorem bringUp_same {off : BitVec 32} {size : Nat} {auth : Bool} {b : BootStep} {s : State} (h : s.m.stage b = s.m) :
    exec (.mgmtRegisterWrite off size (.bringUp b) auth) s = .next s := by
  rw [exec_bringUp]
  exact event_same h

/-- Package reset and bring-up. -/
theorem packageReset : Parts.PackageReset := by
  intro s
  refine ⟨⟨s.m.rom, exec_packageReset s, ?_⟩, fun off size auth => ⟨fun dies => ⟨fun hup => ?_, fun hout => ?_⟩, fun dies => ⟨fun hup => ?_, fun hout => ?_⟩,
    fun lanes cxl sizes => ⟨fun hup => ?_, fun hout => ?_⟩, fun base len lanes => ⟨fun hup => ?_, fun hout => ?_⟩⟩⟩
  · obtain ⟨hpow, hsvn, hmem, hmp, hlaunch, ht0, ht1, hstage, hlnrdy⟩ := s.m.rom_common
    exact ⟨hpow, hsvn, hmem, hmp, hlaunch, ht0, ht1, hstage, hlnrdy, Mach.rom_of_slotA, Mach.rom_berr, Mach.rom_of_slotB, Mach.rom_of_neither⟩
  · obtain ⟨hstage, hlock, hdie0⟩ := hup
    exact ⟨_, bringUp_on (if_neg (by simp [hstage, hlock, hdie0, bit])), rfl, rfl, rfl⟩
  · refine bringUp_same (if_pos ?_)
    simp only [Classical.not_and_iff_not_or_not, Bool.not_eq_true] at hout
    simp only [bit, Bool.or_eq_true, decide_eq_true_eq, Bool.not_eq_true', or_assoc]
    exact hout
  · exact ⟨_, bringUp_on (if_neg (by simpa [hup.1] using hup.2)), rfl, rfl, rfl⟩
  · refine bringUp_same (if_pos ?_)
    simp only [Classical.not_and_iff_not_or_not, ne_eq, Classical.not_not] at hout
    simp only [Bool.or_eq_true, decide_eq_true_eq]
    exact hout
  · obtain ⟨hdies, hcxl⟩ := s.m.dev.train_ports lanes cxl sizes
    exact ⟨_, bringUp_on (if_neg (by simp [hup])), rfl, hdies, hcxl⟩
  · exact bringUp_same (if_pos hout)
  · refine ⟨_, bringUp_on (if_neg (by simp [hup])), rfl, rfl, rfl, rfl, ?_⟩
    rintro n lbase lcfg rfl hn
    have hlane := s.m.dev.lane_configure base len lbase lcfg hn
    exact ⟨congrArg Lane_.lbase hlane, congrArg Lane_.lcfg hlane⟩
  · exact bringUp_same (if_pos hout)

/-- Settles O38: the loss of the supply, and package reset with the stages of bring-up. -/
theorem supplyAndReset : Obligations.SupplyAndReset := ⟨supplyIsLost, packageReset⟩

end Sys2Proof.Machine
end

section
/-! Links that retrain while an error queue is full (O57). -/

namespace Sys2Proof.Machine

/-! ### A link that retrains (R373, R374, R384) -/

theorem exec_flitReceive (port : Nat) (crcOk : Bool) (seq : BitVec 12) (w : Wire) (s : State) :
    exec (.flitReceive port crcOk seq w) s = execFlitReceive port crcOk seq w s := rfl

/-- A flit that fails its CRC again makes the link retrain. -/
theorem flitReceive_failed_again {s : State} {port : Nat} (hport : port < 30) (hlanes : (nth s.m.dev.ports port).lanes ≠ 0)
    (hretrain : (nth s.m.dev.ports port).retrain = false) (hbad : (nth s.m.dev.ports port).badOnce = true) (seq : BitVec 12) (w : Wire) :
    exec (.flitReceive port false seq w) s = .next (s.on (s.m.modD fun d => d.relink port (nth s.m.dev.ports port))) := by
  rw [exec_flitReceive, execFlitReceive]
  simp only [event, State.on, Nat.not_le.mpr hport, hlanes, hretrain, hbad]
  rfl

/-- One event counted: its counter goes up by one unless it stands at its largest value, and every other counter stays. -/
theorem Dev.nth_cnt_count (d : Dev) (die k die' k' : Nat) :
    nth (nth (d.count die k).cnt die') k' =
      if die % 4 = die' % 4 ∧ k % 13 = k' % 13 then
        (if nth (nth d.cnt die) k = 0xFFFFFFFF then 0xFFFFFFFF else nth (nth d.cnt die) k + 1)
      else nth (nth d.cnt die') k' := by
  simp only [Dev.count, nth_setNth]
  by_cases hdie : die % 4 = die' % 4
  · by_cases hk : k % 13 = k' % 13
    · simp [hdie, hk, nth_setNth]
    · have : nth d.cnt die = nth d.cnt die' := by simp [nth, hdie]
      simp [hdie, hk, nth_setNth, this]
  · simp [hdie]

/-- A record that is queued counts nothing. -/
theorem Dev.cnt_record_of_room {d : Dev} {die : Nat} (r : Rec0) (hroom : (nth d.errs die).recs.length < 256) :
    (d.record die r).cnt = d.cnt := by
  simp only [Dev.record, if_neg (Nat.not_le.mpr hroom)]

/-- A record that finds 256 queued is dropped and counted (R374). -/
theorem Dev.cnt_record_of_full {d : Dev} {die : Nat} (r : Rec0) (hfull : 256 ≤ (nth d.errs die).recs.length) :
    (d.record die r).cnt = (d.count die 8).cnt := by
  simp only [Dev.record, if_pos hfull]
  rfl

/-- With room in its error queue a link that retrains counts its lasting error and nothing else. -/
theorem Dev.cnt_relink_of_room {d : Dev} {port : Nat} (x : Port) (hroom : (nth d.errs (portDie port)).recs.length < 256) :
    (d.relink port x).cnt = (d.count (portDie port) 7).cnt :=
  Dev.cnt_record_of_room _ hroom

/-- With a full error queue it counts the record that is dropped, too. -/
theorem Dev.cnt_relink_of_full {d : Dev} {port : Nat} (x : Port) (hfull : 256 ≤ (nth d.errs (portDie port)).recs.length) :
    (d.relink port x).cnt = ((d.count (portDie port) 7).count (portDie port) 8).cnt :=
  Dev.cnt_record_of_full _ hfull

/-- An error queue that holds all the 256 records it has room for. -/
def fullQueue : ErrQ := ⟨List.replicate 256 (Vector.replicate 8 0), 0, 0⟩
theorem fullQueue_length : fullQueue.recs.length = 256 := List.length_replicate

/-- After reset, with a full error queue on die 0 and a flit of port 0 that has failed its CRC once. -/
def fullQueueState : State :=
  State.reset.on (State.reset.m.modD fun d =>
    { d.setPort 0 { Port.up with badOnce := true } with errs := setNth d.errs 0 fullQueue })

theorem fullQueueState_port : nth fullQueueState.m.dev.ports 0 = { Port.up with badOnce := true } := nth_setNth_self _ _ _
theorem fullQueueState_errs : nth fullQueueState.m.dev.errs (portDie 0) = fullQueue := nth_setNth_self _ _ _
theorem fullQueueState_cnt (die k : Nat) : nth (nth fullQueueState.m.dev.cnt die) k = 0 := by
  have hcnt : fullQueueState.m.dev.cnt = Vector.replicate 4 (Vector.replicate 13 0) := rfl
  rw [hcnt, nth_replicate, nth_replicate]

/-- Refutes O57: the clause on a flit that fails its CRC again says that the counters are those with the lasting error counted, without asking for room
in the error queue; with 256 records queued, the link's record is dropped and counter 8 counts it (R374). -/
theorem not_linksCheckpointsAndDieDrop : ¬ Obligations.LinksCheckpointsAndDieDrop := by
  rintro ⟨⟨-, hports⟩, -⟩
  have hport := fullQueueState_port
  obtain ⟨-, -, hruns, -⟩ := hports fullQueueState 0 (by omega)
  obtain ⟨-, hbad, -⟩ := hruns (by simp [hport, Port.up]) (by simp [hport, Port.up]) 0 0 0 0 0 .idle
  obtain ⟨d, hstep, -, -, hcnt, -⟩ := hbad (by simp [hport])
  rw [flitReceive_failed_again (by omega) (by simp [hport, Port.up]) (by simp [hport, Port.up]) (by simp [hport])] at hstep
  have hfull : 256 ≤ (nth fullQueueState.m.dev.errs (portDie 0)).recs.length := by
    rw [fullQueueState_errs]
    exact Nat.le_of_eq fullQueue_length.symm
  have hd := next_on_dev hstep
  rw [Mach.modD_dev] at hd
  have hboth := (congrArg Dev.cnt hd).trans hcnt
  rw [Dev.cnt_relink_of_full _ hfull] at hboth
  have hdropped := congrArg (fun c => nth (nth c (portDie 0)) 8) hboth
  simp [Dev.nth_cnt_count, fullQueueState_cnt] at hdropped

end Sys2Proof.Machine
end
